-- ==== Sys2Proof/Word.lean ====
section
/-! DEFINITION. The byte of the feed line, head indices, and one value for each of the eight heads (or notice slots). -/

namespace Sys2Proof

/-- A data byte of the feed line (R1). -/
abbrev Byte := BitVec 8

/-- A head index or a notice slot, 0..7 (00_scope, 6.4). -/
abbrev HeadIx := Fin 8

/-- The eight indices in ascending order. -/
def HeadIx.all : List HeadIx := [0, 1, 2, 3, 4, 5, 6, 7]

/-- One value for each index 0..7. -/
structure Bank8 (α : Type) where
  at0 : α
  at1 : α
  at2 : α
  at3 : α
  at4 : α
  at5 : α
  at6 : α
  at7 : α
  deriving DecidableEq, Repr

/-- The value at an index. -/
def Bank8.get {α : Type} (b : Bank8 α) (i : HeadIx) : α :=
  match i with
  | 0 => b.at0
  | 1 => b.at1
  | 2 => b.at2
  | 3 => b.at3
  | 4 => b.at4
  | 5 => b.at5
  | 6 => b.at6
  | 7 => b.at7

/-- The bank with the value at one index replaced. -/
def Bank8.set {α : Type} (b : Bank8 α) (i : HeadIx) (v : α) : Bank8 α :=
  match i with
  | 0 => { b with at0 := v }
  | 1 => { b with at1 := v }
  | 2 => { b with at2 := v }
  | 3 => { b with at3 := v }
  | 4 => { b with at4 := v }
  | 5 => { b with at5 := v }
  | 6 => { b with at6 := v }
  | 7 => { b with at7 := v }

/-- The same value at every index. -/
def Bank8.fill {α : Type} (v : α) : Bank8 α := ⟨v, v, v, v, v, v, v, v⟩

/-- A function of index and value applied at every index. -/
def Bank8.mapIx {α β : Type} (f : HeadIx → α → β) (b : Bank8 α) : Bank8 β :=
  ⟨f 0 b.at0, f 1 b.at1, f 2 b.at2, f 3 b.at3, f 4 b.at4, f 5 b.at5, f 6 b.at6, f 7 b.at7⟩

end Sys2Proof
end

