-- ==== Sys2Proof/Syntax.lean ====
section
/-! DEFINITION. The commands of the part: one constructor for each row of spec/opcode_table.json. -/

namespace Sys2Proof

/-- The type of a scope pair: its marker is 0xF5 for a zone and 0xF6 for a group (section 1.4). -/
inductive ScopeKind where
  | zone
  | group
  deriving DecidableEq, Repr

/-- A scope pair: the marker's type and the value byte. -/
structure ScopePair where
  kind  : ScopeKind
  value : Byte
  deriving DecidableEq, Repr

/-- A frame as a sender writes it: the body of R195 without Kind, Length and check word, which the
row, the payload and R5 give. -/
structure FeedFrame where
  hop     : Byte
  scope   : List ScopePair
  dest    : Byte
  source  : Byte
  flags   : Byte
  tag     : Byte
  payload : List Byte
  deriving DecidableEq, Repr

/-- The ROLE strap (R181). -/
inductive Role where
  | primary
  | standby
  deriving DecidableEq, Repr

/-- The CSRC strap, the source mode of the Station Clock (R80). -/
inductive ClockSource where
  | internal
  | pulse
  deriving DecidableEq, Repr

/-- The RATE strap, the line rate (R1). -/
inductive LineRate where
  | oneMbit
  | twoMbit
  deriving DecidableEq, Repr

/-- The straps sampled at the end of a hard reset (R193). -/
structure Straps where
  adr  : Fin 16
  role : Role
  csrc : ClockSource
  rate : LineRate
  deriving DecidableEq, Repr

/-- A command: one row of the table of operations and events. -/
inductive Instr where
  -- resets
  | hardReset
  | hardResetEnd (straps : Straps)
  -- line characters on FDI
  | idleMarker
  | syncMarker
  | dataByte (b : Byte)
  | invalidCharacter
  | frameArrival
  -- ends of transmission on FDO
  | idleGapEnd
  | forwardedFrameSent
  | replySent
  -- data frames
  | departurePut (f : FeedFrame)
  | departureAmend (f : FeedFrame)
  | departureRemove (f : FeedFrame)
  | stops (f : FeedFrame)
  | stopAmend (f : FeedFrame)
  | noticePut (f : FeedFrame)
  | noticeAppend (f : FeedFrame)
  | noticeClear (f : FeedFrame)
  | timeSet (f : FeedFrame)
  | namePut (f : FeedFrame)
  | nameDrop (f : FeedFrame)
  | namesClear (f : FeedFrame)
  | fontDefine (f : FeedFrame)
  | glyphPut (f : FeedFrame)
  | headDefine (f : FeedFrame)
  | headDrop (f : FeedFrame)
  | fieldPut (f : FeedFrame)
  | fieldDrop (f : FeedFrame)
  | brightnessTablePut (f : FeedFrame)
  -- management requests
  | statusQuery (f : FeedFrame)
  | counterRead (f : FeedFrame)
  | counterReadClear (f : FeedFrame)
  | eventClear (f : FeedFrame)
  | eventEnable (f : FeedFrame)
  | configureZone (f : FeedFrame)
  | configureGroup (f : FeedFrame)
  | configureOwnPlatform (f : FeedFrame)
  | configureDayStart (f : FeedFrame)
  | configureOverdueLimit (f : FeedFrame)
  | configureDelayedLimit (f : FeedFrame)
  | configureDepartedLinger (f : FeedFrame)
  | configureMovedLinger (f : FeedFrame)
  | configureDwell (f : FeedFrame)
  | configureDwellHoldLimit (f : FeedFrame)
  | configureBuildTimeout (f : FeedFrame)
  | configureFreezeTimeout (f : FeedFrame)
  | configureStrictNames (f : FeedFrame)
  | configureFramePeriod (f : FeedFrame)
  | configureSyncSource (f : FeedFrame)
  | configureAckTimeout (f : FeedFrame)
  | configureHysteresis (f : FeedFrame)
  | freeze (f : FeedFrame)
  | unfreeze (f : FeedFrame)
  | advance (f : FeedFrame)
  | blank (f : FeedFrame)
  | unblank (f : FeedFrame)
  | takeLink (f : FeedFrame)
  | giveLink (f : FeedFrame)
  | readBackDeparture (f : FeedFrame)
  | readBackCallingList (f : FeedFrame)
  | readBackName (f : FeedFrame)
  | readBackFont (f : FeedFrame)
  | readBackGlyph (f : FeedFrame)
  | readBackHead (f : FeedFrame)
  | readBackField (f : FeedFrame)
  | readBackNotice (f : FeedFrame)
  | readNext (f : FeedFrame)
  | addressAssign (f : FeedFrame)
  | restart (f : FeedFrame)
  -- the Station Clock; `micros` is the instant of the edge in microseconds since the end of reset
  | internalTick
  | secpRisingEdge (micros : Nat)
  | clockWatchExpiry
  | scheduledInstantTick
  -- one block's share of a second event
  | lingerExpiry
  | buildTimeout
  | dwellExpiry
  | holdTimeout
  | noticeExpiry
  | freezeTimeout
  -- the frame time base and the Composer
  | frameTimerExpiry
  | fsyncRisingEdge
  | fsyncWatchExpiry
  | fieldPaint (head : HeadIx)
  -- the Panel Link; `holdn` says whether HOLDN is found asserted at the test of R167
  | rowSent (holdn : Bool)
  | holdnRelease
  | holdLimitExpiry
  | ackReceived (head ambient : Byte)
  | nakReceived (head code : Byte)
  | ackTimeout
  | answerNotWellFormed (groups : List (BitVec 5))
  -- link ownership
  | lreqAsserted
  | lreqReleased
  | lgntAsserted
  | activity
  | grantWaitExpiry
  | headerSent (holdn : Bool)
  deriving DecidableEq, Repr

end Sys2Proof
end

