-- ==== Sys2Proof/WellFormed.lean ====
section
/-! DEFINITION. The checks a command passes when it says what its row says. An ill-formed command is still executed as the
line would deliver it: the port's own tests (R4 to R8) and the owners' tests judge it. -/

namespace Sys2Proof

/-- A frame whose body is well formed under R8 and R195. -/
def FeedFrame.wf (f : FeedFrame) : Bool :=
  decide (1 ≤ f.hop.toNat) && decide (f.hop.toNat ≤ 63) && decide (f.scope.length ≤ 2) &&
    decide (f.payload.length ≤ 240)

/-- A bit of the payload byte at an offset. -/
def FeedFrame.payloadBit (f : FeedFrame) (offset bit : Nat) : Bool :=
  (f.payload.getD offset 0).getLsbD bit

/-- The payload begins with a pair that names the setting id, or a later pair does (R199). -/
def namesSetting (id : Nat) : List Byte → Bool
  | i :: _ :: _ :: rest => i.toNat == id || namesSetting id rest
  | _ => false

/-- A Configure frame one of whose pairs names the setting. -/
def FeedFrame.wfSetting (f : FeedFrame) (id : Nat) : Bool := f.wf && namesSetting id f.payload

/-- A Read Back frame that names the table by its code (R197, R199). -/
def FeedFrame.wfTable (f : FeedFrame) (code : Byte) : Bool := f.wf && (f.payload.getD 0 0 == code)

/-- Five groups that spell a well-formed answer (R168, R202): ACK, or NAK with a fault code 1..4, and four data nibbles. -/
def spellsAnswer : List (BitVec 5) → Bool
  | [g, a, b, c, d] =>
    (a.getLsbD 4 && b.getLsbD 4 && c.getLsbD 4 && d.getLsbD 4) &&
      (g == 5 || (g == 6 && c == 16 && decide (17 ≤ d.toNat) && decide (d.toNat ≤ 20)))
  | _ => false

/-- The well-formedness of a command. -/
def Instr.wf : Instr → Bool
  | .hardReset => true
  | .hardResetEnd _ => true
  | .idleMarker => true
  | .syncMarker => true
  | .dataByte _ => true
  | .invalidCharacter => true
  | .frameArrival => true
  | .idleGapEnd => true
  | .forwardedFrameSent => true
  | .replySent => true
  | .departurePut f => f.wf
  | .departureAmend f => f.wf
  | .departureRemove f => f.wf
  | .stops f => f.wf
  | .stopAmend f => f.wf
  | .noticePut f => f.wf && !f.payloadBit 1 1
  | .noticeAppend f => f.wf && f.payloadBit 1 1
  | .noticeClear f => f.wf
  | .timeSet f => f.wf
  | .namePut f => f.wf
  | .nameDrop f => f.wf
  | .namesClear f => f.wf
  | .fontDefine f => f.wf
  | .glyphPut f => f.wf
  | .headDefine f => f.wf
  | .headDrop f => f.wf
  | .fieldPut f => f.wf
  | .fieldDrop f => f.wf
  | .brightnessTablePut f => f.wf
  | .statusQuery f => f.wf
  | .counterRead f => f.wf && !f.payloadBit 0 0
  | .counterReadClear f => f.wf && f.payloadBit 0 0
  | .eventClear f => f.wf
  | .eventEnable f => f.wf
  | .configureZone f => f.wfSetting 1
  | .configureGroup f => f.wfSetting 2
  | .configureOwnPlatform f => f.wfSetting 3
  | .configureDayStart f => f.wfSetting 4
  | .configureOverdueLimit f => f.wfSetting 5
  | .configureDelayedLimit f => f.wfSetting 6
  | .configureDepartedLinger f => f.wfSetting 7
  | .configureMovedLinger f => f.wfSetting 8
  | .configureDwell f => f.wfSetting 9
  | .configureDwellHoldLimit f => f.wfSetting 10
  | .configureBuildTimeout f => f.wfSetting 11
  | .configureFreezeTimeout f => f.wfSetting 12
  | .configureStrictNames f => f.wfSetting 13
  | .configureFramePeriod f => f.wfSetting 14
  | .configureSyncSource f => f.wfSetting 15
  | .configureAckTimeout f => f.wfSetting 16
  | .configureHysteresis f => f.wfSetting 17
  | .freeze f => f.wf
  | .unfreeze f => f.wf
  | .advance f => f.wf
  | .blank f => f.wf
  | .unblank f => f.wf
  | .takeLink f => f.wf
  | .giveLink f => f.wf
  | .readBackDeparture f => f.wfTable 1
  | .readBackCallingList f => f.wfTable 2
  | .readBackName f => f.wfTable 3
  | .readBackFont f => f.wfTable 4
  | .readBackGlyph f => f.wfTable 5
  | .readBackHead f => f.wfTable 6
  | .readBackField f => f.wfTable 7
  | .readBackNotice f => f.wfTable 8
  | .readNext f => f.wf
  | .addressAssign f => f.wf
  | .restart f => f.wf
  | .internalTick => true
  | .secpRisingEdge _ => true
  | .clockWatchExpiry => true
  | .scheduledInstantTick => true
  | .lingerExpiry => true
  | .buildTimeout => true
  | .dwellExpiry => true
  | .holdTimeout => true
  | .noticeExpiry => true
  | .freezeTimeout => true
  | .frameTimerExpiry => true
  | .fsyncRisingEdge => true
  | .fsyncWatchExpiry => true
  | .fieldPaint _ => true
  | .rowSent _ => true
  | .holdnRelease => true
  | .holdLimitExpiry => true
  | .ackReceived head _ => decide (head.toNat ≤ 7)
  | .nakReceived head code => decide (head.toNat ≤ 7) && decide (1 ≤ code.toNat) && decide (code.toNat ≤ 4)
  | .ackTimeout => true
  | .answerNotWellFormed groups => !spellsAnswer groups
  | .lreqAsserted => true
  | .lreqReleased => true
  | .lgntAsserted => true
  | .activity => true
  | .grantWaitExpiry => true
  | .headerSent _ => true

end Sys2Proof
end

