-- ==== Sys2Proof/Decode.lean ====
section
/-! DEFINITION. The command that a table word spells: spec/opcode_table.json gives no row any bits, so no word spells one. -/

namespace Sys2Proof

/-- The command a word of the opcode table spells. No row of the table has bits (log 3), so there is none. -/
def decodeTableWord (_nbits _w : Nat) : Option Instr := none

end Sys2Proof
end

