-- ==== Sys2Proof/Config.lean ====
section
/-! DEFINITION. The capacities of the part, what a part fixes at manufacture, and the free values. -/

namespace Sys2Proof.Config

/-- Entries of the Departure Table (R22). -/
def maxEntries : Nat := 32

/-- Records of the Removal Memory (R26). -/
def maxRecords : Nat := 16

/-- Blocks of the Calling Pool (R48). -/
def poolBlocks : Nat := 160

/-- Stop records of one block (R48). -/
def blockStops : Nat := 8

/-- Stops of one calling list (R49). -/
def maxStops : Nat := 48

/-- Entries of the Name Table (R82). -/
def maxNames : Nat := 1024

/-- Positions of the Expansion Stack (R91). -/
def stackDepth : Nat := 4

/-- Frames of the Forward Queue (R15). -/
def maxForward : Nat := 4

/-- Bytes of the receive buffer (R3). -/
def maxBody : Nat := 256

/-- The value at which a counter stays (R19). -/
def counterMax : Nat := 65535

/-- The unit serial, fixed in the part at manufacture (R184). The model leaves it uninterpreted (log 5). -/
opaque unitSerial : BitVec 48

/-- A free choice, one for each count of `State.freeCount` (log 6). -/
opaque freeChoice : Nat → Nat

/-- A free byte, one for each count of `State.freeCount` (log 6). -/
opaque freeByte : Nat → Byte

end Sys2Proof.Config
end

