-- ==== Sys2Proof/Machine/State.lean ====
section
/-! DEFINITION. The state of the part, block by block, and the state right after a hard reset. -/

namespace Sys2Proof.Machine

/-! ### Departures and calling lists (02, 03) -/

/-- Departure status (R22). -/
inductive Status where
  | scheduled
  | expected
  | delayed
  | cancelled
  | departed
  deriving DecidableEq, Repr

/-- Platform suffix (R194). -/
inductive Suffix where
  | none
  | a
  | b
  | c
  | d
  deriving DecidableEq, Repr

/-- A platform: number 1..99 and suffix (R22). -/
structure Platform where
  number : Nat
  suffix : Suffix
  deriving DecidableEq, Repr

/-- Stop kind (R49). -/
inductive StopKind where
  | normal
  | request
  | cancelled
  | split
  deriving DecidableEq, Repr

/-- A stop record (R49). -/
structure Stop where
  station : Nat
  kind    : StopKind
  time    : Option Nat
  deriving DecidableEq, Repr

/-- A Calling Pool block in use: its number in the pool and its stop records (R48). -/
structure Block where
  id    : Nat
  stops : List Stop
  deriving DecidableEq, Repr

/-- A complete calling list: its revision and its chain of blocks (R49, R50). -/
structure CallingList where
  rev   : Nat
  chain : List Block
  deriving DecidableEq, Repr

/-- A build context (R50). Stops held is the number of stops in the chain. -/
structure Build where
  rev          : Nat
  expectedPart : Nat
  chain        : List Block
  cut          : Bool
  timeout      : Nat
  deriving DecidableEq, Repr

/-- An entry of the Departure Table (R22). List state COMPLETE is `list` present, NONE is `list` absent (R50). -/
structure Entry where
  id             : Nat
  rev            : Nat
  sched          : Nat
  expected       : Option Nat
  status         : Status
  platform       : Platform
  moved          : Bool
  dest           : Nat
  via            : Nat
  cars           : Nat
  departedLinger : Option Nat
  movedLinger    : Option Nat
  list           : Option CallingList
  build          : Option Build
  stale          : Bool
  truncated      : Bool
  deriving DecidableEq, Repr

/-- A record of the Removal Memory (R26). -/
structure Removal where
  id  : Nat
  rev : Nat
  deriving DecidableEq, Repr

/-- The Departure Table in key order, the Removal Memory oldest first, and the free list of the Calling Pool head first. -/
structure Board where
  table  : List Entry
  memory : List Removal
  free   : List Nat
  deriving DecidableEq, Repr

/-! ### Station Clock (04) -/

/-- The Station Clock. `lost` is the source state LOST and the Clock Lost condition. `lastEdge` is in microseconds since
the end of reset. -/
structure Clock where
  hours    : Nat
  minutes  : Nat
  seconds  : Nat
  valid    : Bool
  lost     : Bool
  lastEdge : Nat
  counted  : Nat
  deriving DecidableEq, Repr

/-! ### Names and fonts (05, 06) -/

/-- The form a reference item selects (R84). -/
inductive Selector where
  | full
  | short
  deriving DecidableEq, Repr

/-- An item of a glyph string (R84). -/
inductive Item where
  | glyph (code : Nat)
  | ref (target : Nat) (form : Selector)
  deriving DecidableEq, Repr

/-- A Name Table entry (R82). -/
structure NameEntry where
  code     : Nat
  full     : List Item
  short    : Option (List Item)
  fallback : Nat × Nat × Nat
  deriving DecidableEq, Repr

/-- A form that a walk can stand in: an entry's full or short form, or the free string of the request (R91). -/
inductive WalkedForm where
  | full (code : Nat)
  | short (code : Nat)
  | free
  deriving DecidableEq, Repr

/-- A position on the Expansion Stack: the form being walked, and the next item to take in it (R91). -/
structure StackPos where
  form : WalkedForm
  next : Nat
  deriving DecidableEq, Repr

/-- The Name Store: the table in ascending code order, and the Expansion Stack. -/
structure Names where
  table : List NameEntry
  stack : List StackPos
  deriving DecidableEq, Repr

/-- A loaded glyph cell: its advance and its rows of pixels, row 0 at the top, column 0 leftmost (R103). -/
structure Cell where
  advance : Nat
  rows    : List (List Bool)
  deriving DecidableEq, Repr

/-- A font record (R102). `cells` holds the loaded cells by code, in ascending order. -/
structure FontRecord where
  defined    : Bool
  height     : Nat
  nominalGap : Nat
  minGap     : Nat
  cells      : List (Nat × Cell)
  deriving DecidableEq, Repr

/-- The Font Store: fonts 0..3 and the Symbol Set, id 4. -/
structure Fonts where
  font0   : FontRecord
  font1   : FontRecord
  font2   : FontRecord
  font3   : FontRecord
  symbols : FontRecord
  deriving DecidableEq, Repr

/-! ### Layouts, pages and notices (07), and the Composer's share of them (08) -/

/-- Field kind (R122). -/
inductive FieldKind where
  | destination
  | via
  | scheduled
  | status
  | due
  | platform
  | cars
  | calling
  | clock
  | notice
  | static
  deriving DecidableEq, Repr

/-- Alignment (R122). -/
inductive Align where
  | left
  | centre
  | right
  deriving DecidableEq, Repr

/-- Fit policy (R122). -/
inductive FitPolicy where
  | truncate
  | scroll
  deriving DecidableEq, Repr

/-- A field record (R122). -/
structure FieldRecord where
  kind        : FieldKind
  slot        : Nat
  x           : Nat
  y           : Nat
  width       : Nat
  font        : Nat
  align       : Align
  fit         : FitPolicy
  speed       : Nat
  spacer      : Nat
  noticeSlot  : Nat
  text        : List Item
  showSeconds : Bool
  deriving DecidableEq, Repr

/-- The result of a field's last painting (R157). -/
inductive FieldResult where
  | notPainted
  | empty
  | noFont
  | fitFull
  | fitCondensed
  | fitShort
  | fitShortCondensed
  | truncated
  | clipped
  | scrolling
  deriving DecidableEq, Repr

/-- The marks of a text (R143). -/
structure Marks where
  cut      : Bool
  missing  : Bool
  deep     : Bool
  replaced : Bool
  deriving DecidableEq, Repr

/-- The status of a field (R157). -/
structure FieldStatus where
  result  : FieldResult
  marks   : Marks
  standIn : Bool
  offHead : Bool
  deriving DecidableEq, Repr

/-- A field record and its status. -/
structure FieldSlot where
  record : FieldRecord
  status : FieldStatus
  deriving DecidableEq, Repr

/-- A ticker context (R151). For an overlay `bound` is the overlay number (R155). `loop` is L and `pos` is p. -/
structure Ticker where
  bound   : Option Nat
  text    : List Nat
  marks   : Marks
  loop    : Nat
  pos     : Nat
  pending : Bool
  deriving DecidableEq, Repr

/-- Phase of a head's page (R126, R127). -/
inductive Phase where
  | dwell
  | hold
  deriving DecidableEq, Repr

/-- Page state of a head (R126, R127). `page` is q; `holdSet` holds field indices in ascending order. -/
structure PageState where
  page    : Nat
  phase   : Phase
  dwell   : Nat
  hold    : Nat
  holdSet : List Nat
  deriving DecidableEq, Repr

/-- The Shadow of a head: the saved page state and ticker contexts (R131). -/
structure Shadow where
  page    : PageState
  tickers : List (Nat × Ticker)
  deriving DecidableEq, Repr

/-- What a DEFINED head shows: its pages (overlay NONE, Shadow empty), or an overlay with its notice slot and the Shadow. -/
inductive HeadMode where
  | pages (p : PageState)
  | overlay (slot : HeadIx) (shadow : Shadow)
  deriving DecidableEq, Repr

/-- Brightness mode of a head record (R118). -/
inductive Brightness where
  | auto
  | fixed (level : Nat)
  deriving DecidableEq, Repr

/-- A DEFINED head (R118) with the ticker contexts the Composer holds for it (R151, R155). `fields` and `tickers` are
by field index, in ascending order. -/
structure Head where
  width         : Nat
  height        : Nat
  brightness    : Brightness
  overlayFont   : Nat
  overlayRow    : Nat
  fields        : List (Nat × FieldSlot)
  mode          : HeadMode
  tickers       : List (Nat × Ticker)
  overlayTicker : Option Ticker
  deriving DecidableEq, Repr

/-- What Layout and Page Control holds for a head index: the record, or none while UNDEFINED; the Blank flag (R133); the
overlay number (R131). -/
structure HeadEntry where
  head          : Option Head
  blank         : Bool
  overlayNumber : Nat
  deriving DecidableEq, Repr

/-- Notice priority (R129). -/
inductive Priority where
  | info
  | overlay
  deriving DecidableEq, Repr

/-- A HELD notice slot (R129). Duration absent is "until cleared". -/
structure Notice where
  priority : Priority
  mask     : Byte
  duration : Option Nat
  text     : List Item
  deriving DecidableEq, Repr

/-! ### Compositions and the Frame Store (08) -/

/-- The copy of a build context in a row snapshot: every field of R50, the chain as the numbers of its blocks, and none of its
stops (R62, log 31). -/
structure BuildCopy where
  rev          : Nat
  expectedPart : Nat
  held         : Nat
  blocks       : List Nat
  cut          : Bool
  timeout      : Nat
  deriving DecidableEq, Repr

/-- The copy of an entry in a row snapshot (R42, R62, R140): every field of R22, its build as the context without the stops, and
the stops of its complete list, in running order, when it has one. `entry.build` is `none` in a copy: `build` stands for it. The
blocks its list and its build name are not held by the copy (log 31). -/
structure RowCopy where
  entry : Entry
  build : Option BuildCopy
  stops : Option (List Stop)
  deriving DecidableEq, Repr

/-- The rows of a snapshot (R140): the overlay, or k and one row for each slot 1..k. -/
inductive Rows where
  | overlay (slot : HeadIx) (number : Nat)
  | slots (k : Nat) (rows : List (Option RowCopy))
  deriving DecidableEq, Repr

/-- The row snapshot of a composition: the rows, the clock value and its validity (R140). -/
structure Snapshot where
  rows    : Rows
  hours   : Nat
  minutes : Nat
  seconds : Nat
  valid   : Bool
  deriving DecidableEq, Repr

/-- A composition in flight: its snapshot and the field last painted (R141). -/
structure Composition where
  snapshot : Snapshot
  painted  : Option Nat
  deriving DecidableEq, Repr

/-- A pixel buffer of 256 columns by 32 rows: pixel (x, y) is bit 256 y + x, set when lit (R158). -/
abbrev Pixels := BitVec 8192

/-- State of a back buffer (R158). -/
inductive BackState where
  | idle
  | composing
  | complete
  deriving DecidableEq, Repr

/-- State of a front buffer (R158). -/
inductive FrontState where
  | unsent
  | sent
  deriving DecidableEq, Repr

/-- The two buffers of a head index and their states (R158). -/
structure Buffers where
  front      : Pixels
  back       : Pixels
  frontState : FrontState
  backState  : BackState
  deriving DecidableEq, Repr

/-! ### Panel Link (09) -/

/-- Head state (R169). -/
inductive HeadState where
  | unknown
  | present
  | silent
  | absent
  | faulted
  deriving DecidableEq, Repr

/-- Fault code of a NAK (R168). -/
inductive FaultCode where
  | supply
  | string
  | temp
  | geometry
  deriving DecidableEq, Repr

/-- What the Panel Link holds for a head index (R166, R169, R170, R174). -/
structure LinkHead where
  state       : HeadState
  misses      : Nat
  faultCode   : Option FaultCode
  ambient     : Option Nat
  autoLevel   : Nat
  frameNumber : Nat
  probeDue    : Bool
  deriving DecidableEq, Repr

/-- Where a head frame in transmission stands (R166 to R168): the header is being sent, row y is being sent, a hold wait
before row y, or the answer is awaited with the Ack Timeout read at EOF. -/
inductive FramePhase where
  | header
  | row (y : Nat)
  | holdWait (y : Nat)
  | answer (ackTimeout : Nat)
  deriving DecidableEq, Repr

/-- A head frame in transmission (R166). `void`: its outcome is not applied to the head's state (R168, R182).
`clearFront`: its front is set dark at its end (R142, R164). -/
structure HeadFrame where
  head        : HeadIx
  width       : Nat
  height      : Nat
  level       : Nat
  blank       : Bool
  frameNumber : Nat
  phase       : FramePhase
  void        : Bool
  clearFront  : Bool
  deriving DecidableEq, Repr

/-- The frame time base (R171): Sync Source INTERNAL, or one of the three states of Sync Source FSYNC. -/
inductive TimeBase where
  | internal
  | acquiring
  | synced
  | lost
  deriving DecidableEq, Repr

/-- Ownership state (R177, R178). -/
inductive Ownership where
  | owning
  | releasing
  | granted
  | idle
  | waiting
  deriving DecidableEq, Repr

/-- A Panel Link symbol (R202). -/
inductive Sym where
  | idle
  | sor
  | eor
  | eof
  | ack
  | nak
  | nibble (v : BitVec 4)
  deriving DecidableEq, Repr

/-- The Panel Link. `plo` is the symbol group going out, empty for IDLE. -/
structure Link where
  heads       : Bank8 LinkHead
  round       : Option (List HeadIx)
  pointer     : HeadIx
  sending     : Option HeadFrame
  thresholds  : List Nat
  timeBase    : TimeBase
  period      : Nat
  owner       : Ownership
  giveWaiting : Bool
  windowMark  : Bool
  linkWait    : Nat
  plo         : List Sym
  lreqIn      : Bool
  deriving DecidableEq, Repr

/-! ### Feed Ring Port (01) -/

/-- Receiver state (section 1.2). -/
inductive RxState where
  | hunt
  | wait
  | body
  deriving DecidableEq, Repr

/-- What FDO is doing (R16, R17). A forwarded frame in transmission is `queued` while it stands at the head of the Forward
Queue; after a Restart it is not (R21). -/
inductive Tx where
  | free
  | forward (body : List Byte) (queued : Bool)
  | reply (body : List Byte)
  | gap
  deriving DecidableEq, Repr

/-- The Feed Ring Port. -/
structure Feed where
  rx        : RxState
  buffer    : List Byte
  queue     : List (List Byte)
  slot      : Option (List Byte)
  tx        : Tx
  replyWait : Nat
  address   : Nat
  zone      : Nat
  group     : Nat
  deriving DecidableEq, Repr

/-! ### Management (10) -/

/-- Sync Source (R171). -/
inductive SyncSource where
  | internal
  | fsync
  deriving DecidableEq, Repr

/-- The settings Management holds (R188); Zone and Group are held by the Feed Ring Port. -/
structure Settings where
  ownPlatform    : Platform
  dayStart       : Nat
  overdueLimit   : Nat
  delayedLimit   : Nat
  departedLinger : Nat
  movedLinger    : Nat
  dwell          : Nat
  dwellHoldLimit : Nat
  buildTimeout   : Nat
  freezeTimeout  : Nat
  strictNames    : Bool
  framePeriod    : Nat
  syncSource     : SyncSource
  ackTimeout     : Nat
  hysteresis     : Nat
  deriving DecidableEq, Repr

/-- The eight tables of Read Back (R197). -/
inductive ReadTable where
  | departure
  | callingList
  | name
  | font
  | glyph
  | head
  | field
  | notice
  deriving DecidableEq, Repr

/-- The read pointer (R190): NONE, or a table with a key, or before its first key. -/
inductive ReadPtr where
  | none
  | pos (table : ReadTable) (key : Option (Nat × Nat))
  deriving DecidableEq, Repr

/-- Management: settings, pending and enable sets (bit i is event i of R197), Freeze, read pointer, and whether a Restart
waits for its reply. -/
structure Mgmt where
  settings        : Settings
  pendingEvents   : Byte
  enable          : Byte
  frozen          : Bool
  freezeRemaining : Nat
  readPtr         : ReadPtr
  restartWaiting  : Bool
  deriving DecidableEq, Repr

/-! ### Counters -/

/-- The forty counters, in the order of the Counter reply (R200). -/
inductive Ctr where
  | symbolErrors | oversize | runt | checkErrors | malformed | framesAccepted | unknownKind | framesActedOn
  | replyBusy | expired | forwardOverrun | framesForwarded | repliesSent
  | staleUpdates | tableFull | entriesEvicted | entriesExpired
  | orphanParts | duplicateParts | staleParts | buildsSuperseded | buildsAbandoned | listsCompleted
  | nameTableFull | missingReferences | depthFallbacks | strictFallbacks | textsCut | missingNames
  | missingGlyphs
  | holdTimeouts | overlaysReplaced
  | composeLag | frameRepeats
  | headTimeouts | headFaults | holdAborts | strayAnswers | frameOverruns | forcedTakes
  deriving DecidableEq, Repr

/-- The place of a counter in the Counter reply. -/
def Ctr.index : Ctr → Fin 40
  | .symbolErrors => 0 | .oversize => 1 | .runt => 2 | .checkErrors => 3 | .malformed => 4 | .framesAccepted => 5
  | .unknownKind => 6 | .framesActedOn => 7 | .replyBusy => 8 | .expired => 9 | .forwardOverrun => 10
  | .framesForwarded => 11 | .repliesSent => 12
  | .staleUpdates => 13 | .tableFull => 14 | .entriesEvicted => 15 | .entriesExpired => 16
  | .orphanParts => 17 | .duplicateParts => 18 | .staleParts => 19 | .buildsSuperseded => 20 | .buildsAbandoned => 21
  | .listsCompleted => 22
  | .nameTableFull => 23 | .missingReferences => 24 | .depthFallbacks => 25 | .strictFallbacks => 26 | .textsCut => 27
  | .missingNames => 28
  | .missingGlyphs => 29
  | .holdTimeouts => 30 | .overlaysReplaced => 31
  | .composeLag => 32 | .frameRepeats => 33
  | .headTimeouts => 34 | .headFaults => 35 | .holdAborts => 36 | .strayAnswers => 37 | .frameOverruns => 38
  | .forcedTakes => 39

/-! ### The state -/

/-- The state of the part, the queue of waiting commands, and the model's counter of free values. -/
structure State where
  pending   : List Instr
  inReset   : Bool
  straps    : Straps
  serial    : BitVec 48
  feed      : Feed
  counters  : Vector Nat 40
  board     : Board
  clock     : Clock
  names     : Names
  fonts     : Fonts
  heads     : Bank8 HeadEntry
  notices   : Bank8 (Option Notice)
  comps     : Bank8 (Option Composition)
  buffers   : Bank8 Buffers
  link      : Link
  mgmt      : Mgmt
  freeCount : Nat
  deriving DecidableEq, Repr

/-- Faults: there is none. The manual gives no event that stops the part (INVENTORY.md, Faults). -/
inductive Fault where
  deriving DecidableEq, Repr

/-- Refusals. -/
inductive Refusal where
  /-- Raised by `exec` for a command that has no meaning yet; safe. No command is refused. -/
  | notModelled (mnemonic : String)
  deriving DecidableEq, Repr

/-! ### Right after a hard reset -/

/-- The defaults of R188. -/
def Settings.defaults : Settings where
  ownPlatform := ⟨1, .none⟩
  dayStart := 120
  overdueLimit := 20
  delayedLimit := 90
  departedLinger := 60
  movedLinger := 3
  dwell := 8
  dwellHoldLimit := 30
  buildTimeout := 5
  freezeTimeout := 30
  strictNames := false
  framePeriod := 20
  syncSource := .internal
  ackTimeout := 40
  hysteresis := 8

/-- An empty Departure Table and Removal Memory, and all blocks free (R46, R66), in an order of the model's (log 21). -/
def Board.empty : Board := ⟨[], [], List.range Config.poolBlocks⟩

/-- An UNDEFINED font record (R102). -/
def FontRecord.undefined : FontRecord := ⟨false, 0, 0, 0, []⟩

/-- Every record UNDEFINED (R116). -/
def Fonts.empty : Fonts := ⟨.undefined, .undefined, .undefined, .undefined, .undefined⟩

/-- An UNDEFINED head index, not blanked, overlay number 0 (R137). -/
def HeadEntry.undefined : HeadEntry := ⟨none, false, 0⟩

/-- Dark buffers, back IDLE, front UNSENT (R163). -/
def Buffers.dark : Buffers := ⟨0, 0, .unsent, .idle⟩

/-- A head index as R181 leaves it. -/
def LinkHead.initial : LinkHead := ⟨.unknown, 0, none, none, 8, 0, false⟩

/-- T_k = 16 k (R181). -/
def defaultThresholds : List Nat := [16, 32, 48, 64, 80, 96, 112, 128, 144, 160, 176, 192, 208, 224, 240]

/-- The Panel Link at the end of a hard reset (R181). A Primary samples LREQ. -/
def Link.afterReset (role : Role) (lreq : Bool) : Link where
  heads := Bank8.fill .initial
  round := none
  pointer := 0
  sending := none
  thresholds := defaultThresholds
  timeBase := .internal
  period := 20
  owner := match role with
    | .primary => if lreq then .granted else .owning
    | .standby => .idle
  giveWaiting := false
  windowMark := false
  linkWait := 0
  plo := []
  lreqIn := lreq

/-- The clock at the end of a hard reset (R80). -/
def Clock.afterReset : Clock := ⟨0, 0, 0, false, false, 0, 0⟩

/-- The Feed Ring Port at the end of a hard reset (R20). -/
def Feed.afterReset (straps : Straps) : Feed := ⟨.hunt, [], [], none, .free, 0, straps.adr.val, 0, 0⟩

/-- Management at the end of a hard reset (R193): RESTARTED alone pending, all events enabled. -/
def Mgmt.afterReset : Mgmt := ⟨.defaults, 0x80, 0xFF, false, 0, .none, false⟩

/-- The part at the end of a hard reset, with the straps and the level of LREQ sampled then (R20, R46, R66, R80, R100,
R116, R137, R163, R181, R193). -/
def State.afterReset (straps : Straps) (lreq : Bool) (serial : BitVec 48) : State where
  pending := []
  inReset := false
  straps := straps
  serial := serial
  feed := Feed.afterReset straps
  counters := Vector.replicate 40 0
  board := Board.empty
  clock := Clock.afterReset
  names := ⟨[], []⟩
  fonts := Fonts.empty
  heads := Bank8.fill .undefined
  notices := Bank8.fill none
  comps := Bank8.fill none
  buffers := Bank8.fill .dark
  link := Link.afterReset straps.role lreq
  mgmt := Mgmt.afterReset
  freeCount := 0

/-- The straps of `State.reset`: no address, Primary, internal clock, 1 Mbit/s. DESIGN CHOICE (log 4). -/
def Straps.initial : Straps := ⟨0, .primary, .internal, .oneMbit⟩

/-- The machine right after reset (log 4 for the straps and LREQ, log 5 for the serial). -/
def State.reset : State := State.afterReset Straps.initial false Config.unitSerial

end Sys2Proof.Machine
end

