-- ==== Sys2Proof/Machine/Operands.lean ====
section
/-! DEFINITION. What bytes mean: numbers, codes, glyph items, stop records, the check word, frame bodies and link symbols
(11_formats; 01_the_feed_ring R5 to R8). -/

namespace Sys2Proof.Machine

/-! ### Numbers (R194) -/

/-- The number in one payload byte; a byte that is not there reads as 0, so lengths are tested first. -/
def u8 (p : List Byte) (i : Nat) : Nat := (p.getD i 0).toNat

/-- The number in two payload bytes, high byte first. -/
def u16 (p : List Byte) (i : Nat) : Nat := u8 p i * 256 + u8 p (i + 1)

/-- One byte of a number. -/
def b8 (n : Nat) : Byte := BitVec.ofNat 8 n

/-- Two bytes of a number, high byte first. -/
def b16 (n : Nat) : List Byte := [b8 (n / 256), b8 n]

/-- An optional value in two bytes: 0xFFFF means none. -/
def optOf (v : Nat) : Option Nat := if v = 0xFFFF then none else some v

/-- Two bytes of an optional value. -/
def optBytes : Option Nat → List Byte
  | none => [0xFF, 0xFF]
  | some v => b16 v

/-- The bit of a flag byte. -/
def flagBit (b : Nat) (i : Nat) : Bool := b.testBit i

/-- A flag byte from its bits, bit 0 first. -/
def flagByte : List Bool → Byte
  | [] => 0
  | b :: bs => (flagByte bs <<< 1) ||| (if b then 1 else 0)

/-- A value clamped to a range, and whether it was out of it. -/
def clamp (lo hi v : Nat) : Nat := if v < lo then lo else if hi < v then hi else v

/-- The remainder of a difference, 0..m−1 also when it is negative (R76). -/
def modDiff (a b m : Nat) : Nat := (a + (m - b % m)) % m

/-! ### Enumerations (R197) -/

/-- Departure status codes. -/
def Status.ofCode : Nat → Option Status
  | 0 => some .scheduled
  | 1 => some .expected
  | 2 => some .delayed
  | 3 => some .cancelled
  | 4 => some .departed
  | _ => none

/-- Departure status codes. -/
def Status.code : Status → Nat
  | .scheduled => 0
  | .expected => 1
  | .delayed => 2
  | .cancelled => 3
  | .departed => 4

/-- Platform suffix codes (R194). -/
def Suffix.ofCode : Nat → Option Suffix
  | 0 => some .none
  | 1 => some .a
  | 2 => some .b
  | 3 => some .c
  | 4 => some .d
  | _ => none

/-- Platform suffix codes (R194). -/
def Suffix.code : Suffix → Nat
  | .none => 0
  | .a => 1
  | .b => 2
  | .c => 3
  | .d => 4

/-- Stop kind codes. -/
def StopKind.ofCode : Nat → Option StopKind
  | 0 => some .normal
  | 1 => some .request
  | 2 => some .cancelled
  | 3 => some .split
  | _ => none

/-- Stop kind codes. -/
def StopKind.code : StopKind → Nat
  | .normal => 0
  | .request => 1
  | .cancelled => 2
  | .split => 3

/-- Field kind codes. -/
def FieldKind.ofCode : Nat → Option FieldKind
  | 0 => some .destination
  | 1 => some .via
  | 2 => some .scheduled
  | 3 => some .status
  | 4 => some .due
  | 5 => some .platform
  | 6 => some .cars
  | 7 => some .calling
  | 8 => some .clock
  | 9 => some .notice
  | 10 => some .static
  | _ => none

/-- Field kind codes. -/
def FieldKind.code : FieldKind → Nat
  | .destination => 0
  | .via => 1
  | .scheduled => 2
  | .status => 3
  | .due => 4
  | .platform => 5
  | .cars => 6
  | .calling => 7
  | .clock => 8
  | .notice => 9
  | .static => 10

/-- The entry kinds, which name a slot (section 7.2). -/
def FieldKind.isEntry : FieldKind → Bool
  | .destination | .via | .scheduled | .status | .due | .platform | .cars | .calling => true
  | .clock | .notice | .static => false

/-- Alignment codes. -/
def Align.ofCode : Nat → Option Align
  | 0 => some .left
  | 1 => some .centre
  | 2 => some .right
  | _ => none

/-- Alignment codes. -/
def Align.code : Align → Nat
  | .left => 0
  | .centre => 1
  | .right => 2

/-- Fit policy codes. -/
def FitPolicy.ofCode : Nat → Option FitPolicy
  | 0 => some .truncate
  | 1 => some .scroll
  | _ => none

/-- Fit policy codes. -/
def FitPolicy.code : FitPolicy → Nat
  | .truncate => 0
  | .scroll => 1

/-- Field result codes. -/
def FieldResult.code : FieldResult → Nat
  | .notPainted => 0
  | .empty => 1
  | .noFont => 2
  | .fitFull => 3
  | .fitCondensed => 4
  | .fitShort => 5
  | .fitShortCondensed => 6
  | .truncated => 7
  | .clipped => 8
  | .scrolling => 9

/-- Head state codes. -/
def HeadState.code : HeadState → Nat
  | .unknown => 0
  | .present => 1
  | .silent => 2
  | .absent => 3
  | .faulted => 4

/-- Fault codes; 0 is none. -/
def FaultCode.ofCode : Nat → Option FaultCode
  | 1 => some .supply
  | 2 => some .string
  | 3 => some .temp
  | 4 => some .geometry
  | _ => none

/-- Fault codes; 0 is none. -/
def faultByte : Option FaultCode → Nat
  | none => 0
  | some .supply => 1
  | some .string => 2
  | some .temp => 3
  | some .geometry => 4

/-- Ownership codes. -/
def Ownership.code : Ownership → Nat
  | .owning => 0
  | .releasing => 1
  | .granted => 2
  | .idle => 3
  | .waiting => 4

/-- Read table codes. -/
def ReadTable.ofCode : Nat → Option ReadTable
  | 1 => some .departure
  | 2 => some .callingList
  | 3 => some .name
  | 4 => some .font
  | 5 => some .glyph
  | 6 => some .head
  | 7 => some .field
  | 8 => some .notice
  | _ => none

/-- Read table codes. -/
def ReadTable.code : ReadTable → Nat
  | .departure => 1
  | .callingList => 2
  | .name => 3
  | .font => 4
  | .glyph => 5
  | .head => 6
  | .field => 7
  | .notice => 8

/-- The outcome codes of R183. -/
inductive OutcomeCode where
  | done
  | adjusted
  | stale
  | notFound
  | full
  | noSpace
  | malformed
  | unknownKind
  | notNow
  deriving DecidableEq, Repr

/-- The outcome codes of R197. -/
def OutcomeCode.code : OutcomeCode → Nat
  | .done => 0
  | .adjusted => 1
  | .stale => 2
  | .notFound => 3
  | .full => 4
  | .noSpace => 5
  | .malformed => 6
  | .unknownKind => 7
  | .notNow => 8

/-- DONE, or ADJUSTED when a value was clamped (R183). -/
def doneOr (clamped : Bool) : OutcomeCode := if clamped then .adjusted else .done

/-! ### Kinds (R10, R196) -/

/-- The recognised kinds of R10. -/
inductive Kind where
  | departurePut | departureAmend | departureRemove | stops | stopAmend | noticePut | noticeClear | timeSet
  | namePut | nameDrop | namesClear | fontDefine | glyphPut | headDefine | headDrop | fieldPut | fieldDrop
  | brightnessTablePut
  | statusQuery | counterRead | eventClear | eventEnable | configure | freeze | unfreeze | advance | blank | unblank
  | takeLink | giveLink | readBack | readNext | addressAssign | restart
  deriving DecidableEq, Repr

/-- Kind codes (R196). -/
def Kind.code : Kind → Byte
  | .departurePut => 0x10 | .departureAmend => 0x11 | .departureRemove => 0x12
  | .stops => 0x18 | .stopAmend => 0x19
  | .noticePut => 0x20 | .noticeClear => 0x21
  | .timeSet => 0x28
  | .namePut => 0x30 | .nameDrop => 0x31 | .namesClear => 0x32
  | .fontDefine => 0x38 | .glyphPut => 0x39
  | .headDefine => 0x40 | .headDrop => 0x41 | .fieldPut => 0x42 | .fieldDrop => 0x43
  | .brightnessTablePut => 0x48
  | .statusQuery => 0x60 | .counterRead => 0x61 | .eventClear => 0x62 | .eventEnable => 0x63 | .configure => 0x64
  | .freeze => 0x68 | .unfreeze => 0x69 | .advance => 0x6A | .blank => 0x6B | .unblank => 0x6C
  | .takeLink => 0x70 | .giveLink => 0x71
  | .readBack => 0x74 | .readNext => 0x75
  | .addressAssign => 0x7C | .restart => 0x7F

/-- The kinds in the order of R10. -/
def Kind.all : List Kind :=
  [.departurePut, .departureAmend, .departureRemove, .stops, .stopAmend, .noticePut, .noticeClear, .timeSet,
   .namePut, .nameDrop, .namesClear, .fontDefine, .glyphPut, .headDefine, .headDrop, .fieldPut, .fieldDrop,
   .brightnessTablePut,
   .statusQuery, .counterRead, .eventClear, .eventEnable, .configure, .freeze, .unfreeze, .advance, .blank, .unblank,
   .takeLink, .giveLink, .readBack, .readNext, .addressAssign, .restart]

/-- The kind a Kind byte names; none for an unrecognised kind, reply kinds and prefix markers included (R10, R196). -/
def Kind.ofCode (b : Byte) : Option Kind := Kind.all.find? (fun k => k.code == b)

/-- The data kinds of R10; the others are management kinds. -/
def Kind.isData : Kind → Bool
  | .departurePut | .departureAmend | .departureRemove | .stops | .stopAmend | .noticePut | .noticeClear | .timeSet
  | .namePut | .nameDrop | .namesClear | .fontDefine | .glyphPut | .headDefine | .headDrop | .fieldPut | .fieldDrop
  | .brightnessTablePut => true
  | .statusQuery | .counterRead | .eventClear | .eventEnable | .configure | .freeze | .unfreeze | .advance | .blank
  | .unblank | .takeLink | .giveLink | .readBack | .readNext | .addressAssign | .restart => false

/-- Reply kinds (R196). -/
def outcomeReplyKind : Byte := 0x90
/-- Reply kinds (R196). -/
def statusReplyKind : Byte := 0x91
/-- Reply kinds (R196). -/
def counterReplyKind : Byte := 0x92
/-- Reply kinds (R196). -/
def readReplyKind : Byte := 0x93

/-! ### Glyph strings and stop records (R194, R198) -/

/-- A glyph string item from its 16-bit coding; none for a bad item. -/
def Item.ofCode (w : Nat) : Option Item :=
  if w ≤ 0xFF then some (.glyph w)
  else if 0x8000 < w ∧ w ≤ 0x8FFF then some (.ref (w - 0x8000) .full)
  else if 0xC000 < w ∧ w ≤ 0xCFFF then some (.ref (w - 0xC000) .short)
  else none

/-- The 16-bit coding of an item. -/
def Item.code : Item → Nat
  | .glyph g => g
  | .ref c .full => 0x8000 + c
  | .ref c .short => 0xC000 + c

/-- The bytes of a glyph string. -/
def itemBytes (items : List Item) : List Byte := items.flatMap (fun i => b16 i.code)

/-- A glyph string of n items from an offset of a payload; none when an item is bad. -/
def itemsAt (p : List Byte) (off : Nat) : Nat → Option (List Item)
  | 0 => some []
  | n + 1 =>
    match Item.ofCode (u16 p off), itemsAt p (off + 2) n with
    | some i, some r => some (i :: r)
    | _, _ => none

/-- A stop record from its two words: kind in bits 15..14, bits 13..12 zero, station 1..4079; time none or 0..1439. -/
def Stop.ofWords (w t : Nat) : Option Stop :=
  if w / 4096 % 4 ≠ 0 then none
  else if w % 4096 = 0 ∨ 4079 < w % 4096 then none
  else if t ≠ 0xFFFF ∧ 1439 < t then none
  else
    match StopKind.ofCode (w / 16384) with
    | some k => some ⟨w % 4096, k, optOf t⟩
    | none => none

/-- The four bytes of a stop record. -/
def Stop.bytes (s : Stop) : List Byte := b16 (s.kind.code * 16384 + s.station) ++ optBytes s.time

/-- n stop records from an offset of a payload; none when one is out of range. -/
def stopsAt (p : List Byte) (off : Nat) : Nat → Option (List Stop)
  | 0 => some []
  | n + 1 =>
    match Stop.ofWords (u16 p off) (u16 p (off + 2)), stopsAt p (off + 4) n with
    | some s, some r => some (s :: r)
    | _, _ => none

/-! ### The check word (R5, R6) -/

/-- Ones'-complement addition of 16-bit words: the carry out is added back into the lowest bit. -/
def onesAdd (a b : Nat) : Nat := (a + b) % 65536 + (a + b) / 65536

/-- The ones'-complement sum of the big-endian words of some bytes, a lone last byte padded with zero, added to a sum. -/
def checkSum (acc : Nat) : List Byte → Nat
  | [] => acc
  | [a] => onesAdd acc (a.toNat * 256)
  | a :: b :: rest => checkSum (onesAdd acc (a.toNat * 256 + b.toNat)) rest

/-- The check word of the covered bytes. -/
def checkWord (covered : List Byte) : Nat := 65535 - checkSum 0 covered

/-- The covered bytes followed by their check word, high byte first. -/
def withCheck (covered : List Byte) : List Byte := covered ++ b16 (checkWord covered)

/-- The check of R6 on a received body. -/
def checkHolds (body : List Byte) : Bool :=
  onesAdd (checkSum 0 (body.take (body.length - 2))) (u16 body (body.length - 2)) == 65535

/-! ### Frame bodies (R7, R8, R195) -/

/-- A frame's header as R7 reads it, with its payload. -/
structure Header where
  hop     : Byte
  scope   : List ScopePair
  kind    : Byte
  dest    : Byte
  source  : Byte
  flags   : Byte
  tag     : Byte
  length  : Byte
  payload : List Byte
  deriving DecidableEq, Repr

/-- Want Outcome is bit 0 of Flags (R195). -/
def Header.wantOutcome (h : Header) : Bool := h.flags.getLsbD 0

/-- Reply is bit 1 of Flags (R195). -/
def Header.isReply (h : Header) : Bool := h.flags.getLsbD 1

/-- A scope pair from a marker byte and the byte after it; none when the first is no marker. -/
def scopePairOf (marker value : Byte) : Option ScopePair :=
  if marker = 0xF5 then some ⟨.zone, value⟩
  else if marker = 0xF6 then some ⟨.group, value⟩
  else none

/-- The two bytes of a scope pair. -/
def scopeBytes (p : ScopePair) : List Byte :=
  match p.kind with
  | .zone => [0xF5, p.value]
  | .group => [0xF6, p.value]

/-- Kind to Length, then the payload up to the last two bytes (R7, items 3 and 4). -/
def headerFrom (hop : Byte) (scope : List ScopePair) : List Byte → Option Header
  | k :: d :: s :: fl :: t :: l :: rest =>
    if 2 ≤ rest.length then some ⟨hop, scope, k, d, s, fl, t, l, rest.take (rest.length - 2)⟩ else none
  | _ => none

/-- The header of a body (R7). A marker after one pair begins a second pair only when the body has the 13 bytes that two
pairs need; otherwise it is taken as the Kind (log 14). None when the body is too short. -/
def parseBody (body : List Byte) : Option Header :=
  match body with
  | hop :: m :: v :: more =>
    match scopePairOf m v with
    | none => headerFrom hop [] (m :: v :: more)
    | some p1 =>
      match more with
      | m2 :: v2 :: more2 =>
        match scopePairOf m2 v2 with
        | some p2 => if 13 ≤ body.length then headerFrom hop [p1, p2] more2 else headerFrom hop [p1] more
        | none => headerFrom hop [p1] more
      | _ => headerFrom hop [p1] more
  | _ => none

/-- The structure test of R8 on a header that was read. -/
def Header.sound (h : Header) : Bool :=
  decide (1 ≤ h.hop.toNat) && decide (h.hop.toNat ≤ 63) && decide (h.length.toNat = h.payload.length) &&
    decide (h.length.toNat ≤ 240)

/-- The body of a frame as its sender makes it (R195, R5). -/
def frameBody (kind : Byte) (f : FeedFrame) : List Byte :=
  withCheck (f.hop :: (f.scope.flatMap scopeBytes ++
    ([kind, f.dest, f.source, f.flags, f.tag, b8 f.payload.length] ++ f.payload)))

/-- The header that R7 reads from the body of a frame. -/
def frameHeader (kind : Byte) (f : FeedFrame) : Header :=
  ⟨f.hop, f.scope, kind, f.dest, f.source, f.flags, f.tag, b8 f.payload.length, f.payload⟩

/-- The body of a reply (R14): Hop 63, no scope pairs, Destination 254, Reply set. -/
def replyBody (kind source tag : Byte) (payload : List Byte) : List Byte :=
  withCheck ([63, kind, 254, source, 0x02, tag, b8 payload.length] ++ payload)

/-- The body that R13 forwards: Hop less one, the check word computed again. -/
def forwardBody (body : List Byte) : List Byte :=
  match body.take (body.length - 2) with
  | [] => body
  | hop :: rest => withCheck ((hop - 1) :: rest)

/-! ### Panel Link symbols (R202) -/

/-- The symbol of a five-bit group; none for a group that is no symbol. -/
def Sym.ofGroup (g : BitVec 5) : Option Sym :=
  if g.getLsbD 4 then some (.nibble (g.setWidth 4))
  else if g = 1 then some .idle
  else if g = 2 then some .sor
  else if g = 3 then some .eor
  else if g = 4 then some .eof
  else if g = 5 then some .ack
  else if g = 6 then some .nak
  else none

/-- The five-bit group of a symbol. -/
def Sym.group : Sym → BitVec 5
  | .idle => 1
  | .sor => 2
  | .eor => 3
  | .eof => 4
  | .ack => 5
  | .nak => 6
  | .nibble v => (v.setWidth 5) ||| 16

/-- A byte as two data nibbles, high nibble first (R165). -/
def nibbles (b : Byte) : List Sym := [.nibble ((b >>> 4).setWidth 4), .nibble (b.setWidth 4)]

/-- An answer of a head (R202). -/
inductive Answer where
  | ack (head ambient : Byte)
  | nak (head : Byte) (code : Byte)
  deriving DecidableEq, Repr

/-- A byte from its two nibbles. -/
def byteOfNibbles (hi lo : BitVec 4) : Byte := (hi.setWidth 8 <<< 4) ||| lo.setWidth 8

/-- The answer of an ACK (or else a NAK) symbol and its status nibbles; none until its two status bytes are complete. -/
def Answer.ofNibbles (ack : Bool) : List (BitVec 4) → Option Answer
  | [a, b, c, d] =>
    some (if ack then .ack (byteOfNibbles a b) (byteOfNibbles c d) else .nak (byteOfNibbles a b) (byteOfNibbles c d))
  | _ => none

/-- The answers in a run of five-bit groups on the return pair, in order: each complete answer, and none for an answer that is
broken by a group other than a data nibble, or that the run ends, before its status bytes are complete (R168, R202). `reading`
is the answer being read: whether it is an ACK, and its nibbles so far. Groups outside an answer are no answer; an ACK or NAK
symbol that breaks an answer begins the next (log 40). -/
def answersIn (reading : Option (Bool × List (BitVec 4))) : List (BitVec 5) → List (Option Answer)
  | [] => (reading.map (fun _ => none)).toList
  | g :: rest =>
    match Sym.ofGroup g with
    | some (.nibble v) =>
      match reading with
      | some (ack, ns) =>
        match Answer.ofNibbles ack (ns ++ [v]) with
        | some a => some a :: answersIn none rest
        | none => answersIn (some (ack, ns ++ [v])) rest
      | none => answersIn none rest
    | some .ack => (reading.map (fun _ => none)).toList ++ answersIn (some (true, [])) rest
    | some .nak => (reading.map (fun _ => none)).toList ++ answersIn (some (false, [])) rest
    | some .idle | some .sor | some .eor | some .eof | none =>
      (reading.map (fun _ => none)).toList ++ answersIn none rest

end Sys2Proof.Machine
end

