-- ==== Sys2Proof/Machine/Flags.lean ====
section
/-! DEFINITION. Counters, management events, conditions, and the output lines that follow from them
(00 section 6.6; 10_management R185 to R187; 09 R165, R169, R177, R178). -/

namespace Sys2Proof.Machine

/-! ### Counters -/

/-- The value of a counter. -/
def State.counter (s : State) (c : Ctr) : Nat := s.counters[c.index]

/-- A counter increased by n, staying at 65,535 (R19). -/
def State.bumpBy (s : State) (c : Ctr) (n : Nat) : State :=
  { s with counters := s.counters.set c.index (min (s.counters[c.index] + n) Config.counterMax) }

/-- A counter increased by one. -/
def State.bump (s : State) (c : Ctr) : State := s.bumpBy c 1

/-- Several counters increased by one, in order. -/
def State.bumpAll (s : State) (cs : List Ctr) : State := cs.foldl State.bump s

/-- Every counter set to 0 (R185). -/
def State.clearCounters (s : State) : State := { s with counters := Vector.replicate 40 0 }

/-- The feed counters, the first thirteen (R19, R20). -/
def feedCounters : List Ctr :=
  [.symbolErrors, .oversize, .runt, .checkErrors, .malformed, .framesAccepted, .unknownKind, .framesActedOn, .replyBusy,
   .expired, .forwardOverrun, .framesForwarded, .repliesSent]

/-- The feed counters set to 0 (R20). -/
def State.clearFeedCounters (s : State) : State :=
  { s with counters := feedCounters.foldl (fun v c => v.set c.index 0) s.counters }

/-! ### Events (R186) -/

/-- The eight management events. -/
inductive Event where
  | panelFault
  | syncLost
  | clockLost
  | poolExhausted
  | tableFull
  | freezeExpired
  | feedError
  | restarted
  deriving DecidableEq, Repr

/-- The event's bit in an event mask (R197). -/
def Event.mask : Event → Byte
  | .panelFault => 0x01
  | .syncLost => 0x02
  | .clockLost => 0x04
  | .poolExhausted => 0x08
  | .tableFull => 0x10
  | .freezeExpired => 0x20
  | .feedError => 0x40
  | .restarted => 0x80

/-- An edge event is raised: it becomes pending, or stays so (R186). -/
def State.raise (s : State) (e : Event) : State :=
  { s with mgmt := { s.mgmt with pendingEvents := s.mgmt.pendingEvents ||| e.mask } }

/-- Several edge events are raised. -/
def State.raiseAll (s : State) (es : List Event) : State := es.foldl State.raise s

/-- The Panel Fault condition: a DEFINED head is FAULTED or ABSENT (R169). -/
def State.panelFault (s : State) : Bool :=
  HeadIx.all.any fun i =>
    (s.heads.get i).head.isSome &&
      (decide ((s.link.heads.get i).state = .faulted) || decide ((s.link.heads.get i).state = .absent))

/-- The Sync Lost condition (R171). -/
def State.syncLost (s : State) : Bool := decide (s.link.timeBase = .lost)

/-- The Clock Lost condition (R71). -/
def State.clockLost (s : State) : Bool := s.clock.lost

/-- The level events whose condition holds (R186). -/
def State.levels (s : State) : Byte :=
  (if s.panelFault then Event.panelFault.mask else 0) |||
  (if s.syncLost then Event.syncLost.mask else 0) |||
  (if s.clockLost then Event.clockLost.mask else 0)

/-- Level events are held pending while their condition holds (R186). -/
def State.holdLevels (s : State) : State :=
  { s with mgmt := { s.mgmt with pendingEvents := s.mgmt.pendingEvents ||| s.levels } }

/-! ### Output lines -/

/-- ALERTN is driven low: an event is pending and enabled, and RSTN is high (R186, R193). -/
def State.alertLow (s : State) : Bool := !s.inReset && decide (s.mgmt.pendingEvents &&& s.mgmt.enable ≠ 0)

/-- The part owns the Panel Link (R177, R178; for the swap rule also while RELEASING, R159). -/
def State.ownsLink (s : State) : Bool :=
  match s.link.owner with
  | .owning | .releasing => true
  | .granted | .idle | .waiting => false

/-- The Panel Link drivers are driven (R165, R177, R178). -/
def State.driving (s : State) : Bool := !s.inReset && s.ownsLink

/-- LGNT is asserted by a Primary (R177). -/
def State.lgntOut (s : State) : Bool :=
  !s.inReset && decide (s.straps.role = .primary) && decide (s.link.owner = .granted)

/-- LREQ is asserted by a Standby (R178). -/
def State.lreqOut (s : State) : Bool :=
  !s.inReset && decide (s.straps.role = .standby) &&
    (decide (s.link.owner = .waiting) || decide (s.link.owner = .owning))

end Sys2Proof.Machine
end

