-- ==== Sys2Proof/Machine/Ops.lean ====
section
/-! DEFINITION. Operations shared by the blocks: taking a command while the part runs, keyed lists, head records, and the
Frame Store (08_composition_and_fitting section 8.6). -/

namespace Sys2Proof.Machine

/-- A command taken by the running part: the effect, and then the level events that hold are pending (R186). While RSTN is
low the command has no effect (log 10). -/
def live (s : State) (effect : State → State) : Host.Outcome State Fault Refusal :=
  .next (if s.inReset then s else (effect s).holdLevels)

/-! ### Lists by key, in ascending order of key -/

/-- The value at a key. -/
def keyedGet {α : Type} (k : Nat) : List (Nat × α) → Option α
  | [] => none
  | (k', v) :: rest => if k' = k then some v else keyedGet k rest

/-- The list with the value at a key put in or replaced. -/
def keyedPut {α : Type} (k : Nat) (v : α) : List (Nat × α) → List (Nat × α)
  | [] => [(k, v)]
  | (k', v') :: rest =>
    if k < k' then (k, v) :: (k', v') :: rest
    else if k' = k then (k, v) :: rest
    else (k', v') :: keyedPut k v rest

/-- The list without a key. -/
def keyedErase {α : Type} (k : Nat) (l : List (Nat × α)) : List (Nat × α) := l.filter (fun p => p.1 != k)

/-- The first pair whose key is greater than a bound, or the first pair for no bound. -/
def keyedAfter {α : Type} (bound : Option Nat) (l : List (Nat × α)) : Option (Nat × α) :=
  l.find? (fun p => match bound with
    | none => true
    | some b => decide (b < p.1))

/-! ### Head records -/

/-- The record of a head, none while UNDEFINED (R118). -/
def State.head (s : State) (i : HeadIx) : Option Head := (s.heads.get i).head

/-- The record of a head replaced. -/
def State.setHead (s : State) (i : HeadIx) (h : Option Head) : State :=
  { s with heads := s.heads.set i { s.heads.get i with head := h } }

/-- A change of a DEFINED head's record. -/
def State.onHead (s : State) (i : HeadIx) (f : Head → Head) : State :=
  match s.head i with
  | some h => s.setHead i (some (f h))
  | none => s

/-- What the Panel Link holds for a head index, replaced. -/
def State.setLinkHead (s : State) (i : HeadIx) (h : LinkHead) : State :=
  { s with link := { s.link with heads := s.link.heads.set i h } }

/-- An operation for each head index in ascending order. -/
def State.forHeads (s : State) (f : HeadIx → State → State) : State := HeadIx.all.foldl (fun s i => f i s) s

/-- The head index is named by a head mask: bit i for head i (R197). -/
def inMask (mask : Byte) (i : HeadIx) : Bool := mask.getLsbD i.val

/-- The entry count N (R42). -/
def State.entryCount (s : State) : Nat := s.board.table.length

/-! ### Free values (log 6) -/

/-- A free byte, and the state with the free value used up. -/
def State.takeFreeByte (s : State) : Byte × State := (Config.freeByte s.freeCount, { s with freeCount := s.freeCount + 1 })

/-- A free choice, and the state with the free value used up. -/
def State.takeFreeChoice (s : State) : Nat × State := (Config.freeChoice s.freeCount, { s with freeCount := s.freeCount + 1 })

/-! ### The Frame Store -/

/-- The pixels of columns x0..x1−1 and rows y0..y1−1. -/
def rectMask (x0 x1 y0 y1 : Nat) : Pixels :=
  (List.range (y1 - y0)).foldl
    (fun m r => m ||| (BitVec.ofNat 8192 (2 ^ (x1 - x0) - 1) <<< ((y0 + r) * 256 + x0))) 0

/-- The buffers of a head index replaced. -/
def State.setBuffers (s : State) (i : HeadIx) (b : Buffers) : State := { s with buffers := s.buffers.set i b }

/-- A head is sendable while the part owns the link and the head's state is not ABSENT (R159). -/
def State.sendable (s : State) (i : HeadIx) : Bool := s.ownsLink && decide ((s.link.heads.get i).state ≠ .absent)

/-- A head frame of the head is in transmission. -/
def State.sendingTo (s : State) (i : HeadIx) : Bool :=
  match s.link.sending with
  | some f => decide (f.head = i)
  | none => false

/-- The buffers with their roles exchanged: the new front UNSENT, the new back IDLE (R159). -/
def Buffers.swapped (b : Buffers) : Buffers := ⟨b.back, b.front, .unsent, .idle⟩

/-- The swap rule (R159): the back COMPLETE, the front SENT or the head not sendable, no head frame of the head in
transmission. -/
def State.swapIfReady (s : State) (i : HeadIx) : State :=
  if (s.buffers.get i).backState = .complete ∧
      ((s.buffers.get i).frontState = .sent ∨ s.sendable i = false) ∧ s.sendingTo i = false then
    s.setBuffers i (s.buffers.get i).swapped
  else s

/-- A composition in flight is abandoned: the snapshot is discarded, the back becomes IDLE (R142). -/
def State.abandon (s : State) (i : HeadIx) : State :=
  match s.comps.get i with
  | some _ =>
    { s with comps := s.comps.set i none, buffers := s.buffers.set i { s.buffers.get i with backState := .idle } }
  | none => s

/-- Both buffers of a head set dark, the back IDLE and the front UNSENT (R142, R164). While a head frame of the head is in
transmission its front is left, and is cleared at the end of that head frame. -/
def State.clearBuffers (s : State) (i : HeadIx) : State :=
  match s.link.sending with
  | some f =>
    if f.head = i then
      { s with
        buffers := s.buffers.set i { s.buffers.get i with back := 0, backState := .idle }
        link := { s.link with sending := some { f with clearFront := true } } }
    else s.setBuffers i .dark
  | none => s.setBuffers i .dark

end Sys2Proof.Machine
end

