-- ==== Sys2Proof/Machine/Departures.lean ====
section
/-! DEFINITION. The Departure Store (02_departures) with the releases it sends (R60), on the board: Departure Table, Removal
Memory and free list. -/

namespace Sys2Proof.Machine

/-! ### Order and revisions -/

/-- Order time: (Scheduled − Day Start) mod 1440 (R23). -/
def orderTime (dayStart sched : Nat) : Nat := modDiff sched dayStart 1440

/-- The order key of an entry (R23). -/
def Entry.key (dayStart : Nat) (e : Entry) : Nat × Nat := (orderTime dayStart e.sched, e.id)

/-- Keys are compared by their first part, then by their second (R23, R44). -/
def keyLt (a b : Nat × Nat) : Bool := decide (a.1 < b.1) || (decide (a.1 = b.1) && decide (a.2 < b.2))

/-- An entry placed at its key's position (R23). -/
def insertEntry (dayStart : Nat) (e : Entry) : List Entry → List Entry
  | [] => [e]
  | x :: xs => if keyLt (e.key dayStart) (x.key dayStart) then e :: x :: xs else x :: insertEntry dayStart e xs

/-- The table ordered anew by the keys of a Day Start (R24). -/
def reorder (dayStart : Nat) (t : List Entry) : List Entry := t.foldr (insertEntry dayStart) []

/-- The entry of a service. -/
def findEntry (t : List Entry) (id : Nat) : Option Entry := t.find? (fun e => e.id == id)

/-- A change of the entry of a service, in its place. -/
def updateEntry (id : Nat) (f : Entry → Entry) (t : List Entry) : List Entry := t.map (fun e => if e.id = id then f e else e)

/-- Revision r is newer than q: (r − q) mod 256 is 1..127 (R25). -/
def newer (r q : Nat) : Bool := decide (1 ≤ modDiff r q 256) && decide (modDiff r q 256 ≤ 127)

/-- The effective time (R22). -/
def Entry.effective (e : Entry) : Nat := e.expected.getD e.sched

/-- Linger remaining (R22). -/
def Entry.lingerRemaining (e : Entry) : Option Nat :=
  match e.departedLinger, e.movedLinger with
  | some a, some b => some (min a b)
  | some a, none => some a
  | none, some b => some b
  | none, none => none

/-- A linger of the entry stands at 0. -/
def Entry.lingerEnded (e : Entry) : Bool := e.departedLinger == some 0 || e.movedLinger == some 0

/-! ### Removal -/

/-- The blocks an entry holds: its complete list's, then its build's, in chain order (R60). -/
def Entry.blocks (e : Entry) : List Nat :=
  (match e.list with
    | some l => l.chain.map Block.id
    | none => []) ++
  (match e.build with
    | some b => b.chain.map Block.id
    | none => [])

/-- A record added to the Removal Memory: at 16 held the oldest is dropped (R26). -/
def remember (mem : List Removal) (r : Removal) : List Removal :=
  (if Config.maxRecords ≤ mem.length then mem.drop (mem.length - (Config.maxRecords - 1)) else mem) ++ [r]

/-- The record of a service deleted; the others keep their order (R26). -/
def forget (mem : List Removal) (id : Nat) : List Removal := mem.filter (fun r => r.id != id)

/-- The record of a service. -/
def recordOf (mem : List Removal) (id : Nat) : Option Removal := mem.find? (fun r => r.id == id)

/-- A removal (R27): the entry leaves, a record joins the memory, the release frees its blocks (R60). -/
def Board.remove (b : Board) (e : Entry) (rev : Nat) : Board where
  table := b.table.filter (fun x => x.id != e.id)
  memory := remember b.memory ⟨e.id, rev⟩
  free := b.free ++ e.blocks

/-- Entries removed in order, each with its own revision recorded (R27). -/
def Board.removeAll (b : Board) (es : List Entry) : Board := es.foldl (fun b e => b.remove e e.rev) b

/-- What a frame does to the board: the board after it, its outcome, the counters it counts and the events it raises. -/
structure BoardResult where
  board  : Board
  code   : OutcomeCode
  counts : List Ctr
  raises : List Event
  deriving DecidableEq, Repr

/-- A refusal: no state changes but the counters named. -/
def Board.refuse (b : Board) (code : OutcomeCode) (counts : List Ctr := []) : BoardResult := ⟨b, code, counts, []⟩

/-! ### Lingers and platforms -/

/-- Moved and the moved linger settled for the platform before (none for a new entry) and after (R35). -/
def settleMoved (st : Settings) (before : Option Platform) (remaining : Option Nat) (after : Platform) : Bool × Option Nat :=
  if after = st.ownPlatform then (false, none)
  else
    match before with
    | some p => if p ≠ st.ownPlatform ∧ p = after then (true, remaining) else (true, some (st.movedLinger * 60))
    | none => (true, some (st.movedLinger * 60))

/-- The departed linger settled when a status is set: it continues while DEPARTED remains, starts when it begins, is absent
otherwise (R29, R37). -/
def settleDeparted (st : Settings) (before : Option Status) (remaining : Option Nat) (after : Status) : Option Nat :=
  if after = .departed then (if before = some .departed then remaining else some st.departedLinger) else none

/-! ### Departure Put (R28 to R31) -/

/-- The values of a Departure Put that passed R28; `clamped` when Cars was above 24. -/
structure PutData where
  id       : Nat
  rev      : Nat
  sched    : Nat
  expected : Option Nat
  status   : Status
  platform : Platform
  dest     : Nat
  via      : Nat
  cars     : Nat
  clamped  : Bool
  deriving DecidableEq, Repr

/-- A platform from its two bytes: number 1..99, suffix none or A..D. -/
def platformOf (number suffix : Nat) : Option Platform :=
  if number = 0 ∨ 99 < number then none
  else
    match Suffix.ofCode suffix with
    | some x => some ⟨number, x⟩
    | none => none

/-- An optional minute of day is in range (R194). -/
def optMinuteOk (v : Nat) : Bool := decide (v = 0xFFFF) || decide (v ≤ 1439)

/-- The form test of R28: none when the Put is refused with MALFORMED. -/
def PutData.ofPayload (p : List Byte) : Option PutData :=
  if p.length ≠ 15 ∨ u16 p 0 = 0 ∨ 1439 < u16 p 3 ∨ optMinuteOk (u16 p 5) = false ∨
      u16 p 10 = 0 ∨ 4079 < u16 p 10 ∨ 4079 < u16 p 12 then none
  else
    match Status.ofCode (u8 p 7), platformOf (u8 p 8) (u8 p 9) with
    | some status, some platform =>
      if status = .expected ∧ u16 p 5 = 0xFFFF then none
      else some {
        id := u16 p 0
        rev := u8 p 2
        sched := u16 p 3
        expected := if status = .scheduled then none else optOf (u16 p 5)
        status := status
        platform := platform
        dest := u16 p 10
        via := u16 p 12
        cars := min (u8 p 14) 24
        clamped := decide (24 < u8 p 14) }
    | _, _ => none

/-- The entry a Put leaves when it replaces one (R29). -/
def Entry.replacedBy (st : Settings) (e : Entry) (d : PutData) : Entry :=
  { e with
    rev := d.rev
    sched := d.sched
    expected := d.expected
    status := d.status
    platform := d.platform
    dest := d.dest
    via := d.via
    cars := d.cars
    moved := (settleMoved st (some e.platform) e.movedLinger d.platform).1
    movedLinger := (settleMoved st (some e.platform) e.movedLinger d.platform).2
    departedLinger := settleDeparted st (some e.status) e.departedLinger d.status }

/-- The entry a newcomer's Put creates (R22). -/
def Entry.created (st : Settings) (d : PutData) : Entry where
  id := d.id
  rev := d.rev
  sched := d.sched
  expected := d.expected
  status := d.status
  platform := d.platform
  moved := (settleMoved st none none d.platform).1
  dest := d.dest
  via := d.via
  cars := d.cars
  departedLinger := settleDeparted st none none d.status
  movedLinger := (settleMoved st none none d.platform).2
  list := none
  build := none
  stale := false
  truncated := false

/-- An entry with a linger at 0 is removed at once (R29, R33, R38). -/
def Board.removeIfEnded (b : Board) (e : Entry) : Board := if e.lingerEnded then b.remove e e.rev else b

/-- A Put for a service in the table (R29). -/
def Board.putExisting (b : Board) (st : Settings) (e : Entry) (d : PutData) : BoardResult :=
  if newer d.rev e.rev = false then b.refuse .stale [.staleUpdates]
  else
    ⟨({ b with table := insertEntry st.dayStart (e.replacedBy st d) (b.table.filter (fun x => x.id != e.id)) }).removeIfEnded
        (e.replacedBy st d),
      doneOr d.clamped, [], []⟩

/-- The entry with the least Linger remaining among the DEPARTED and Moved entries, the lowest rank among equals (R31). -/
def leastLingering : List Entry → Option Entry
  | [] => none
  | e :: rest =>
    if e.status = .departed ∨ e.moved = true then
      match leastLingering rest with
      | some x => if x.lingerRemaining.getD 0 < e.lingerRemaining.getD 0 then some x else some e
      | none => some e
    else leastLingering rest

/-- The entry evicted for a newcomer of a key, none for a refusal (R31). -/
def evicted (dayStart : Nat) (t : List Entry) (key : Nat × Nat) : Option Entry :=
  match leastLingering t with
  | some e => some e
  | none =>
    match t.getLast? with
    | some last => if keyLt key (last.key dayStart) then some last else none
    | none => none

/-- A newcomer's entry inserted, its record deleted (R30, steps 4 and 5). -/
def Board.insertNew (b : Board) (st : Settings) (d : PutData) : Board :=
  { b with table := insertEntry st.dayStart (Entry.created st d) b.table }

/-- A Put for a service not in the table (R30, R31). -/
def Board.putNew (b : Board) (st : Settings) (d : PutData) : BoardResult :=
  if (match recordOf b.memory d.id with
      | some r => !newer d.rev r.rev
      | none => false) then b.refuse .stale [.staleUpdates]
  else if (Entry.created st d).lingerEnded then
    ⟨{ b with memory := remember (forget b.memory d.id) ⟨d.id, d.rev⟩ }, doneOr d.clamped, [], []⟩
  else if b.table.length < Config.maxEntries then
    ⟨({ b with memory := forget b.memory d.id }).insertNew st d, doneOr d.clamped, [], []⟩
  else
    match evicted st.dayStart b.table ((Entry.created st d).key st.dayStart) with
    | some e =>
      ⟨(({ b with memory := forget b.memory d.id }).remove e e.rev).insertNew st d, doneOr d.clamped, [.entriesEvicted], []⟩
    | none => ⟨b, .full, [.tableFull], [.tableFull]⟩

/-- A Departure Put (R28 to R31). -/
def Board.put (b : Board) (st : Settings) (p : List Byte) : BoardResult :=
  match PutData.ofPayload p with
  | none => b.refuse .malformed
  | some d =>
    match findEntry b.table d.id with
    | some e => b.putExisting st e d
    | none => b.putNew st d

/-! ### Departure Amend (R32 to R34) -/

/-- The items of an Amend: an item is present when the mask names it. -/
structure AmendData where
  id       : Nat
  rev      : Nat
  expected : Option (Option Nat)
  status   : Option Status
  platform : Option Platform
  via      : Option Nat
  cars     : Option Nat
  clamped  : Bool
  deriving DecidableEq, Repr

/-- The size of an item when a mask bit names it. -/
def itemSize (mask bit size : Nat) : Nat := if flagBit mask bit then size else 0

/-- The form test of R32: none when the Amend is refused with MALFORMED. Mask bits 5..7 are not named and are ignored
(R194). -/
def AmendData.ofPayload (p : List Byte) : Option AmendData :=
  let mask := u8 p 3
  let oStatus := 4 + itemSize mask 0 2
  let oPlatform := oStatus + itemSize mask 1 1
  let oVia := oPlatform + itemSize mask 2 2
  let oCars := oVia + itemSize mask 3 2
  if p.length < 4 ∨ p.length ≠ oCars + itemSize mask 4 1 ∨ u16 p 0 = 0 then none
  else if flagBit mask 0 = true ∧ optMinuteOk (u16 p 4) = false then none
  else if flagBit mask 1 = true ∧ (Status.ofCode (u8 p oStatus)).isNone = true then none
  else if flagBit mask 2 = true ∧ (platformOf (u8 p oPlatform) (u8 p (oPlatform + 1))).isNone = true then none
  else if flagBit mask 3 = true ∧ 4079 < u16 p oVia then none
  else some {
    id := u16 p 0
    rev := u8 p 2
    expected := if flagBit mask 0 then some (optOf (u16 p 4)) else none
    status := if flagBit mask 1 then Status.ofCode (u8 p oStatus) else none
    platform := if flagBit mask 2 then platformOf (u8 p oPlatform) (u8 p (oPlatform + 1)) else none
    via := if flagBit mask 3 then some (u16 p oVia) else none
    cars := if flagBit mask 4 then some (min (u8 p oCars) 24) else none
    clamped := flagBit mask 4 && decide (24 < u8 p oCars) }

/-- The status table of R34: whether an Amend may name a status. -/
def amendAllowed (current named : Status) : Bool :=
  match current, named with
  | .departed, _ => false
  | .cancelled, .departed => false
  | _, _ => true

/-- The status an Amend results in (R32, step 5). -/
def AmendData.resultStatus (a : AmendData) (e : Entry) : Status := a.status.getD e.status

/-- The Expected an Amend results in (R32, step 5). -/
def AmendData.resultExpected (a : AmendData) (e : Entry) : Option Nat :=
  if a.resultStatus e = .scheduled then none else a.expected.getD e.expected

/-- The entry an Amend leaves (R33). -/
def Entry.amendedBy (st : Settings) (e : Entry) (a : AmendData) : Entry :=
  { e with
    rev := a.rev
    expected := a.resultExpected e
    status := a.resultStatus e
    platform := a.platform.getD e.platform
    via := a.via.getD e.via
    cars := a.cars.getD e.cars
    moved := match a.platform with
      | some p => (settleMoved st (some e.platform) e.movedLinger p).1
      | none => e.moved
    movedLinger := match a.platform with
      | some p => (settleMoved st (some e.platform) e.movedLinger p).2
      | none => e.movedLinger
    departedLinger :=
      if a.resultStatus e = .departed ∧ e.status ≠ .departed then some st.departedLinger else e.departedLinger }

/-- A Departure Amend (R32, R33). -/
def Board.amend (b : Board) (st : Settings) (p : List Byte) : BoardResult :=
  match AmendData.ofPayload p with
  | none => b.refuse .malformed
  | some a =>
    match findEntry b.table a.id with
    | none => b.refuse .notFound
    | some e =>
      if newer a.rev e.rev = false then b.refuse .stale [.staleUpdates]
      else if (match a.status with
          | some named => !amendAllowed e.status named
          | none => false) then b.refuse .notNow
      else if a.resultStatus e = .expected ∧ a.resultExpected e = none then b.refuse .malformed
      else
        ⟨({ b with table := updateEntry e.id (fun _ => e.amendedBy st a) b.table }).removeIfEnded (e.amendedBy st a),
          doneOr a.clamped, [], []⟩

/-! ### Departure Remove (R40) -/

/-- A Departure Remove. -/
def Board.removeFrame (b : Board) (p : List Byte) : BoardResult :=
  if p.length ≠ 3 ∨ u16 p 0 = 0 then b.refuse .malformed
  else
    match findEntry b.table (u16 p 0) with
    | none => b.refuse .notFound
    | some e =>
      if newer (u8 p 2) e.rev = false then b.refuse .stale [.staleUpdates]
      else ⟨b.remove e (u8 p 2), .done, [], []⟩

/-! ### Configure (R24, R36) -/

/-- A change of Day Start reorders the table (R24). -/
def Board.newDayStart (b : Board) (dayStart : Nat) : Board := { b with table := reorder dayStart b.table }

/-- Moved settled for a new Own Platform (R36). -/
def Entry.settleOwn (st : Settings) (own : Platform) (e : Entry) : Entry :=
  if e.platform = own then (if e.moved then { e with moved := false, movedLinger := none } else e)
  else if e.moved then e
  else { e with moved := true, movedLinger := some (st.movedLinger * 60) }

/-- A change of Own Platform: Moved is settled, and entries whose new moved linger is 0 are removed in rank order (R36). -/
def Board.newOwnPlatform (b : Board) (st : Settings) (own : Platform) : Board :=
  let newlyEnded := b.table.filter (fun e => !e.moved && decide (e.platform ≠ own) && decide (st.movedLinger = 0))
  ({ b with table := b.table.map (Entry.settleOwn st own) }).removeAll newlyEnded

/-! ### Second and minute events (R38, R41) -/

/-- Every present linger reduced by one (R38). -/
def Entry.countLingers (e : Entry) : Entry :=
  { e with departedLinger := e.departedLinger.map (· - 1), movedLinger := e.movedLinger.map (· - 1) }

/-- The signed difference d(x), −720..719 (R77). -/
def signedDiff (now x : Nat) : Int := (((x : Int) - (now : Int) + 720) % 1440) - 720

/-- The expiry test of R41; DEPARTED and Moved entries are never tested. -/
def Entry.overdue (st : Settings) (now : Nat) (e : Entry) : Bool :=
  if e.moved then false
  else
    match e.status with
    | .scheduled | .expected => decide (signedDiff now e.effective < -(st.overdueLimit : Int))
    | .delayed => decide (signedDiff now e.sched < -(st.delayedLimit : Int))
    | .cancelled => decide (signedDiff now e.sched < -(st.overdueLimit : Int))
    | .departed => false

/-- The Departure Store's share of a second event (`second`) and of a minute event with a valid clock (`expiry`, with now):
the lingers count down, and the entries ended or overdue leave in one run in rank order (R38, R41, R75). Entries Expired is
counted for each overdue entry. -/
def Board.timeEvent (b : Board) (st : Settings) (second : Bool) (expiry : Option Nat) : Board × Nat :=
  let table := if second then b.table.map Entry.countLingers else b.table
  let overdue := fun e : Entry => match expiry with
    | some now => e.overdue st now
    | none => false
  let gone := table.filter (fun e => (second && e.lingerEnded) || overdue e)
  (({ b with table := table }).removeAll gone, (table.filter overdue).length)

/-! ### Read back (R43, R44) -/

/-- The rank of a service, 1-based; 0 when it is not in the table. -/
def rankOf : List Entry → Nat → Nat
  | [], _ => 0
  | e :: rest, id => if e.id = id then 1 else (if rankOf rest id = 0 then 0 else rankOf rest id + 1)

/-- The content of a departure reply (R200). -/
def departureContent (t : List Entry) (e : Entry) : List Byte :=
  [b8 (rankOf t e.id)] ++ b16 e.id ++ [b8 e.rev] ++ b16 e.sched ++ optBytes e.expected ++
    [b8 e.status.code, b8 e.platform.number, b8 e.platform.suffix.code,
      flagByte [e.moved, e.list.isSome, e.build.isSome, e.stale, e.truncated]] ++
    b16 e.dest ++ b16 e.via ++ [b8 e.cars] ++ optBytes e.departedLinger ++ optBytes e.movedLinger ++
    optBytes e.lingerRemaining ++ optBytes (e.list.map CallingList.rev)

/-- The entry with the smallest key greater than a key, or the first entry for no key (R44). -/
def entryAfter (dayStart : Nat) (t : List Entry) (key : Option (Nat × Nat)) : Option Entry :=
  t.find? (fun e => match key with
    | none => true
    | some k => keyLt k (e.key dayStart))

end Sys2Proof.Machine
end

