-- ==== Sys2Proof/Machine/Calling.lean ====
section
/-! DEFINITION. The Calling List Store (03_calling_points) on the board: Stops, Stop Amend, the build timeout, and reading
lists back. -/

namespace Sys2Proof.Machine

/-- The number of stops a chain holds. -/
def chainLength (chain : List Block) : Nat := (chain.map (fun b => b.stops.length)).sum

/-- The stops of a chain, in running order. -/
def chainStops (chain : List Block) : List Stop := chain.flatMap Block.stops

/-- The block numbers of a chain, first block first. -/
def chainIds (chain : List Block) : List Nat := chain.map Block.id

/-! ### The Stops frame (R51) -/

/-- A Stops frame that passed the form test. -/
structure StopsData where
  id    : Nat
  rev   : Nat
  part  : Nat
  final : Bool
  stops : List Stop
  deriving DecidableEq, Repr

/-- The form test of R51: none when the part is refused with MALFORMED. -/
def StopsData.ofPayload (p : List Byte) : Option StopsData :=
  if p.length < 6 ∨ 12 < u8 p 5 ∨ p.length ≠ 6 + 4 * u8 p 5 ∨ u16 p 0 = 0 ∨ 7 < u8 p 3 then none
  else
    match stopsAt p 6 (u8 p 5) with
    | some stops => some ⟨u16 p 0, u8 p 2, u8 p 3, flagBit (u8 p 4) 0, stops⟩
    | none => none

/-! ### Appending (R56) -/

/-- The free list and a chain while stops are appended; `exhausted` once a stop found the free list empty (R57). -/
structure Appending where
  free      : List Nat
  chain     : List Block
  cut       : Bool
  exhausted : Bool
  deriving DecidableEq, Repr

/-- A stop written into the last block of a chain. -/
def writeLast (s : Stop) : List Block → List Block
  | [] => []
  | [b] => [{ b with stops := b.stops ++ [s] }]
  | b :: rest => b :: writeLast s rest

/-- One stop appended (R56); after an exhaustion the stops not yet written are not taken (R57). -/
def Appending.add (w : Appending) (s : Stop) : Appending :=
  if w.exhausted then w
  else if Config.maxStops ≤ chainLength w.chain then { w with cut := true }
  else if chainLength w.chain % Config.blockStops ≠ 0 then { w with chain := writeLast s w.chain }
  else
    match w.free with
    | [] => { w with exhausted := true }
    | f :: fs => { w with free := fs, chain := w.chain ++ [⟨f, [s]⟩] }

/-- The stops of a part appended in the order carried. -/
def Appending.addAll (w : Appending) (stops : List Stop) : Appending := stops.foldl Appending.add w

/-! ### Builds -/

/-- The list fields after a build is abandoned (R55, R57, R59). -/
def Entry.abandonBuild (e : Entry) : Entry := { e with build := none, stale := true }

/-- The list fields after a completion (R58). -/
def Entry.completeList (e : Entry) (rev : Nat) (chain : List Block) (cut : Bool) : Entry :=
  { e with list := some ⟨rev, chain⟩, build := none, stale := false, truncated := cut }

/-- The blocks of the entry's complete list, in chain order. -/
def Entry.listBlocks (e : Entry) : List Nat :=
  match e.list with
  | some l => chainIds l.chain
  | none => []

/-- The blocks of the entry's open build, in chain order. -/
def Entry.buildBlocks (e : Entry) : List Nat :=
  match e.build with
  | some b => chainIds b.chain
  | none => []

/-- A part's stops appended to the build of an entry, and what follows: exhaustion (R57), completion (R58), or the build
extended with its count restarted (R53, R55). `counts` are the counters already counted for the part. -/
def Board.appendPart (b : Board) (st : Settings) (e : Entry) (chain : List Block) (cut : Bool) (d : StopsData)
    (counts : List Ctr) : BoardResult :=
  let w := (Appending.mk b.free chain cut false).addAll d.stops
  if w.exhausted then
    ⟨{ b with table := updateEntry e.id Entry.abandonBuild b.table, free := w.free ++ chainIds w.chain },
      .noSpace, counts ++ [.buildsAbandoned], [.poolExhausted]⟩
  else if d.final then
    ⟨{ b with
        table := updateEntry e.id (fun x => x.completeList d.rev w.chain w.cut) b.table
        free := w.free ++ e.listBlocks },
      .done, counts ++ [.listsCompleted], []⟩
  else
    ⟨{ b with
        table := updateEntry e.id
          (fun x => { x with build := some ⟨d.rev, d.part + 1, w.chain, w.cut, st.buildTimeout⟩ }) b.table
        free := w.free },
      .done, counts, []⟩

/-- The part opens a build; an open build is released first (R53). -/
def Board.openBuild (b : Board) (st : Settings) (e : Entry) (d : StopsData) : BoardResult :=
  Board.appendPart { b with free := b.free ++ e.buildBlocks } st e [] false d
    (if e.build.isSome then [.buildsSuperseded] else [])

/-- The part's revision equals that of the open build. -/
def Entry.buildHasRev (e : Entry) (rev : Nat) : Bool :=
  match e.build with
  | some bd => bd.rev == rev
  | none => false

/-- A part 0 that found its service (R52). -/
def Board.firstPart (b : Board) (st : Settings) (e : Entry) (d : StopsData) : BoardResult :=
  if e.buildHasRev d.rev then b.refuse .done [.duplicateParts]
  else
    match e.list with
    | some l => if newer d.rev l.rev then b.openBuild st e d else b.refuse .stale [.staleParts]
    | none => b.openBuild st e d

/-- A part 1..7 that found its service (R54, R55). -/
def Board.nextPart (b : Board) (st : Settings) (e : Entry) (d : StopsData) : BoardResult :=
  match e.build with
  | none => b.refuse .notFound [.orphanParts]
  | some bd =>
    if bd.rev ≠ d.rev then b.refuse .notFound [.orphanParts]
    else if d.part = bd.expectedPart then b.appendPart st e bd.chain bd.cut d []
    else if d.part < bd.expectedPart then b.refuse .done [.duplicateParts]
    else
      ⟨{ b with table := updateEntry e.id Entry.abandonBuild b.table, free := b.free ++ chainIds bd.chain },
        .notNow, [.buildsAbandoned], []⟩

/-- A Stops frame (R51 to R58). -/
def Board.stops (b : Board) (st : Settings) (p : List Byte) : BoardResult :=
  match StopsData.ofPayload p with
  | none => b.refuse .malformed
  | some d =>
    match findEntry b.table d.id with
    | none => b.refuse .notFound [.orphanParts]
    | some e => if d.part = 0 then b.firstPart st e d else b.nextPart st e d

/-! ### The build timeout (R59) -/

/-- The timeouts of one second event, over the entries in rank order: the entries after it, the blocks freed in order, and
the number of builds abandoned. -/
def countBuildEntries : List Entry → List Entry × List Nat × Nat
  | [] => ([], [], 0)
  | e :: rest =>
    let r := countBuildEntries rest
    match e.build with
    | none => (e :: r.1, r.2.1, r.2.2)
    | some bd =>
      if bd.timeout ≤ 1 then (e.abandonBuild :: r.1, chainIds bd.chain ++ r.2.1, r.2.2 + 1)
      else ({ e with build := some { bd with timeout := bd.timeout - 1 } } :: r.1, r.2.1, r.2.2)

/-- The Calling List Store's share of a second event: the board, and the number of builds abandoned (R59). -/
def Board.countBuilds (b : Board) : Board × Nat :=
  let r := countBuildEntries b.table
  ({ b with table := r.1, free := b.free ++ r.2.1 }, r.2.2)

/-! ### Stop Amend (R61) -/

/-- A change of the stop at an index of a list. -/
def amendChain (i : Nat) (f : Stop → Stop) : List Block → List Block
  | [] => []
  | b :: rest =>
    if i < b.stops.length then { b with stops := b.stops.modify i f } :: rest
    else b :: amendChain (i - b.stops.length) f rest

/-- A stop with its kind changed, and its time when the amend carries one (R61). -/
def Stop.amended (kind : StopKind) (time : Option Nat) (s : Stop) : Stop :=
  { s with kind := kind, time := match time with
    | some t => some t
    | none => s.time }

/-- The complete list of an entry with the stop at an index changed. -/
def Entry.amendStop (i : Nat) (kind : StopKind) (time : Option Nat) (e : Entry) : Entry :=
  { e with list := e.list.map (fun l => { l with chain := amendChain i (Stop.amended kind time) l.chain }) }

/-- A Stop Amend (R61). -/
def Board.stopAmend (b : Board) (p : List Byte) : BoardResult :=
  if p.length ≠ 6 ∨ u16 p 0 = 0 ∨ 47 < u8 p 2 ∨ optMinuteOk (u16 p 4) = false then b.refuse .malformed
  else
    match StopKind.ofCode (u8 p 3) with
    | none => b.refuse .malformed
    | some kind =>
      match findEntry b.table (u16 p 0) with
      | none => b.refuse .notFound
      | some e =>
        match e.list with
        | none => b.refuse .notFound
        | some l =>
          if u8 p 2 < chainLength l.chain then
            ⟨{ b with table := updateEntry e.id (Entry.amendStop (u8 p 2) kind (optOf (u16 p 4))) b.table },
              .done, [], []⟩
          else b.refuse .notFound

/-! ### Reading lists back (R63, R64) -/

/-- The length of the entry's complete list, 0 when it has none. -/
def Entry.listLength (e : Entry) : Nat :=
  match e.list with
  | some l => chainLength l.chain
  | none => 0

/-- The stops of the entry's complete list. -/
def Entry.listStops (e : Entry) : List Stop :=
  match e.list with
  | some l => chainStops l.chain
  | none => []

/-- A part is an item of the calling list table: part 0, and part p when 12 p is below the list's length (section 3.11). -/
def Entry.hasPart (e : Entry) (part : Nat) : Bool := decide (part = 0) || decide (12 * part < e.listLength)

/-- The content of a calling list reply (R200). -/
def callingContent (e : Entry) (part : Nat) : List Byte :=
  let stops := (e.listStops.drop (12 * part)).take 12
  b16 e.id ++ [b8 part, b8 e.listLength] ++ optBytes (e.list.map CallingList.rev) ++
    [flagByte [e.list.isSome, e.stale, e.truncated, e.build.isSome]] ++
    (match e.build with
      | some bd => [b8 bd.rev, b8 bd.expectedPart, b8 (chainLength bd.chain)]
      | none => [0, 0, 0]) ++
    [b8 stops.length] ++ stops.flatMap Stop.bytes

/-- The entry with the smallest service id above a bound (none: the smallest). -/
def entryAboveId (bound : Option Nat) : List Entry → Option Entry
  | [] => none
  | e :: rest =>
    let above : Bool := match bound with
      | none => true
      | some k => decide (k < e.id)
    match entryAboveId bound rest with
    | some x => if above && decide (e.id < x.id) then some e else some x
    | none => if above then some e else none

/-- The item with the smallest key greater than a key (none: the first item): its entry and part (R64). -/
def partAfter (t : List Entry) (key : Option (Nat × Nat)) : Option (Entry × Nat) :=
  match key with
  | none => (entryAboveId none t).map (fun e => (e, 0))
  | some (id, part) =>
    match findEntry t id with
    | some e =>
      if e.hasPart (part + 1) && decide (part + 1 ≤ 7) then some (e, part + 1)
      else (entryAboveId (some id) t).map (fun x => (x, 0))
    | none => (entryAboveId (some id) t).map (fun x => (x, 0))

end Sys2Proof.Machine
end

