-- ==== Sys2Proof/Machine/FontStore.lean ====
section
/-! DEFINITION. The Font Store (06_fonts_and_symbols): records, frames, and what it answers the Composer. -/

namespace Sys2Proof.Machine

/-! ### Records -/

/-- The record of a font id; 4 is the Symbol Set (R102). -/
def Fonts.get (f : Fonts) : Nat → FontRecord
  | 0 => f.font0
  | 1 => f.font1
  | 2 => f.font2
  | 3 => f.font3
  | _ => f.symbols

/-- The record of a font id replaced. -/
def Fonts.set (f : Fonts) (id : Nat) (r : FontRecord) : Fonts :=
  match id with
  | 0 => { f with font0 := r }
  | 1 => { f with font1 := r }
  | 2 => { f with font2 := r }
  | 3 => { f with font3 := r }
  | _ => { f with symbols := r }

/-- The code belongs to the record of the id (R106). -/
def codeBelongs (id code : Nat) : Bool :=
  if id = 4 then decide (0xE0 ≤ code) && decide (code ≤ 0xFF) else decide (code < 0xE0)

/-! ### Frames (R104 to R107) -/

/-- What a font frame does: the store after it and its outcome. -/
structure FontResult where
  fonts : Fonts
  code  : OutcomeCode
  deriving DecidableEq, Repr

/-- The record a Font Define leaves, with clamped values (R105). -/
def FontRecord.define (r : FontRecord) (height nominal minimum : Nat) : FontRecord where
  defined := true
  height := height
  nominalGap := nominal
  minGap := minimum
  cells := if r.defined = true ∧ r.height = height then r.cells else []

/-- A Font Define (R104, R105). -/
def defineFont (f : Fonts) (p : List Byte) : FontResult :=
  if p.length ≠ 4 ∨ 4 < u8 p 0 then ⟨f, .malformed⟩
  else
    let height := clamp 5 16 (u8 p 1)
    if u8 p 0 = 4 then
      ⟨f.set 4 ((f.get 4).define height 0 0), doneOr (decide (height ≠ u8 p 1))⟩
    else
      let nominal := min (u8 p 2) 3
      let minimum := min (u8 p 3) nominal
      ⟨f.set (u8 p 0) ((f.get (u8 p 0)).define height nominal minimum),
        doneOr (decide (height ≠ u8 p 1) || decide (nominal ≠ u8 p 2) || decide (minimum ≠ u8 p 3))⟩

/-- The pixels of a row of bytes: the leftmost is the most significant bit of the first byte (R107). -/
def rowPixels (bytes : List Byte) (advance : Nat) : List Bool :=
  (List.range advance).map (fun c => (bytes.getD (c / 8) 0).getLsbD (7 - c % 8))

/-- The bytes of a row of pixels, dark beyond its last column. -/
def rowBytes (row : List Bool) : List Byte :=
  (List.range ((row.length + 7) / 8)).map (fun k =>
    flagByte ((List.range 8).map (fun b => row.getD (8 * k + (7 - b)) false)))

/-- The rows of a bitmap of so many bytes a row. -/
def bitmapRows (bytes : List Byte) (perRow advance : Nat) : Nat → List (List Bool)
  | 0 => []
  | n + 1 => rowPixels (bytes.take perRow) advance :: bitmapRows (bytes.drop perRow) perRow advance n

/-- A Glyph Put (R106, R107). -/
def putGlyph (f : Fonts) (p : List Byte) : FontResult :=
  if p.length < 3 ∨ 4 < u8 p 0 ∨ codeBelongs (u8 p 0) (u8 p 1) = false then ⟨f, .malformed⟩
  else if (f.get (u8 p 0)).defined = false then ⟨f, .notFound⟩
  else
    let r := f.get (u8 p 0)
    let advance := clamp 1 16 (u8 p 2)
    let perRow := (advance + 7) / 8
    if p.length - 3 ≠ r.height * perRow then ⟨f, .malformed⟩
    else
      ⟨f.set (u8 p 0)
          { r with cells := keyedPut (u8 p 1) ⟨advance, bitmapRows (p.drop 3) perRow advance r.height⟩ r.cells },
        doneOr (decide (advance ≠ u8 p 2))⟩

/-! ### Serving the Composer (R108, R110, R112) -/

/-- The cell that answers for a code in a font, when it is loaded. -/
def Fonts.cell (f : Fonts) (font code : Nat) : Option Cell :=
  keyedGet code (if code < 0xE0 then (f.get font).cells else f.symbols.cells)

/-- What a cell fetch returns: the advance, the rows, the band row of row 0, and whether it is a stand-in. -/
structure Fetched where
  advance : Nat
  rows    : List (List Bool)
  top     : Int
  standIn : Bool
  deriving DecidableEq, Repr

/-- The stand-in of a missing cell (R110). -/
def Fonts.standIn (f : Fonts) (font : Nat) : Fetched :=
  match keyedGet 0x3F (f.get font).cells with
  | some c => ⟨c.advance, c.rows, 0, true⟩
  | none => ⟨3, List.replicate (f.get font).height [false, false, false], 0, true⟩

/-- A cell fetch in a DEFINED font (R108, R110, R112). -/
def Fonts.fetch (f : Fonts) (font code : Nat) : Fetched :=
  match f.cell font code with
  | some c =>
    if code < 0xE0 then ⟨c.advance, c.rows, 0, false⟩
    else ⟨c.advance, c.rows, ((f.get font).height - f.symbols.height : Int) / 2, false⟩
  | none => f.standIn font

/-- An advance lookup in a DEFINED font (R108, R110). -/
def Fonts.advance (f : Fonts) (font code : Nat) : Nat := (f.fetch font code).advance

/-- The ellipsis 0xE1 is loaded (R108). -/
def Fonts.ellipsisLoaded (f : Fonts) : Bool := (keyedGet 0xE1 f.symbols.cells).isSome

/-! ### Reading fonts back (R114, R115) -/

/-- The content of a font reply (R200). The item "defined" is sent as 1 or 0: the model's coding (log 39). -/
def fontContent (f : Fonts) (id : Nat) : List Byte :=
  [b8 id, flagByte [(f.get id).defined], b8 (f.get id).height, b8 (f.get id).nominalGap, b8 (f.get id).minGap,
    b8 (f.get id).cells.length]

/-- The content of a glyph reply (R200). -/
def glyphContent (f : Fonts) (id code : Nat) (c : Cell) : List Byte :=
  [b8 id, b8 code, b8 c.advance, b8 (f.get id).height] ++ c.rows.flatMap rowBytes

/-- The loaded cells of all records, in key order. -/
def Fonts.allCells (f : Fonts) : List ((Nat × Nat) × Cell) :=
  [0, 1, 2, 3, 4].flatMap (fun id => (f.get id).cells.map (fun p => ((id, p.1), p.2)))

end Sys2Proof.Machine
end

