-- ==== Sys2Proof/Machine/Link.lean ====
section
/-! DEFINITION. The Panel Link (09_the_panel_link): head frames, head states, rounds, brightness, ownership. -/

namespace Sys2Proof.Machine

/-! ### What goes out (R165, R166, R202) -/

/-- The header of a head frame. -/
def headerSymbols (f : HeadFrame) : List Sym :=
  nibbles (b8 ((if f.blank then 128 else 0) + f.head.val)) ++ nibbles (b8 (f.level * 16 + f.frameNumber))

/-- Eight pixels of a row, the leftmost in the most significant bit. -/
def pixelByte (px : Pixels) (y k : Nat) : Byte :=
  flagByte ((List.range 8).map (fun b => px.getLsbD (256 * y + 8 * k + (7 - b))))

/-- Row y of a head frame: SOR, the row number, W/8 pixel bytes, EOR. -/
def rowSymbols (px : Pixels) (width y : Nat) : List Sym :=
  [.sor] ++ nibbles (b8 y) ++ (List.range (width / 8)).flatMap (fun k => nibbles (pixelByte px y k)) ++ [.eor]

/-- What the outgoing pair carries, replaced. -/
def State.setPlo (s : State) (out : List Sym) : State := { s with link := { s.link with plo := out } }

/-- The head frame in transmission replaced. -/
def State.setSending (s : State) (f : Option HeadFrame) : State := { s with link := { s.link with sending := f } }

/-- The SOR of row y is sent, and the row with it (R166). -/
def State.sendRow (s : State) (f : HeadFrame) (y : Nat) : State :=
  (s.setSending (some { f with phase := .row y })).setPlo (rowSymbols (s.buffers.get f.head).front f.width y)

/-- HOLDN is tested before the SOR of row y (R167). -/
def State.testHold (s : State) (f : HeadFrame) (y : Nat) (holdn : Bool) : State :=
  if holdn then (s.setSending (some { f with phase := .holdWait y })).setPlo [] else s.sendRow f y

/-! ### A head frame begins (R166, R170, R174, R160) -/

/-- The brightness level sent (R174). -/
def State.levelOf (s : State) (i : HeadIx) (h : Head) : Nat :=
  match h.brightness with
  | .fixed l => l
  | .auto => (s.link.heads.get i).autoLevel

/-- A head frame to a DEFINED head begins. -/
def State.beginFrame (s : State) (i : HeadIx) (h : Head) : State :=
  let number := ((s.link.heads.get i).frameNumber + 1) % 16
  let f : HeadFrame := ⟨i, h.width, h.height, s.levelOf i h, (s.heads.get i).blank, number, .header, false, false⟩
  let s' := ((s.setLinkHead i { s.link.heads.get i with frameNumber := number, probeDue := false }).setSending
    (some f)).setPlo (headerSymbols f)
  if (s.buffers.get i).frontState = .sent then s'.bump .frameRepeats else s'

/-- The next head of the round is begun; a head no longer DEFINED is passed over; a round with none left is complete (R172). -/
def State.nextOfRound (s : State) : List HeadIx → State
  | [] => { s with link := { s.link with round := none, plo := [] } }
  | i :: rest =>
    match s.head i with
    | some h => ({ s with link := { s.link with round := some rest } }).beginFrame i h
    | none => s.nextOfRound rest

/-- The round in progress, if any, goes on. -/
def State.continueRound (s : State) : State :=
  match s.link.round with
  | some rest => s.nextOfRound rest
  | none => s.setPlo []

/-! ### Rounds (R172, R173) -/

/-- The eight indices in wrapping order from the pointer. -/
def wrapFrom (p : HeadIx) : List HeadIx := HeadIx.all.map (fun k => p + k)

/-- A head is due in a round: DEFINED, and not ABSENT or with its probe due (R172). -/
def State.dueInRound (s : State) (i : HeadIx) : Bool :=
  (s.head i).isSome &&
    (decide ((s.link.heads.get i).state ≠ .absent) || (s.link.heads.get i).probeDue)

/-- The round in progress ends at a frame event: each head not begun is counted, and the pointer is set to the first (R173). -/
def State.endRound (s : State) : State :=
  match s.link.round with
  | some (i :: rest) =>
    ({ s with link := { s.link with round := none, pointer := i } }).bumpBy .frameOverruns (rest.length + 1)
  | some [] => { s with link := { s.link with round := none } }
  | none => s

/-- A round may begin: the part owns the link, and is neither RELEASING nor about to give the link (R172). -/
def State.roundsRun (s : State) : Bool := decide (s.link.owner = .owning) && !s.link.giveWaiting

/-- A round begins at a frame event (R172). -/
def State.beginRound (s : State) : State :=
  let s := s.endRound
  let due := (wrapFrom s.link.pointer).filter s.dueInRound
  match s.link.sending with
  | some _ => { s with link := { s.link with round := if due = [] then none else some due } }
  | none => s.nextOfRound due

/-- The Panel Link's part of a frame event (R172). -/
def State.frameRound (s : State) : State := if s.roundsRun then s.beginRound else s

/-! ### Ownership (R177 to R179) -/

/-- The part stops owning the link: drivers released, no round, and the Frame Store takes the loss of ownership (R159). -/
def State.loseLink (s : State) (owner : Ownership) : State :=
  ({ s with link := { s.link with owner := owner, giveWaiting := false, round := none, plo := [] } }).forHeads
    (fun i s => s.swapIfReady i)

/-- The part takes the link, sending IDLE; rounds begin at the next frame event. -/
def State.takeLink (s : State) : State :=
  { s with link := { s.link with owner := .owning, giveWaiting := false, windowMark := false, plo := [] } }

/-- The level of LREQ replaced. -/
def State.setLreq (s : State) (level : Bool) : State := { s with link := { s.link with lreqIn := level } }

/-- LREQ is seen asserted by a Primary (R177). -/
def State.lreqSeen (s : State) : State :=
  if s.straps.role = .primary ∧ s.link.owner = .owning then
    match s.link.sending with
    | some _ => { s with link := { s.link with owner := .releasing, round := none } }
    | none => s.loseLink .granted
  else s

/-- LREQ is seen released by a Primary (R177). -/
def State.lreqGone (s : State) : State :=
  if s.straps.role = .primary then
    match s.link.owner with
    | .releasing => { s with link := { s.link with owner := .owning } }
    | .granted => s.takeLink
    | .owning | .idle | .waiting => s
  else s

/-- Activity is seen by a WAITING Standby (R165, R178). -/
def State.seeActivity (s : State) : State :=
  if s.link.owner = .waiting then { s with link := { s.link with windowMark := true } } else s

/-- LGNT is seen asserted (R178). -/
def State.lgntSeen (s : State) : State := if s.link.owner = .waiting then s.takeLink else s

/-- The Grant Wait window expires (R178; link wait, R184). -/
def State.windowExpires (s : State) : State :=
  if s.link.owner = .waiting then
    if s.link.windowMark then
      { s with link := { s.link with windowMark := false, linkWait := min (s.link.linkWait + 1) 255 } }
    else s.takeLink.bump .forcedTakes
  else s

/-- A Take Link (R178, R179). -/
def State.takeLinkRequest (s : State) : State × OutcomeCode :=
  match s.straps.role with
  | .primary => (s, .notNow)
  | .standby =>
    match s.link.owner with
    | .idle => ({ s with link := { s.link with owner := .waiting, windowMark := false, linkWait := 0 } }, .done)
    | .waiting | .owning | .releasing | .granted => (s, .done)

/-- A Give Link (R179). -/
def State.giveLinkRequest (s : State) : State × OutcomeCode :=
  match s.straps.role with
  | .primary => (s, .notNow)
  | .standby =>
    match s.link.owner with
    | .owning =>
      match s.link.sending with
      | some _ => ({ s with link := { s.link with giveWaiting := true, round := none } }, .done)
      | none => (s.loseLink .idle, .done)
    | .waiting => ({ s with link := { s.link with owner := .idle, windowMark := false } }, .done)
    | .idle | .releasing | .granted => (s, .notNow)

/-! ### The end of a head frame (R168, R169) -/

/-- How a head frame ends. -/
inductive FrameEnd where
  | ack (ambient : Nat)
  | nak (code : FaultCode)
  | timeout
  | holdAbort
  deriving DecidableEq, Repr

/-- The counter of an end of a head frame (R180). -/
def FrameEnd.counter : FrameEnd → Option Ctr
  | .ack _ => none
  | .nak _ => some .headFaults
  | .timeout => some .headTimeouts
  | .holdAbort => some .holdAborts

/-- The head state table for a timeout or abandonment (R169). -/
def LinkHead.miss (h : LinkHead) : LinkHead :=
  match h.state with
  | .unknown | .present | .faulted => { h with state := .silent, misses := 1 }
  | .silent => if 3 ≤ h.misses + 1 then { h with state := .absent, misses := 3 } else { h with misses := h.misses + 1 }
  | .absent => { h with misses := 3 }

/-- The head state table (R169); a head that is not ABSENT keeps its probe-due mark clear (R170). -/
def LinkHead.after (h : LinkHead) : FrameEnd → LinkHead
  | .ack a => { h with state := .present, misses := 0, faultCode := none, ambient := some a, probeDue := false }
  | .nak c => { h with state := .faulted, misses := 0, faultCode := some c, probeDue := false }
  | .timeout | .holdAbort => h.miss

/-- A counter counted when there is one. -/
def State.bumpOpt (s : State) (c : Option Ctr) : State :=
  match c with
  | some c => s.bump c
  | none => s

/-- The front becomes SENT at the end of a head frame, and dark and UNSENT when a clearing waits for that end (R142, R160). -/
def Buffers.afterFrame (b : Buffers) (clear : Bool) : Buffers :=
  if clear then { b with front := 0, frontState := .unsent } else { b with frontState := .sent }

/-- Ownership moves on, or the round does (R172, R177, R179). -/
def State.afterFrame (s : State) : State :=
  if s.link.owner = .releasing then s.loseLink .granted
  else if s.link.giveWaiting then s.loseLink .idle
  else s.continueRound

/-- The end of the head frame in transmission (R168). -/
def State.endFrame (s : State) (f : HeadFrame) (e : FrameEnd) : State :=
  let s1 := s.bumpOpt e.counter
  let s2 := if f.void then s1 else s1.setLinkHead f.head ((s1.link.heads.get f.head).after e)
  let s3 := (s2.setSending none).setBuffers f.head ((s2.buffers.get f.head).afterFrame f.clearFront)
  (s3.swapIfReady f.head).afterFrame

/-- The head frame that awaits an answer. -/
def State.awaiting (s : State) : Option HeadFrame :=
  match s.link.sending with
  | some f =>
    match f.phase with
    | .answer _ => some f
    | .header | .row _ | .holdWait _ => none
  | none => none

/-- An answer is ignored and counted (R168). -/
def State.strayAnswer (s : State) : State := s.bump .strayAnswers

/-- An ACK arrives (R168). -/
def State.takeAck (s : State) (head ambient : Byte) : State :=
  match s.awaiting with
  | some f => if head.toNat = f.head.val then s.endFrame f (.ack ambient.toNat) else s.strayAnswer
  | none => s.strayAnswer

/-- A NAK arrives (R168). -/
def State.takeNak (s : State) (head code : Byte) : State :=
  match s.awaiting, FaultCode.ofCode code.toNat with
  | some f, some c => if head.toNat = f.head.val then s.endFrame f (.nak c) else s.strayAnswer
  | _, _ => s.strayAnswer

/-- An answer heard on the return pair; none for one that is broken or too short (R168). -/
def State.takeAnswer (s : State) : Option Answer → State
  | some (.ack head ambient) => s.takeAck head ambient
  | some (.nak head code) => s.takeNak head code
  | none => s.strayAnswer

/-- A run of groups arrives on the return pair: a symbol other than IDLE is activity (R165), and the answers in it are taken in
order (R168, R202; log 40). -/
def State.takeGroups (s : State) (groups : List (BitVec 5)) : State :=
  (answersIn none groups).foldl State.takeAnswer
    (if groups.any (fun g => (Sym.ofGroup g).any (fun x => decide (x ≠ .idle))) then s.seeActivity else s)

/-- The Ack Timeout expires (R168). -/
def State.ackTimesOut (s : State) : State :=
  match s.awaiting with
  | some f => s.endFrame f .timeout
  | none => s

/-- The header has been sent (R166, R167). -/
def State.headerDone (s : State) (holdn : Bool) : State :=
  match s.link.sending with
  | some f =>
    match f.phase with
    | .header => s.testHold f 0 holdn
    | .row _ | .holdWait _ | .answer _ => s
  | none => s

/-- A row has been sent: the next row, or EOF and the wait for the answer (R166 to R168). -/
def State.rowDone (s : State) (holdn : Bool) : State :=
  match s.link.sending with
  | some f =>
    match f.phase with
    | .row y =>
      if y + 1 < f.height then s.testHold f (y + 1) holdn
      else (s.setSending (some { f with phase := .answer s.mgmt.settings.ackTimeout })).setPlo [.eof]
    | .header | .holdWait _ | .answer _ => s
  | none => s

/-- HOLDN is released (R167). -/
def State.holdReleased (s : State) : State :=
  match s.link.sending with
  | some f =>
    match f.phase with
    | .holdWait y => s.sendRow f y
    | .header | .row _ | .answer _ => s
  | none => s

/-- The Hold Limit expires (R167). -/
def State.holdExpires (s : State) : State :=
  match s.link.sending with
  | some f =>
    match f.phase with
    | .holdWait _ => s.endFrame f .holdAbort
    | .header | .row _ | .answer _ => s
  | none => s

/-! ### Head Define and Head Drop (R168, R169) -/

/-- A head frame of the head in transmission is not applied to the head's state. -/
def HeadFrame.voidFor (i : HeadIx) (f : HeadFrame) : HeadFrame := if f.head = i then { f with void := true } else f

/-- The head's state after a Head Define or Head Drop; ambient reading and AUTO level are kept (R169, R174). -/
def LinkHead.redefined (h : LinkHead) : LinkHead :=
  { h with state := .unknown, misses := 0, faultCode := none, frameNumber := 0, probeDue := false }

/-- The Panel Link's share of a Head Define or Head Drop. -/
def State.headRedefined (s : State) (i : HeadIx) : State :=
  { s with link := { s.link with
      heads := s.link.heads.set i (s.link.heads.get i).redefined
      sending := s.link.sending.map (HeadFrame.voidFor i) } }

/-- A dropped head leaves the round in progress (R172, R173). -/
def State.leaveRound (s : State) (i : HeadIx) : State :=
  { s with link := { s.link with round := s.link.round.map (fun l => l.filter (fun j => j != i)) } }

/-! ### Second events (R170, R175) -/

/-- The threshold T_l, l in 1..15. -/
def threshold (t : List Nat) (l : Nat) : Nat := t.getD (l - 1) 0

/-- One brightness step (R175). -/
def stepLevel (t : List Nat) (hysteresis level ambient : Nat) : Nat :=
  if level < 15 ∧ threshold t (level + 1) ≤ ambient then level + 1
  else if 0 < level ∧ ambient + hysteresis < threshold t level then level - 1
  else level

/-- A head's share of a second event: brightness step and probe-due mark. -/
def LinkHead.onSecond (t : List Nat) (hysteresis : Nat) (h : Head) (l : LinkHead) : LinkHead :=
  let stepped := match h.brightness, l.ambient with
    | .auto, some a => { l with autoLevel := stepLevel t hysteresis l.autoLevel a }
    | _, _ => l
  if stepped.state = .absent then { stepped with probeDue := true } else stepped

/-- The Panel Link's share of a second event (R170, R175). -/
def State.linkSecond (s : State) : State :=
  { s with link := { s.link with
      heads := s.link.heads.mapIx (fun i l => match s.head i with
        | some h => l.onSecond s.link.thresholds s.mgmt.settings.hysteresis h
        | none => l) } }

/-! ### Brightness Table Put (R176) -/

/-- Each value below the one before it, as taken, raised to equal it. -/
def raiseFrom (floor : Nat) : List Nat → List Nat
  | [] => []
  | v :: rest => max floor v :: raiseFrom (max floor v) rest

/-- A Brightness Table Put. -/
def State.putBrightness (s : State) (p : List Byte) : State × OutcomeCode :=
  if p.length ≠ 15 then (s, .malformed)
  else
    let given := p.map BitVec.toNat
    ({ s with link := { s.link with thresholds := raiseFrom 0 given } }, doneOr (decide (raiseFrom 0 given ≠ given)))

end Sys2Proof.Machine
end

