-- ==== Sys2Proof/Machine/Layout.lean ====
section
/-! DEFINITION. Layout and Page Control (07_layouts_pages_and_notices): heads, fields, pages, holds, notices and overlays, with
the Composer's handover and discard of ticker contexts (R156). -/

namespace Sys2Proof.Machine

/-! ### Pages and holds (R125 to R127) -/

/-- k, the highest slot used by a field of the head (R125). -/
def Head.topSlot (h : Head) : Nat :=
  h.fields.foldl (fun k f => if f.2.record.kind.isEntry then max k f.2.record.slot else k) 0

/-- P, the number of pages for k and N (R125). -/
def pageCount (k n : Nat) : Nat := if k ≤ 1 then 1 else max 1 ((n - 1 + (k - 2)) / (k - 1))

/-- P for a head. -/
def Head.pageCount (h : Head) (n : Nat) : Nat := Machine.pageCount h.topSlot n

/-- The page state after a page advance (R126). -/
def PageState.advanced (p : PageState) (count dwell : Nat) : PageState :=
  { p with page := (p.page + 1) % count, phase := .dwell, dwell := dwell, holdSet := [] }

/-- The live page state changed; a head under an overlay has none (R131). -/
def Head.onPages (h : Head) (f : PageState → PageState) : Head :=
  match h.mode with
  | .pages p => { h with mode := .pages (f p) }
  | .overlay _ _ => h

/-- A page advance of a head without an overlay (R126). -/
def Head.advancePage (dwell n : Nat) (h : Head) : Head := h.onPages (fun p => p.advanced (h.pageCount n) dwell)

/-- A field leaves the hold set; when the set becomes empty during HOLD the page advances (R127). -/
def Head.leaveHold (dwell n i : Nat) (h : Head) : Head :=
  match h.mode with
  | .pages p =>
    if p.phase = .hold ∧ i ∈ p.holdSet then
      if p.holdSet.filter (fun j => j != i) = [] then h.advancePage dwell n
      else { h with mode := .pages { p with holdSet := p.holdSet.filter (fun j => j != i) } }
    else h
  | .overlay _ _ => h

/-- The ticker context of a field discarded, and the discard reported (R127, R156). -/
def Head.discardTicker (dwell n i : Nat) (h : Head) : Head :=
  Head.leaveHold dwell n i { h with tickers := keyedErase i h.tickers }

/-- The fields in a new hold set (R127): entry kind, slot 2 or more, mid-pass. -/
def Head.holdMembers (h : Head) : List Nat :=
  (h.fields.filter (fun f =>
    f.2.record.kind.isEntry && decide (2 ≤ f.2.record.slot) &&
      (match keyedGet f.1 h.tickers with
        | some t => decide (t.pos ≠ 0)
        | none => false))).map Prod.fst

/-- Dwell expiry (R126, R127). -/
def Head.dwellExpires (dwell limit n : Nat) (h : Head) : Head :=
  if h.pageCount n ≤ 1 then h.onPages (fun p => { p with page := 0, dwell := dwell })
  else if h.holdMembers = [] ∨ limit = 0 then h.advancePage dwell n
  else h.onPages (fun p => { p with phase := .hold, dwell := 0, hold := limit, holdSet := h.holdMembers })

/-- A head's dwell counted at a second event (R126). -/
def Head.countDwell (dwell limit n : Nat) (h : Head) : Head :=
  match h.mode with
  | .pages p =>
    match p.phase with
    | .dwell =>
      if p.dwell ≤ 1 then h.dwellExpires dwell limit n else { h with mode := .pages { p with dwell := p.dwell - 1 } }
    | .hold => h
  | .overlay _ _ => h

/-- A head's hold counted at a second event, and whether it timed out (R127). -/
def Head.countHold (dwell n : Nat) (h : Head) : Head × Bool :=
  match h.mode with
  | .pages p =>
    match p.phase with
    | .hold =>
      if p.hold ≤ 1 then (Head.advancePage dwell n { h with mode := .pages { p with hold := 0 } }, true)
      else ({ h with mode := .pages { p with hold := p.hold - 1 } }, false)
    | .dwell => (h, false)
  | .overlay _ _ => (h, false)

/-! ### Overlays (R131, R132, R156) -/

/-- The field of an index is of an entry kind. -/
def Head.entryField (h : Head) (i : Nat) : Bool :=
  match keyedGet i h.fields with
  | some f => f.record.kind.isEntry
  | none => false

/-- An overlay starts on a head without one: page state and entry-kind contexts go to the Shadow (R131, R156). -/
def Head.startOverlay (slot : HeadIx) (h : Head) : Head :=
  match h.mode with
  | .pages p =>
    { h with
      mode := .overlay slot ⟨p, h.tickers.filter (fun t => h.entryField t.1)⟩
      tickers := h.tickers.filter (fun t => !h.entryField t.1) }
  | .overlay _ shadow => { h with mode := .overlay slot shadow }

/-- The page state taken back from the Shadow (R132). -/
def Head.restoredPages (dwell n : Nat) (h : Head) (shadow : Shadow) : PageState :=
  let p := shadow.page
  if p.page < h.pageCount n then
    let kept := p.holdSet.filter (fun i => (keyedGet i shadow.tickers).isSome)
    if p.phase = .hold ∧ kept = [] then p.advanced (h.pageCount n) dwell else { p with holdSet := kept }
  else { p with page := 0, phase := .dwell, dwell := dwell, holdSet := [] }

/-- An overlay ends and the head is restored (R132, R156). -/
def Head.endOverlay (dwell n : Nat) (h : Head) : Head :=
  match h.mode with
  | .pages _ => h
  | .overlay _ shadow =>
    { h with
      mode := .pages (h.restoredPages dwell n shadow)
      tickers := shadow.tickers.foldl (fun l t => keyedPut t.1 t.2 l) h.tickers
      overlayTicker := none }

/-- The notice slot of the head's overlay. -/
def Head.overlaySlot (h : Head) : Option HeadIx :=
  match h.mode with
  | .pages _ => none
  | .overlay slot _ => some slot

/-- The overlay number of an index increased by one, modulo 256 (R131). -/
def HeadEntry.nextOverlay (e : HeadEntry) : HeadEntry := { e with overlayNumber := (e.overlayNumber + 1) % 256 }

/-- The overlay number of an index increased by one (R131). -/
def State.nextOverlayNumber (s : State) (i : HeadIx) : State :=
  { s with heads := s.heads.set i (s.heads.get i).nextOverlay }

/-- The OVERLAY notice of a slot takes a DEFINED head (R131): a start abandons the composition in flight (R142), a switch to a
different slot is counted. -/
def State.takeHead (s : State) (i : HeadIx) (slot : HeadIx) (h : Head) : State :=
  let s' := (s.setHead i (some (h.startOverlay slot))).nextOverlayNumber i
  match h.overlaySlot with
  | none => s'.abandon i
  | some old => if old = slot then s' else s'.bump .overlaysReplaced

/-- The overlay that shows a slot on a head ends (R132, R142). -/
def State.releaseHead (s : State) (slot : HeadIx) (i : HeadIx) : State :=
  match s.head i with
  | some h =>
    if h.overlaySlot = some slot then
      (s.setHead i (some (h.endOverlay s.mgmt.settings.dwell s.entryCount))).abandon i
    else s
  | none => s

/-- A notice slot becomes EMPTY, and the overlays showing it end (R130, R132). -/
def State.emptyNotice (s : State) (slot : HeadIx) : State :=
  ({ s with notices := s.notices.set slot none }).forHeads (fun i s => s.releaseHead slot i)

/-- A notice just put acts on a head (R131, R132). -/
def State.noticeOnHead (slot : HeadIx) (n : Notice) (i : HeadIx) (s : State) : State :=
  match s.head i with
  | some h =>
    if n.priority = .overlay ∧ inMask n.mask i = true then s.takeHead i slot h else s.releaseHead slot i
  | none => s

/-! ### Head Define and Head Drop (R119 to R121) -/

/-- A head, slot or field index below 8. -/
def headIxOf (n : Nat) : Option HeadIx := if h : n < 8 then some ⟨n, h⟩ else none

/-- The values of a Head Define, clamped, and whether a value was changed (R119). -/
structure HeadData where
  width       : Nat
  height      : Nat
  brightness  : Brightness
  overlayFont : Nat
  overlayRow  : Nat
  adjusted    : Bool
  deriving DecidableEq, Repr

/-- The form test of a Head Define: none for MALFORMED (R119). -/
def HeadData.ofPayload (p : List Byte) : Option (HeadIx × HeadData) :=
  if p.length ≠ 8 ∨ 1 < u8 p 4 ∨ 3 < u8 p 6 then none
  else
    match headIxOf (u8 p 0) with
    | none => none
    | some i =>
      let width := clamp 32 256 (u16 p 1 / 8 * 8)
      let height := clamp 8 32 (u8 p 3)
      let level := min (u8 p 5) 15
      let row := min (u8 p 7) 31
      some (i, {
        width := width
        height := height
        brightness := if u8 p 4 = 0 then .auto else .fixed level
        overlayFont := u8 p 6
        overlayRow := row
        adjusted := decide (width ≠ u16 p 1) || decide (height ≠ u8 p 3) ||
          (decide (u8 p 4 = 1) && decide (level ≠ u8 p 5)) || decide (row ≠ u8 p 7) })

/-- A newly DEFINED head (R120); hold remaining starts at 0 (log 26). -/
def HeadData.newHead (d : HeadData) (dwell : Nat) : Head where
  width := d.width
  height := d.height
  brightness := d.brightness
  overlayFont := d.overlayFont
  overlayRow := d.overlayRow
  fields := []
  mode := .pages ⟨0, .dwell, dwell, 0, []⟩
  tickers := []
  overlayTicker := none

/-- The values that every Head Define replaces (R120). -/
def Head.redefined (h : Head) (d : HeadData) : Head :=
  { h with
    width := d.width
    height := d.height
    brightness := d.brightness
    overlayFont := d.overlayFont
    overlayRow := d.overlayRow }

/-- Every ticker context of the head is discarded, saved ones included (R120, R156). -/
def Head.discardAll (dwell n : Nat) (h : Head) : Head :=
  let h' := h.tickers.foldl (fun h t => h.discardTicker dwell n t.1) h
  { h' with
    overlayTicker := none
    mode := match h'.mode with
      | .pages p => .pages p
      | .overlay slot shadow => .overlay slot { shadow with tickers := [] } }

/-- The records' and the Composer's share of a Head Define (R120, R142). -/
def State.defineHead (s : State) (i : HeadIx) (d : HeadData) : State :=
  match s.head i with
  | none => s.setHead i (some (d.newHead s.mgmt.settings.dwell))
  | some h =>
    if h.width = d.width ∧ h.height = d.height then s.setHead i (some (h.redefined d))
    else
      ((s.setHead i (some ((h.redefined d).discardAll s.mgmt.settings.dwell s.entryCount))).abandon i).clearBuffers i

/-- A Head Define (R119, R120, R169). -/
def State.putHead (s : State) (p : List Byte) : State × OutcomeCode :=
  match HeadData.ofPayload p with
  | none => (s, .malformed)
  | some (i, d) => ((s.defineHead i d).headRedefined i, doneOr d.adjusted)

/-- A Head Drop (R121, R142, R169). -/
def State.dropHead (s : State) (p : List Byte) : State × OutcomeCode :=
  if p.length ≠ 1 then (s, .malformed)
  else
    match headIxOf (u8 p 0) with
    | none => (s, .malformed)
    | some i =>
      match s.head i with
      | none => (s, .notFound)
      | some _ => (((((s.setHead i none).abandon i).clearBuffers i).headRedefined i).leaveRound i, .done)

/-! ### Field Put and Field Drop (R123, R124) -/

/-- The values of a Field Put, clamped, and whether a value was changed (R123). -/
structure FieldData where
  head    : HeadIx
  index   : Nat
  record  : FieldRecord
  clamped : Bool
  deriving DecidableEq, Repr

/-- The form test of a Field Put: none for MALFORMED (R123). -/
def FieldData.ofPayload (p : List Byte) : Option FieldData :=
  if p.length < 16 ∨ p.length ≠ 16 + 2 * u8 p 15 ∨ 24 < u8 p 15 ∨ 23 < u8 p 1 ∨ 8 < u8 p 3 ∨ u16 p 6 = 0 ∨
      3 < u8 p 8 ∨ 7 < u8 p 13 then none
  else
    match headIxOf (u8 p 0), FieldKind.ofCode (u8 p 2), Align.ofCode (u8 p 9), FitPolicy.ofCode (u8 p 10),
      itemsAt p 16 (u8 p 15) with
    | some head, some kind, some align, some fit, some text =>
      if kind.isEntry = decide (u8 p 3 = 0) then none
      else
        let y := min (u8 p 5) 31
        let width := min (u16 p 6) 256
        let speed := clamp 1 64 (u8 p 11)
        let spacer := min (u8 p 12) 64
        some {
          head := head
          index := u8 p 1
          record := {
            kind := kind
            slot := u8 p 3
            x := u8 p 4
            y := y
            width := width
            font := u8 p 8
            align := align
            fit := fit
            speed := speed
            spacer := spacer
            noticeSlot := u8 p 13
            text := text
            showSeconds := flagBit (u8 p 14) 0 }
          clamped := decide (y ≠ u8 p 5) || decide (width ≠ u16 p 6) || decide (speed ≠ u8 p 11) ||
            decide (spacer ≠ u8 p 12) }
    | _, _, _, _, _ => none

/-- The status of a field not yet painted (R157). -/
def FieldStatus.notPainted : FieldStatus := ⟨.notPainted, ⟨false, false, false, false⟩, false, false⟩

/-- A ticker context saved in the Shadow is discarded (R123, R124). -/
def Head.discardSaved (i : Nat) (h : Head) : Head :=
  match h.mode with
  | .pages _ => h
  | .overlay slot shadow => { h with mode := .overlay slot { shadow with tickers := keyedErase i shadow.tickers } }

/-- A Field Put (R123): the record changes first, then the discards act (log 32). -/
def State.putField (s : State) (p : List Byte) : State × OutcomeCode :=
  match FieldData.ofPayload p with
  | none => (s, .malformed)
  | some d =>
    match s.head d.head with
    | none => (s, .notFound)
    | some h =>
      (s.setHead d.head (some (Head.discardTicker s.mgmt.settings.dwell s.entryCount d.index (Head.discardSaved d.index
          { h with fields := keyedPut d.index ⟨d.record, .notPainted⟩ h.fields }))),
        doneOr d.clamped)

/-- A Field Drop (R124). -/
def State.dropField (s : State) (p : List Byte) : State × OutcomeCode :=
  if p.length ≠ 2 ∨ 23 < u8 p 1 then (s, .malformed)
  else
    match headIxOf (u8 p 0) with
    | none => (s, .malformed)
    | some i =>
      match s.head i with
      | none => (s, .notFound)
      | some h =>
        match keyedGet (u8 p 1) h.fields with
        | none => (s, .notFound)
        | some _ =>
          (s.setHead i (some (Head.discardTicker s.mgmt.settings.dwell s.entryCount (u8 p 1) (Head.discardSaved (u8 p 1)
            { h with fields := keyedErase (u8 p 1) h.fields }))), .done)

/-! ### Advance, Blank and Unblank (R128, R133) -/

/-- An Advance acts on a head: DEFINED, named, without an overlay. -/
def State.advances (s : State) (mask : Byte) (i : HeadIx) : Bool :=
  inMask mask i &&
    (match s.head i with
      | some h => h.overlaySlot.isNone
      | none => false)

/-- An Advance (R128). -/
def State.advancePages (s : State) (mask : Byte) : State × OutcomeCode :=
  if HeadIx.all.any (s.advances mask) then
    (s.forHeads (fun i t =>
      if s.advances mask i then t.onHead i (Head.advancePage s.mgmt.settings.dwell s.entryCount) else t), .done)
  else (s, .notNow)

/-- The Blank flags of the masked indices set or cleared (R133). -/
def State.setBlank (s : State) (mask : Byte) (on : Bool) : State :=
  { s with heads := s.heads.mapIx (fun i e => if inMask mask i then { e with blank := on } else e) }

/-! ### Notices (R129, R130) -/

/-- A Notice Put without Append that passed its form test. -/
structure NoticeData where
  slot    : HeadIx
  notice  : Notice
  clamped : Bool
  deriving DecidableEq, Repr

/-- The form test of a Notice Put without Append (R129). -/
def NoticeData.ofPayload (p : List Byte) : Option NoticeData :=
  if p.length < 6 ∨ p.length ≠ 6 + 2 * u8 p 5 ∨ u8 p 5 = 0 ∨ 120 < u8 p 5 then none
  else
    match headIxOf (u8 p 0), itemsAt p 6 (u8 p 5) with
    | some slot, some text =>
      let duration := min (u16 p 3) 3600
      some ⟨slot,
        ⟨if flagBit (u8 p 1) 0 then .overlay else .info, p.getD 2 0, if duration = 0 then none else some duration, text⟩,
        decide (duration ≠ u16 p 3)⟩
    | _, _ => none

/-- A Notice Put without Append (R129 to R132). -/
def State.putNotice (s : State) (p : List Byte) : State × OutcomeCode :=
  match NoticeData.ofPayload p with
  | none => (s, .malformed)
  | some d =>
    (({ s with notices := s.notices.set d.slot (some d.notice) }).forHeads (State.noticeOnHead d.slot d.notice),
      doneOr d.clamped)

/-- The form test of a Notice Put with Append (R129). -/
def appendOfPayload (p : List Byte) : Option (HeadIx × List Item) :=
  if p.length < 3 ∨ p.length ≠ 3 + 2 * u8 p 2 then none
  else
    match headIxOf (u8 p 0), itemsAt p 3 (u8 p 2) with
    | some slot, some items => some (slot, items)
    | _, _ => none

/-- A Notice Put with Append (R129, R130). -/
def State.appendNotice (s : State) (p : List Byte) : State × OutcomeCode :=
  match appendOfPayload p with
  | none => (s, .malformed)
  | some (slot, items) =>
    match s.notices.get slot with
    | none => (s, .notFound)
    | some n =>
      if 120 < n.text.length + items.length then (s, .malformed)
      else ({ s with notices := s.notices.set slot (some { n with text := n.text ++ items }) }, .done)

/-- A Notice Put, with or without Append: bit 1 of the flags byte (R198). -/
def State.noticeFrame (s : State) (p : List Byte) : State × OutcomeCode :=
  if flagBit (u8 p 1) 1 then s.appendNotice p else s.putNotice p

/-- A Notice Clear (R130). -/
def State.clearNotice (s : State) (p : List Byte) : State × OutcomeCode :=
  if p.length ≠ 1 then (s, .malformed)
  else
    match headIxOf (u8 p 0) with
    | none => (s, .malformed)
    | some slot =>
      match s.notices.get slot with
      | none => (s, .notFound)
      | some _ => (s.emptyNotice slot, .done)

/-! ### Second events (R126, R127, R130, R134) -/

/-- A head in the phase at the event counts its dwell or its hold. -/
def State.countDwellOf (i : HeadIx) (s : State) : State :=
  s.onHead i (Head.countDwell s.mgmt.settings.dwell s.mgmt.settings.dwellHoldLimit s.entryCount)

/-- A head's hold counted; a timeout is counted (R127, R136). -/
def State.countHoldOf (i : HeadIx) (s : State) : State :=
  match s.head i with
  | some h =>
    let r := h.countHold s.mgmt.settings.dwell s.entryCount
    if r.2 then (s.setHead i (some r.1)).bump .holdTimeouts else s.setHead i (some r.1)
  | none => s

/-- A head's phase at a second event. -/
def State.phaseOf (s : State) (i : HeadIx) : Option Phase :=
  match s.head i with
  | some h =>
    match h.mode with
    | .pages p => some p.phase
    | .overlay _ _ => none
  | none => none

/-- The dwell of every head in DWELL counted. -/
def State.dwellSecond (s : State) : State :=
  s.forHeads (fun i t => if s.phaseOf i = some .dwell then t.countDwellOf i else t)

/-- The hold of every head in HOLD counted. -/
def State.holdSecond (s : State) : State :=
  s.forHeads (fun i t => if s.phaseOf i = some .hold then t.countHoldOf i else t)

/-- The dwell or the hold of every head, by its phase at the event. -/
def State.pageSecond (s : State) : State :=
  s.forHeads (fun i t =>
    if s.phaseOf i = some .dwell then t.countDwellOf i
    else if s.phaseOf i = some .hold then t.countHoldOf i
    else t)

/-- A notice's duration counted; at 0 the slot empties (R130). -/
def State.countNotice (slot : HeadIx) (s : State) : State :=
  match s.notices.get slot with
  | some n =>
    match n.duration with
    | some d =>
      if d ≤ 1 then s.emptyNotice slot
      else { s with notices := s.notices.set slot (some { n with duration := some (d - 1) }) }
    | none => s
  | none => s

/-- The duration of every HELD slot counted. -/
def State.noticeSecond (s : State) : State := s.forHeads State.countNotice

/-- Layout and Page Control's share of a second event: pages, then notices (log 24); paused while frozen (R134). -/
def State.layoutSecond (s : State) : State := if s.mgmt.frozen then s else s.pageSecond.noticeSecond

end Sys2Proof.Machine
end

