-- ==== Sys2Proof/Machine/NameStore.lean ====
section
/-! DEFINITION. The Name Store (05_names_and_phrases): the table, its frames, and expansion. -/

namespace Sys2Proof.Machine

/-! ### The table -/

/-- The entry of a code. -/
def findName (t : List NameEntry) (code : Nat) : Option NameEntry := t.find? (fun e => e.code == code)

/-- An entry put in or replaced, at its place in code order (R82). -/
def putName (e : NameEntry) : List NameEntry → List NameEntry
  | [] => [e]
  | x :: xs =>
    if e.code < x.code then e :: x :: xs
    else if x.code = e.code then e :: xs
    else x :: putName e xs

/-- The form a selector names: the short form for SHORT when there is one, else the full form (R91). -/
def NameEntry.form (e : NameEntry) : Selector → List Item
  | .full => e.full
  | .short => e.short.getD e.full

/-- The three fallback glyphs. -/
def NameEntry.fallbackGlyphs (e : NameEntry) : List Nat := [e.fallback.1, e.fallback.2.1, e.fallback.2.2]

/-! ### Frames (R85 to R88) -/

/-- The form test of R85: none when the Name Put is refused with MALFORMED. -/
def nameOfPayload (p : List Byte) : Option NameEntry :=
  let full := u8 p 2
  let short := u8 p 3
  if p.length < 10 ∨ p.length ≠ 10 + 2 * (full + short) ∨ u16 p 0 = 0 ∨ 4095 < u16 p 0 ∨ full = 0 ∨ 40 < full ∨
      20 < short ∨ 255 < u16 p 4 ∨ 255 < u16 p 6 ∨ 255 < u16 p 8 then none
  else
    match itemsAt p 10 full, itemsAt p (10 + 2 * full) short with
    | some f, some s => some ⟨u16 p 0, f, if short = 0 then none else some s, (u16 p 4, u16 p 6, u16 p 8)⟩
    | _, _ => none

/-- What a Name frame does: the table after it, its outcome, the counters it counts. -/
structure NameResult where
  table  : List NameEntry
  code   : OutcomeCode
  counts : List Ctr
  deriving DecidableEq, Repr

/-- A Name Put (R85, R86). -/
def putNameFrame (t : List NameEntry) (p : List Byte) : NameResult :=
  match nameOfPayload p with
  | none => ⟨t, .malformed, []⟩
  | some e =>
    if (findName t e.code).isSome ∨ t.length < Config.maxNames then ⟨putName e t, .done, []⟩
    else ⟨t, .full, [.nameTableFull]⟩

/-- A Name Drop (R87). -/
def dropNameFrame (t : List NameEntry) (p : List Byte) : NameResult :=
  if p.length ≠ 2 ∨ u16 p 0 = 0 ∨ 4095 < u16 p 0 then ⟨t, .malformed, []⟩
  else if (findName t (u16 p 0)).isSome then ⟨t.filter (fun e => e.code != u16 p 0), .done, []⟩
  else ⟨t, .notFound, []⟩

/-- A Names Clear (R88). -/
def clearNamesFrame (t : List NameEntry) (p : List Byte) : NameResult :=
  if p.length ≠ 0 then ⟨t, .malformed, []⟩ else ⟨[], .done, []⟩

/-! ### Expansion (R90 to R96) -/

/-- An expansion in progress: glyphs emitted in order, the room left, whether the room ran out, the 0xE0 marks and depth
fallbacks among the glyphs, and whether the strict rule has ended the walk of the top-level entry. -/
structure Walk where
  out     : List Nat
  room    : Nat
  cut     : Bool
  missing : Nat
  deep    : Nat
  strict  : Bool
  deriving DecidableEq, Repr

/-- A glyph emitted subject to the room (R95). -/
def Walk.emit (w : Walk) (g : Nat) : Walk :=
  if w.cut then w
  else if w.room = 0 then { w with cut := true }
  else { w with out := w.out ++ [g], room := w.room - 1 }

/-- Glyphs emitted in order. -/
def Walk.emitAll (w : Walk) (gs : List Nat) : Walk := gs.foldl Walk.emit w

/-- The Reference Missing mark emitted; it is counted when it is delivered (R92). -/
def Walk.emitMissing (w : Walk) : Walk := { w.emit 0xE0 with missing := w.missing + (if w.room = 0 then 0 else 1) }

/-- A depth fallback emitted; it is counted when at least one glyph of it is delivered (R93; log 27). -/
def Walk.emitDeep (w : Walk) (e : NameEntry) : Walk :=
  { w.emitAll e.fallbackGlyphs with deep := w.deep + (if w.room = 0 then 0 else 1) }

/-- The walk has stopped: the room ran out (R95) or the strict rule applied (R94). -/
def Walk.stopped (w : Walk) : Bool := w.cut || w.strict

/-- One item taken (R91). `descend` walks a referenced form; it is absent when the stack holds 4 positions. -/
def takeItem (t : List NameEntry) (strict : Bool) (descend : Option (List Item → Walk → Walk)) (w : Walk) (i : Item) : Walk :=
  if w.stopped then w
  else
    match i with
    | .glyph g => w.emit g
    | .ref target form =>
      match findName t target with
      | none => w.emitMissing
      | some e =>
        match descend with
        | some walk => walk (e.form form) w
        | none => if strict then { w with strict := true } else w.emitDeep e

/-- A form walked with room for `depth` more positions on the Expansion Stack (R91). -/
def walkForm (t : List NameEntry) (strict : Bool) : Nat → List Item → Walk → Walk
  | 0, items, w => items.foldl (takeItem t strict none) w
  | depth + 1, items, w => items.foldl (takeItem t strict (some (walkForm t strict depth))) w

/-- The result handed back to the Composer (R90), with the counters counted (R99). -/
structure Expansion where
  glyphs         : List Nat
  shortAvailable : Bool
  absent         : Bool
  missing        : Bool
  deep           : Bool
  replaced       : Bool
  cut            : Bool
  counts         : List (Ctr × Nat)
  deriving DecidableEq, Repr

/-- The start of a walk with some room. -/
def Walk.start (room : Nat) : Walk := ⟨[], room, false, 0, 0, false⟩

/-- A walk delivered, with the number of strict replacements in it. -/
def Walk.deliver (w : Walk) (shortAvailable : Bool) (replaced : Nat) : Expansion where
  glyphs := w.out
  shortAvailable := shortAvailable
  absent := false
  missing := decide (0 < w.missing)
  deep := decide (0 < w.deep)
  replaced := decide (0 < replaced)
  cut := w.cut
  counts := [(.missingReferences, w.missing), (.depthFallbacks, w.deep), (.strictFallbacks, replaced),
    (.textsCut, if w.cut then 1 else 0)]

/-- The decimal digits of a station code, without leading zeros (R96). -/
def codeDigits (n : Nat) : List Nat :=
  if n < 10 then [0x30 + n]
  else if n < 100 then [0x30 + n / 10, 0x30 + n % 10]
  else if n < 1000 then [0x30 + n / 100, 0x30 + n / 10 % 10, 0x30 + n % 10]
  else [0x30 + n / 1000, 0x30 + n / 100 % 10, 0x30 + n / 10 % 10, 0x30 + n % 10]

/-- A name request whose code is not held (R96). -/
def expandAbsent (code room : Nat) : Expansion :=
  let phrase := decide (4080 ≤ code)
  let w := (Walk.start room).emitAll (if phrase then [0xE0] else codeDigits code)
  { glyphs := w.out
    shortAvailable := false
    absent := true
    missing := phrase && decide (0 < room)
    deep := false
    replaced := false
    cut := w.cut
    counts := [(.missingNames, 1), (.textsCut, if w.cut then 1 else 0)] }

/-- A name request (R90, R94). -/
def expandName (t : List NameEntry) (strict : Bool) (mode : Selector) (room code : Nat) : Expansion :=
  match findName t code with
  | none => expandAbsent code room
  | some e =>
    let w := walkForm t strict Config.stackDepth (e.form mode) (Walk.start room)
    if w.strict then ((Walk.start room).emitAll e.fallbackGlyphs).deliver e.short.isSome 1
    else w.deliver e.short.isSome 0

/-- One item of a free string taken: the walk and the number of strict replacements so far (R94). -/
def takeFree (t : List NameEntry) (strict : Bool) (a : Walk × Nat) (i : Item) : Walk × Nat :=
  match i with
  | .glyph _ => (takeItem t strict none a.1 i, a.2)
  | .ref target _ =>
    let w := takeItem t strict (some (walkForm t strict (Config.stackDepth - 1))) a.1 i
    if w.strict then
      match findName t target with
      | some e => (a.1.emitAll e.fallbackGlyphs, a.2 + 1)
      | none => (a.1, a.2)
    else (w, a.2)

/-- A free string (R90, R94). -/
def expandFree (t : List NameEntry) (strict : Bool) (room : Nat) (items : List Item) : Expansion :=
  let r := items.foldl (takeFree t strict) (Walk.start room, 0)
  r.1.deliver false r.2

/-! ### Reading names back (R97, R98) -/

/-- The content of a name reply (R200). -/
def nameContent (e : NameEntry) : List Byte :=
  b16 e.code ++ [b8 e.full.length, b8 (e.short.getD []).length] ++ e.fallbackGlyphs.flatMap b16 ++ itemBytes e.full ++
    itemBytes (e.short.getD [])

/-- The entry with the smallest code greater than a code, or the first entry for no code. -/
def nameAfter (t : List NameEntry) (code : Option Nat) : Option NameEntry :=
  t.find? (fun e => match code with
    | none => true
    | some c => decide (c < e.code))

end Sys2Proof.Machine
end

