-- ==== Sys2Proof/Machine/ReadBack.lean ====
section
/-! DEFINITION. Read Back and Read Next (10_management R190) over the eight tables, with their contents (11_formats R200, R201;
R43, R44, R63, R64, R97, R98, R114, R115, R135). A byte of a reply is absent where the manual gives no value (log 19). -/

namespace Sys2Proof.Machine

/-- Bytes that all have a value. -/
def given (l : List Byte) : List (Option Byte) := l.map some

/-- Absent bytes filled with free bytes, in order (log 6). -/
def State.fill (s : State) : List (Option Byte) → List Byte × State
  | [] => ([], s)
  | some b :: rest =>
    let r := s.fill rest
    (b :: r.1, r.2)
  | none :: rest =>
    let r := s.takeFreeByte.2.fill rest
    (s.takeFreeByte.1 :: r.1, r.2)

/-! ### Contents -/

/-- The page state a head reply gives: the live one, or the saved one under an overlay (R200). -/
def HeadMode.pageState : HeadMode → PageState
  | .pages p => p
  | .overlay _ shadow => shadow.page

/-- A set of field indices in three bytes, bit i for field i. -/
def holdSetBytes (l : List Nat) : List Byte :=
  let v := (l.map (fun i => 2 ^ i)).sum
  [b8 (v / 65536), b8 (v / 256), b8 v]

/-- The content of a head reply (R200). The fixed level of an AUTO head and the overlay slot of a head without an overlay have
no value. -/
def headContent (i : HeadIx) (e : HeadEntry) (h : Head) : List (Option Byte) :=
  let p := h.mode.pageState
  given ([b8 i.val, flagByte [h.overlaySlot.isSome, h.overlaySlot.isSome, e.blank]] ++ b16 h.width ++ [b8 h.height]) ++
    (match h.brightness with
      | .auto => [some 0, none]
      | .fixed l => [some 1, some (b8 l)]) ++
    given [b8 h.overlayFont, b8 h.overlayRow] ++
    [h.overlaySlot.map (fun x => b8 x.val)] ++
    given ([b8 e.overlayNumber, b8 p.page, (match p.phase with
        | .dwell => 0
        | .hold => 1), b8 p.dwell, b8 p.hold] ++ holdSetBytes p.holdSet ++ [b8 h.fields.length])

/-- The content of a field reply: the Field Put layout, then the status (R200). -/
def fieldContent (i : HeadIx) (idx : Nat) (f : FieldSlot) : List Byte :=
  let r := f.record
  let m := f.status.marks
  [b8 i.val, b8 idx, b8 r.kind.code, b8 r.slot, b8 r.x, b8 r.y] ++ b16 r.width ++
    [b8 r.font, b8 r.align.code, b8 r.fit.code, b8 r.speed, b8 r.spacer, b8 r.noticeSlot, flagByte [r.showSeconds],
      b8 r.text.length] ++ itemBytes r.text ++
    [b8 f.status.result.code,
      flagByte [m.cut, m.missing, m.deep, m.replaced, f.status.standIn, f.status.offHead]]

/-- The content of a notice reply for a part of the text (R200, R201). -/
def noticeContent (slot : HeadIx) (n : Notice) (part : Nat) : List Byte :=
  let items := (n.text.drop (115 * part)).take 115
  [b8 slot.val, (match n.priority with
      | .info => 0
      | .overlay => 1), n.mask] ++ optBytes n.duration ++ [b8 n.text.length, b8 part, b8 items.length] ++ itemBytes items

/-! ### Items in key order -/

/-- A key with its reply content. -/
abbrev ReadItem := (Nat × Nat) × List (Option Byte)

/-- The first item whose key is greater than a key, or the first item (R44 and the like), of a list in key order. -/
def itemAbove {α : Type} (key : Option (Nat × Nat)) (l : List ((Nat × Nat) × α)) : Option ((Nat × Nat) × α) :=
  l.find? (fun p => match key with
    | none => true
    | some k => keyLt k p.1)

/-- The DEFINED heads, in key order. -/
def State.headItems (s : State) : List ((Nat × Nat) × (HeadIx × Head)) :=
  HeadIx.all.filterMap (fun i => (s.head i).map (fun h => ((i.val, 0), (i, h))))

/-- The field records of DEFINED heads, in key order. -/
def State.fieldItems (s : State) : List ((Nat × Nat) × (HeadIx × FieldSlot)) :=
  HeadIx.all.flatMap (fun i => match s.head i with
    | some h => h.fields.map (fun f => ((i.val, f.1), (i, f.2)))
    | none => [])

/-- The HELD notice slots, in key order. -/
def State.noticeItems (s : State) : List ((Nat × Nat) × (HeadIx × Notice)) :=
  HeadIx.all.filterMap (fun i => (s.notices.get i).map (fun n => ((i.val, 0), (i, n))))

/-- The item of a departure. -/
def State.departureItem (s : State) (e : Entry) : ReadItem :=
  (e.key s.mgmt.settings.dayStart, given (departureContent s.board.table e))

/-- The item of a head. -/
def State.headItem (s : State) (x : HeadIx × Head) : ReadItem := ((x.1.val, 0), headContent x.1 (s.heads.get x.1) x.2)

/-- The item with the smallest key greater than a key, or the first item for no key. -/
def State.itemAfter (s : State) (t : ReadTable) (key : Option (Nat × Nat)) : Option ReadItem :=
  match t with
  | .departure => (entryAfter s.mgmt.settings.dayStart s.board.table key).map s.departureItem
  | .callingList => (partAfter s.board.table key).map (fun x => ((x.1.id, x.2), given (callingContent x.1 x.2)))
  | .name => (nameAfter s.names.table (key.map Prod.fst)).map (fun e => ((e.code, 0), given (nameContent e)))
  | .font =>
    let id := match key with
      | none => 0
      | some k => k.1 + 1
    if id ≤ 4 then some ((id, 0), given (fontContent s.fonts id)) else none
  | .glyph => (itemAbove key s.fonts.allCells).map (fun p => (p.1, given (glyphContent s.fonts p.1.1 p.1.2 p.2)))
  | .head => (itemAbove key s.headItems).map (fun p => s.headItem p.2)
  | .field => (itemAbove key s.fieldItems).map (fun p => (p.1, given (fieldContent p.2.1 p.1.2 p.2.2)))
  | .notice => (itemAbove key s.noticeItems).map (fun p => (p.1, given (noticeContent p.2.1 p.2.2 0)))

/-- The item a key names. -/
def State.itemAt (s : State) (t : ReadTable) (k1 k2 k3 : Nat) : Option ReadItem :=
  match t with
  | .departure => (findEntry s.board.table (k1 * 256 + k2)).map s.departureItem
  | .callingList =>
    match findEntry s.board.table (k1 * 256 + k2) with
    | some e => if e.hasPart k3 then some ((e.id, k3), given (callingContent e k3)) else none
    | none => none
  | .name => (findName s.names.table (k1 * 256 + k2)).map (fun e => ((e.code, 0), given (nameContent e)))
  | .font => some ((k1, 0), given (fontContent s.fonts k1))
  | .glyph => (keyedGet k2 (s.fonts.get k1).cells).map (fun c => ((k1, k2), given (glyphContent s.fonts k1 k2 c)))
  | .head =>
    match headIxOf k1 with
    | some i => (s.head i).map (fun h => s.headItem (i, h))
    | none => none
  | .field =>
    match headIxOf k1 with
    | some i =>
      match s.head i with
      | some h => (keyedGet k2 h.fields).map (fun f => ((k1, k2), given (fieldContent i k2 f)))
      | none => none
    | none => none
  | .notice =>
    match headIxOf k1 with
    | some i =>
      match s.notices.get i with
      | some n =>
        if k3 = 0 ∨ 115 < n.text.length then some ((k1, 0), given (noticeContent i n k3)) else none
      | none => none
    | none => none

/-- A Read Back key that is refused with MALFORMED (R63, R97, R114, R115, R135, R201; log 37). -/
def badKey (t : ReadTable) (k1 k2 k3 : Nat) : Bool :=
  match t with
  | .departure => false
  | .callingList => decide (7 < k3)
  | .name => decide (4095 < k1 * 256 + k2)
  | .font => decide (4 < k1)
  | .glyph => decide (k1 ≠ 255) && (decide (4 < k1) || !codeBelongs k1 k2)
  | .head => decide (k1 ≠ 255) && decide (7 < k1)
  | .field => (decide (k1 ≠ 255) && decide (7 < k1)) || decide (23 < k2)
  | .notice => (decide (k1 ≠ 255) && decide (7 < k1)) || decide (1 < k3)

/-- A Read Back key that names the head of its table (R43, R63, R97, R115, R135). -/
def headOfTable (t : ReadTable) (k1 k2 : Nat) : Bool :=
  match t with
  | .departure | .callingList | .name => decide (k1 * 256 + k2 = 0)
  | .font => false
  | .glyph | .head | .field | .notice => decide (k1 = 255)

/-! ### The requests -/

/-- What a read answers: its outcome, the table byte (absent where it has no value), the content, and the new pointer. -/
structure ReadAnswer where
  code    : OutcomeCode
  table   : Option Byte
  content : List (Option Byte)
  pointer : ReadPtr
  deriving DecidableEq, Repr

/-- An item returned, with the pointer set to its key. -/
def ReadAnswer.found (t : ReadTable) (i : ReadItem) : ReadAnswer := ⟨.done, some (b8 t.code), i.2, .pos t (some i.1)⟩

/-- A Read Back (R190). The table byte of one of wrong length, and of one that names none of the eight tables, is free (log 19). -/
def State.readBack (s : State) (p : List Byte) : ReadAnswer :=
  if p.length ≠ 4 then ⟨.malformed, none, [], s.mgmt.readPtr⟩
  else
    match ReadTable.ofCode (u8 p 0) with
    | none => ⟨.malformed, none, [], s.mgmt.readPtr⟩
    | some t =>
      if badKey t (u8 p 1) (u8 p 2) (u8 p 3) then ⟨.malformed, some (b8 t.code), [], s.mgmt.readPtr⟩
      else if headOfTable t (u8 p 1) (u8 p 2) then
        match s.itemAfter t none with
        | some i => .found t i
        | none => ⟨.notFound, some (b8 t.code), [], .pos t none⟩
      else
        match s.itemAt t (u8 p 1) (u8 p 2) (u8 p 3) with
        | some i => .found t i
        | none => ⟨.notFound, some (b8 t.code), [], s.mgmt.readPtr⟩

/-- A Read Next (R190). The table byte of one of wrong length is free (log 19). -/
def State.readNext (s : State) (p : List Byte) : ReadAnswer :=
  if p.length ≠ 0 then ⟨.malformed, none, [], s.mgmt.readPtr⟩
  else
    match s.mgmt.readPtr with
    | .none => ⟨.notNow, some 0, [], .none⟩
    | .pos t key =>
      match s.itemAfter t key with
      | some i => .found t i
      | none => ⟨.notFound, some (b8 t.code), [], s.mgmt.readPtr⟩

/-- The payload of a Read reply, and the state with the pointer moved (R200). -/
def State.answerRead (s : State) (a : ReadAnswer) : List Byte × State :=
  ({ s with mgmt := { s.mgmt with readPtr := a.pointer } }).fill ([some (b8 a.code.code), a.table] ++ a.content)

end Sys2Proof.Machine
end

