-- ==== Sys2Proof/Machine/Time.lean ====
section
/-! DEFINITION. The Station Clock (04_time) by itself: advances, the pulse schedule, Time Set and the texts of times. -/

namespace Sys2Proof.Machine

/-- The minute of day of the clock value (R77). -/
def Clock.now (c : Clock) : Nat := c.hours * 60 + c.minutes

/-- One advance (R68). -/
def Clock.advance (c : Clock) : Clock :=
  if c.seconds < 59 then { c with seconds := c.seconds + 1 }
  else if c.minutes < 59 then { c with seconds := 0, minutes := c.minutes + 1 }
  else if c.hours < 23 then { c with seconds := 0, minutes := 0, hours := c.hours + 1 }
  else { c with seconds := 0, minutes := 0, hours := 0 }

/-- The advance is also a minute event: the seconds pass from 59 to 0 (R68). -/
def Clock.minuteDue (c : Clock) : Bool := decide (59 ≤ c.seconds)

/-- The nearest scheduled instant of an edge, the later one for an edge exactly halfway (R72). -/
def Clock.nearestInstant (c : Clock) (micros : Nat) : Nat := (micros - c.lastEdge + 500000) / 1000000

/-- A rising edge on SECP becomes the last accepted edge; a loss ends (R70, R72). -/
def Clock.acceptEdge (c : Clock) (micros : Nat) : Clock := { c with lost := false, lastEdge := micros, counted := 0 }

/-- The edge takes an advance: always while SYNCED, and while LOST when its nearest instant is not yet counted (R70, R72). -/
def Clock.edgeAdvances (c : Clock) (micros : Nat) : Bool := !c.lost || decide (c.counted < c.nearestInstant micros)

/-- The form test of a Time Set (R73): hours, minutes and seconds. -/
def timeOf (p : List Byte) : Option (Nat × Nat × Nat) :=
  if p.length = 3 ∧ u8 p 0 ≤ 23 ∧ u8 p 1 ≤ 59 ∧ u8 p 2 ≤ 59 then some (u8 p 0, u8 p 1, u8 p 2) else none

/-- The clock after a Time Set (R73). -/
def Clock.setTo (c : Clock) (h m s : Nat) : Clock := { c with hours := h, minutes := m, seconds := s, valid := true }

/-- A Time Set issues a minute event (R73). -/
def Clock.setIssuesMinute (c : Clock) (h m : Nat) : Bool := !c.valid || decide (c.hours ≠ h) || decide (c.minutes ≠ m)

/-! ### Texts (R76, R79) -/

/-- The glyph of a digit. -/
def digitGlyph (d : Nat) : Nat := 0x30 + d

/-- Tens and units. -/
def twoDigits (n : Nat) : List Nat := [digitGlyph (n / 10 % 10), digitGlyph (n % 10)]

/-- A minute of day written HH:MM (R76). -/
def hhmm (m : Nat) : List Nat := twoDigits (m / 60) ++ [0x3A] ++ twoDigits (m % 60)

/-- A clock value written HH:MM:SS (R76). -/
def hhmmss (h m s : Nat) : List Nat := twoDigits h ++ [0x3A] ++ twoDigits m ++ [0x3A] ++ twoDigits s

/-- The text of an invalid clock, "--:--" (R78, R79). -/
def unknownTime : List Nat := [0x2D, 0x2D, 0x3A, 0x2D, 0x2D]

/-- A number below 1000 in decimal without leading zero. -/
def decimalDigits (n : Nat) : List Nat :=
  if n < 10 then [digitGlyph n]
  else if n < 100 then [digitGlyph (n / 10), digitGlyph (n % 10)]
  else [digitGlyph (n / 100 % 10), digitGlyph (n / 10 % 10), digitGlyph (n % 10)]

end Sys2Proof.Machine
end

