-- ==== Sys2Proof/Machine/Texts.lean ====
section
/-! DEFINITION. Field texts (08_composition_and_fitting section 8.2): their pieces, and building them. -/

namespace Sys2Proof.Machine

/-! ### Building a text (R143) -/

/-- A piece of a field text. -/
inductive Piece where
  | glyphs (codes : List Nat)
  | name (code : Nat)
  | free (items : List Item)
  deriving DecidableEq, Repr

/-- A text being built: its glyphs, the room left, its marks, whether a name request returned Short available, and the
counters that its expansions count. -/
structure Text where
  glyphs  : List Nat
  room    : Nat
  marks   : Marks
  short   : Bool
  tallies : List (Ctr × Nat)
  deriving DecidableEq, Repr

/-- A text with nothing in it yet. -/
def Text.start (room : Nat) : Text := ⟨[], room, ⟨false, false, false, false⟩, false, []⟩

/-- A glyph the Composer writes itself; once Cut is set building has stopped. -/
def Text.addGlyph (t : Text) (g : Nat) : Text :=
  if t.marks.cut then t
  else if t.room = 0 then { t with marks := { t.marks with cut := true } }
  else { t with glyphs := t.glyphs ++ [g], room := t.room - 1 }

/-- An expansion delivered. -/
def Text.addExpansion (t : Text) (e : Expansion) : Text where
  glyphs := t.glyphs ++ e.glyphs
  room := t.room - e.glyphs.length
  marks := ⟨t.marks.cut || e.cut, t.marks.missing || e.missing, t.marks.deep || e.deep, t.marks.replaced || e.replaced⟩
  short := t.short || e.shortAvailable
  tallies := t.tallies ++ e.counts

/-- A piece added, unless building has stopped. -/
def Text.addPiece (names : List NameEntry) (strict : Bool) (mode : Selector) (t : Text) (p : Piece) : Text :=
  if t.marks.cut then t
  else
    match p with
    | .glyphs gs => gs.foldl Text.addGlyph t
    | .name c => t.addExpansion (expandName names strict mode t.room c)
    | .free items => t.addExpansion (expandFree names strict t.room items)

/-- A text built from its pieces. -/
def buildText (names : List NameEntry) (strict : Bool) (mode : Selector) (limit : Nat) (pieces : List Piece) : Text :=
  pieces.foldl (Text.addPiece names strict mode) (Text.start limit)

/-! ### The pieces of an entry kind (R144, R145, R78) -/

/-- A space. -/
def space : Piece := .glyphs [0x20]

/-- Platform digits, then the suffix letter if any (R143). -/
def platformGlyphs (p : Platform) : List Nat :=
  decimalDigits p.number ++ (match p.suffix with
    | .none => []
    | .a => [0x41]
    | .b => [0x42]
    | .c => [0x43]
    | .d => [0x44])

/-- The minute of day of a snapshot's clock (R77). -/
def Snapshot.now (s : Snapshot) : Nat := s.hours * 60 + s.minutes

/-- The Due text (R78). -/
def duePieces (s : Snapshot) (effective : Nat) : List Piece :=
  if s.valid then
    let d := signedDiff s.now effective
    if d ≤ 0 then [.name 4091]
    else if d = 1 then [.glyphs [0x31], space, .name 4089]
    else if d ≤ 99 then [.glyphs (decimalDigits d.toNat), space, .name 4090]
    else [.glyphs (hhmm effective)]
  else [.glyphs unknownTime]

/-- The STATUS pieces (R144). -/
def statusPieces (e : Entry) : List Piece :=
  if e.moved then [.name 4085, space, .glyphs (platformGlyphs e.platform)]
  else
    match e.status with
    | .scheduled => [.name 4080]
    | .expected => [.name 4084, space, .glyphs ((e.expected.map hhmm).getD [])]
    | .delayed => [.name 4081]
    | .cancelled => [.name 4082]
    | .departed => [.name 4083]

/-- The name of a stop, with its mark (R145). -/
def stopPieces (s : Stop) : List Piece :=
  [.name s.station] ++ (match s.kind with
    | .request => [.glyphs [0xE4]]
    | .split => [.glyphs [0xE5]]
    | .normal | .cancelled => [])

/-- The names of S2 to Sm with their separators (R145, items 3 and 4). -/
def laterStops : List Stop → List Piece
  | [] => []
  | [s] => [space, .name 4087, space] ++ stopPieces s
  | s :: rest => .name 4094 :: stopPieces s ++ laterStops rest

/-- The CALLING pieces (R145). -/
def callingPieces (c : RowCopy) : List Piece :=
  match c.stops with
  | none => []
  | some stops =>
    if c.entry.status = .cancelled then []
    else
      match stops.filter (fun s => decide (s.kind ≠ .cancelled)) with
      | [] => []
      | s1 :: rest =>
        [.name 4086, space] ++ stopPieces s1 ++ laterStops rest ++
          (if c.entry.truncated then [space, .name 4093] else []) ++ [.name 4095]

/-- The pieces of an entry kind for the entry in its slot (R144). -/
def entryPieces (s : Snapshot) (c : RowCopy) : FieldKind → List Piece
  | .destination => [.name c.entry.dest]
  | .via => if c.entry.via = 0 then [] else [.name 4088, space, .name c.entry.via]
  | .scheduled => [.glyphs (hhmm c.entry.sched)]
  | .status => statusPieces c.entry
  | .due => if c.entry.status = .cancelled ∨ c.entry.status = .departed then [] else duePieces s c.entry.effective
  | .platform => [.glyphs (platformGlyphs c.entry.platform)]
  | .cars => if c.entry.cars = 0 then [] else [.glyphs (decimalDigits c.entry.cars), space, .name 4092]
  | .calling => callingPieces c
  | .clock | .notice | .static => []

/-- The copy in a slot of a snapshot; a slot above k is empty (R125). -/
def Snapshot.row (s : Snapshot) (slot : Nat) : Option RowCopy :=
  match s.rows with
  | .overlay _ _ => none
  | .slots _ rows => (rows[slot - 1]?).join

/-- The CLOCK text (R79, R146). -/
def clockGlyphs (s : Snapshot) (seconds : Bool) : List Nat :=
  match s.valid, seconds with
  | true, true => hhmmss s.hours s.minutes s.seconds
  | true, false => hhmm s.now
  | false, true => unknownTime ++ [0x3A, 0x2D, 0x2D]
  | false, false => unknownTime

/-- The items a NOTICE field shows on a head: its slot HELD, INFO, and naming the head (R130, R146). -/
def noticeItems (n : Option Notice) (i : HeadIx) : List Item :=
  match n with
  | some n => if n.priority = .info ∧ inMask n.mask i = true then n.text else []
  | none => []

/-- A free string piece; an empty string gives no piece. -/
def freePiece (items : List Item) : List Piece := if items = [] then [] else [.free items]

/-- The pieces of a field's text (R144 to R146). -/
def fieldPieces (notices : Bank8 (Option Notice)) (i : HeadIx) (s : Snapshot) (r : FieldRecord) : List Piece :=
  match r.kind with
  | .clock => [.glyphs (clockGlyphs s r.showSeconds)]
  | .notice => freePiece (noticeItems (notices.get (Fin.ofNat 8 r.noticeSlot)) i)
  | .static => freePiece r.text
  | .destination | .via | .scheduled | .status | .due | .platform | .cars | .calling =>
    match s.row r.slot with
    | some c => entryPieces s c r.kind
    | none => []

/-- A field that scrolls when its text does not fit (R147). -/
def FieldRecord.scrolls (r : FieldRecord) : Bool := decide (r.kind = .calling) || decide (r.fit = .scroll)

/-- The output limit of a field (R143). -/
def FieldRecord.limit (r : FieldRecord) : Nat := if r.scrolls then 640 else 96

end Sys2Proof.Machine
end

