-- ==== Sys2Proof/Machine/Painting.lean ====
section
/-! DEFINITION. The fit ladder, truncation, tickers and drawing (08_composition_and_fitting sections 8.3 and 8.4). -/

namespace Sys2Proof.Machine

/-! ### Measuring and fitting (R147 to R149) -/

/-- The advances of a text in a font (R108). -/
def advances (f : Fonts) (font : Nat) (codes : List Nat) : List Nat := codes.map (f.advance font)

/-- The width of a text at a gap (R147). -/
def widthAt (f : Fonts) (font gap : Nat) (codes : List Nat) : Nat :=
  (advances f font codes).sum + (codes.length - 1) * gap

/-- What a field draws: nothing, a text from an offset at a gap, or a ticker's text at the nominal gap with its loop length
and offset. -/
inductive Drawing where
  | nothing
  | text (codes : List Nat) (gap x0 : Nat)
  | ticker (codes : List Nat) (loop offset : Nat)
  deriving DecidableEq, Repr

/-- The choice made for a field: what is drawn, its result and marks. -/
structure Choice where
  drawing : Drawing
  result  : FieldResult
  marks   : Marks
  deriving DecidableEq, Repr

/-- The offset of a text that fits (R150). -/
def alignOffset (a : Align) (width w : Nat) : Nat :=
  match a with
  | .left => 0
  | .right => width - w
  | .centre => (width - w) / 2

/-- A text drawn at a step of the ladder. -/
def drawStep (r : FieldRecord) (t : Text) (gap w : Nat) (result : FieldResult) : Choice :=
  ⟨.text t.glyphs gap (alignOffset r.align r.width w), result, t.marks⟩

/-- Steps 3 and 4 of the ladder on the short text (R147). -/
def fitShort (f : Fonts) (r : FieldRecord) (short : Text) : Option Choice :=
  let gn := (f.get r.font).nominalGap
  let gm := (f.get r.font).minGap
  if short.glyphs = [] then some ⟨.nothing, .empty, short.marks⟩
  else if widthAt f r.font gn short.glyphs ≤ r.width then
    some (drawStep r short gn (widthAt f r.font gn short.glyphs) .fitShort)
  else if widthAt f r.font gm short.glyphs ≤ r.width then
    some (drawStep r short gm (widthAt f r.font gm short.glyphs) .fitShortCondensed)
  else none

/-- The ladder (R147): the choice when a step fits, and the counters of the short text when it is built. -/
def ladder (f : Fonts) (r : FieldRecord) (full short : Text) : Option Choice × List (Ctr × Nat) :=
  let gn := (f.get r.font).nominalGap
  let gm := (f.get r.font).minGap
  if full.glyphs = [] then (some ⟨.nothing, .empty, full.marks⟩, [])
  else if widthAt f r.font gn full.glyphs ≤ r.width then
    (some (drawStep r full gn (widthAt f r.font gn full.glyphs) .fitFull), [])
  else if widthAt f r.font gm full.glyphs ≤ r.width then
    (some (drawStep r full gm (widthAt f r.font gm full.glyphs) .fitCondensed), [])
  else if full.short then (fitShort f r short, short.tallies)
  else (none, [])

/-- t(k), the truncated width of a prefix (R148). -/
def truncatedWidth (f : Fonts) (font gap e k : Nat) (codes : List Nat) : Nat :=
  (advances f font (codes.take k)).sum + k * gap + e

/-- The largest k below n whose truncated width is at most W (R148). -/
def prefixLength (f : Fonts) (font gap e width : Nat) (codes : List Nat) : Nat :=
  (List.range codes.length).foldl (fun best k => if truncatedWidth f font gap e k codes ≤ width then k else best) 0

/-- Trailing spaces dropped (R148). -/
def dropSpaces (codes : List Nat) : List Nat := (codes.reverse.dropWhile (fun g => g == 0x20)).reverse

/-- Truncation with an ellipsis, or clipping (R148, R149). -/
def truncateText (f : Fonts) (r : FieldRecord) (full : Text) : Choice :=
  let gm := (f.get r.font).minGap
  let e := f.advance r.font 0xE1
  if f.ellipsisLoaded = false ∨ r.width < e then ⟨.text full.glyphs gm 0, .clipped, full.marks⟩
  else
    ⟨.text (dropSpaces (full.glyphs.take (prefixLength f r.font gm e r.width full.glyphs)) ++ [0xE1]) gm 0,
      .truncated, full.marks⟩

/-! ### Tickers (R151 to R153) -/

/-- A new context on a text (R151). -/
def Ticker.create (bound : Option Nat) (t : Text) (loop : Nat) : Ticker := ⟨bound, t.glyphs, t.marks, loop, 0, false⟩

/-- A context whose text was measured again: pending when text or loop length differ, withdrawn otherwise (R152, step 4). -/
def Ticker.remeasured (k : Ticker) (t : Text) (loop : Nat) : Ticker :=
  { k with pending := !(decide (t.glyphs = k.text) && decide (loop = k.loop)) }

/-- The drawing of a context (R154). -/
def Ticker.choice (k : Ticker) : Choice := ⟨.ticker k.text k.loop (k.pos / 16), .scrolling, k.marks⟩

/-- The advance of a context by v: the context after it, none when it ends, and whether it wrapped (R153). -/
def Ticker.advance (k : Ticker) (v : Nat) : Option Ticker × Bool :=
  if k.pos + v < 16 * k.loop then (some { k with pos := k.pos + v }, false)
  else if k.pending then (none, true)
  else (some { k with pos := (k.pos + v) % (16 * k.loop) }, true)

/-- What a painting does to the field's context. -/
inductive TickerChange where
  | keep
  | discard
  | update (k : Ticker)
  | restart (k : Ticker)
  deriving DecidableEq, Repr

/-- A field's painting as chosen: what is drawn, what becomes of the context, and the counters counted. -/
structure FieldPlan where
  choice  : Choice
  ticker  : TickerChange
  tallies : List (Ctr × Nat)
  deriving DecidableEq, Repr

/-- A field that does not scroll (R147 to R149). -/
def planStatic (f : Fonts) (r : FieldRecord) (full short : Text) : FieldPlan :=
  let l := ladder f r full short
  match l.1 with
  | some c => ⟨c, .keep, full.tallies ++ l.2⟩
  | none => ⟨truncateText f r full, .keep, full.tallies ++ l.2⟩

/-- A scrolling field without a context that stands: static when a step fits, otherwise a new context (R152, step 5).
`held` says that a context was discarded on the way. -/
def planFresh (f : Fonts) (r : FieldRecord) (bound : Option Nat) (full short : Text) (held : Bool) : FieldPlan :=
  let l := ladder f r full short
  match l.1 with
  | some c => ⟨c, if held then .discard else .keep, full.tallies ++ l.2⟩
  | none =>
    let k := Ticker.create bound full (widthAt f r.font (f.get r.font).nominalGap full.glyphs + r.spacer)
    ⟨k.choice, .restart k, full.tallies ++ l.2⟩

/-- A scrolling field (R152). -/
def planScroll (f : Fonts) (r : FieldRecord) (bound : Option Nat) (held : Option Ticker) (full short : Text) : FieldPlan :=
  if full.glyphs = [] then ⟨⟨.nothing, .empty, full.marks⟩, .discard, full.tallies⟩
  else
    match held with
    | none => planFresh f r bound full short false
    | some k =>
      if k.bound = bound then
        let k' := k.remeasured full (widthAt f r.font (f.get r.font).nominalGap full.glyphs + r.spacer)
        ⟨k'.choice, .update k', full.tallies⟩
      else planFresh f r bound full short true

/-! ### Drawing (R112, R150, R154) -/

/-- Where lit pixels may land: columns x0..x1−1, rows y0..y1−1 of the head, and the band of so many rows from y0. -/
structure Clip where
  x0   : Nat
  x1   : Nat
  y0   : Nat
  y1   : Nat
  band : Nat
  deriving DecidableEq, Repr

/-- The rectangle of a field, within its head (R150). -/
def Clip.ofRect (x y width height headWidth headHeight : Nat) : Clip :=
  ⟨x, min (x + width) headWidth, y, min (y + height) headHeight, height⟩

/-- The rectangle set dark. -/
def Clip.clear (c : Clip) (px : Pixels) : Pixels := px &&& ~~~ rectMask c.x0 c.x1 c.y0 c.y1

/-- A lit pixel painted at column x and row y, when it lies inside. -/
def Clip.light (c : Clip) (px : Pixels) (x y : Int) : Pixels :=
  if (c.x0 : Int) ≤ x ∧ x < c.x1 ∧ (c.y0 : Int) ≤ y ∧ y < c.y1 then
    px ||| (1#8192 <<< (256 * y.toNat + x.toNat))
  else px

/-- A row of a glyph painted from column x. -/
def Clip.paintRow (c : Clip) (y : Int) : Int → Pixels → List Bool → Pixels
  | _, px, [] => px
  | x, px, lit :: rest => c.paintRow y (x + 1) (if lit then c.light px x y else px) rest

/-- The rows of a glyph painted from a band row: rows outside the band are clipped (R112). -/
def Clip.paintRows (c : Clip) (x : Int) : Int → Pixels → List (List Bool) → Pixels
  | _, px, [] => px
  | b, px, row :: rest =>
    c.paintRows x (b + 1) (if 0 ≤ b ∧ b < (c.band : Int) then c.paintRow (c.y0 + b) x px row else px) rest

/-- Glyphs painted one after another from column x at a gap (R150). -/
def Clip.paintText (c : Clip) (f : Fonts) (font gap : Nat) : Int → Pixels → List Nat → Pixels
  | _, px, [] => px
  | x, px, code :: rest =>
    let g := f.fetch font code
    c.paintText f font gap (x + g.advance + gap) (c.paintRows x g.top px g.rows) rest

/-- The copies of a ticker's text (R154): copy j starts at W − o + j L, for every integer j whose copy meets the field; the last
of them is j = o / L, and the ones before it follow. At p = 0 the copy of j = -1 is among them when the spacer is narrower than the
field, where the worked figure of R154 shows none: the rule is followed (log 36). -/
def tickerStarts (width w loop offset : Nat) : List Int :=
  (List.range ((width + w) / loop + 1)).map (fun i => (width : Int) - offset + ((offset / loop : Nat) - (i : Int)) * loop)

/-- What a field draws, painted with its band's width (R150, R154). -/
def Clip.draw (c : Clip) (f : Fonts) (font width : Nat) (px : Pixels) : Drawing → Pixels
  | .nothing => px
  | .text codes gap x0 => c.paintText f font gap (c.x0 + x0) px codes
  | .ticker codes loop offset =>
    let gn := (f.get font).nominalGap
    (tickerStarts width (widthAt f font gn codes) loop offset).foldl
      (fun px x => c.paintText f font gn (c.x0 + x) px codes) px

/-- The glyphs a drawing fetches, each once (R111, R154). -/
def Drawing.fetched : Drawing → List Nat
  | .nothing => []
  | .text codes _ _ => codes
  | .ticker codes _ _ => codes

/-- The fetches of a drawing answered with a stand-in (R111). -/
def standIns (f : Fonts) (font : Nat) (d : Drawing) : Nat := (d.fetched.filter (fun c => (f.fetch font c).standIn)).length

end Sys2Proof.Machine
end

