-- ==== Sys2Proof/Machine/Composer.lean ====
section
/-! DEFINITION. The Composer (08_composition_and_fitting): compositions, painting a field, overlays, and the tickers at frame
events. -/

namespace Sys2Proof.Machine

/-- Counters increased by the tallies of a painting. -/
def State.tally (s : State) (l : List (Ctr × Nat)) : State := l.foldl (fun s p => s.bumpBy p.1 p.2) s

/-! ### Painting one field (R141, R147, R152, R157) -/

/-- The service in a field's slot; none for an empty slot or a kind without a slot (R152). -/
def boundService (snap : Snapshot) (r : FieldRecord) : Option Nat :=
  if r.kind.isEntry then (snap.row r.slot).map (fun c => c.entry.id) else none

/-- The full or short text of a field. -/
def State.fieldText (s : State) (mode : Selector) (i : HeadIx) (snap : Snapshot) (r : FieldRecord) : Text :=
  buildText s.names.table s.mgmt.settings.strictNames mode r.limit (fieldPieces s.notices i snap r)

/-- The painting of a field whose font is DEFINED, chosen. -/
def State.planField (s : State) (i : HeadIx) (snap : Snapshot) (r : FieldRecord) (held : Option Ticker) : FieldPlan :=
  if r.scrolls then
    planScroll s.fonts r (boundService snap r) held (s.fieldText .full i snap r) (s.fieldText .short i snap r)
  else planStatic s.fonts r (s.fieldText .full i snap r) (s.fieldText .short i snap r)

/-- What a painting does to the head's context of the field, with the discards and restarts reported (R127, R156). -/
def Head.applyTicker (dwell n idx : Nat) (h : Head) : TickerChange → Head
  | .keep => h
  | .discard => h.discardTicker dwell n idx
  | .update k => { h with tickers := keyedPut idx k h.tickers }
  | .restart k => Head.leaveHold dwell n idx { h with tickers := keyedPut idx k h.tickers }

/-- The status of a field replaced (R157). -/
def Head.setStatus (idx : Nat) (st : FieldStatus) (h : Head) : Head :=
  { h with fields := h.fields.map (fun f => if f.1 = idx then (f.1, { f.2 with status := st }) else f) }

/-- Part or all of a field's rectangle lies outside its head (R157). -/
def offHead (h : Head) (r : FieldRecord) (fontHeight : Nat) : Bool :=
  decide (h.width < r.x + r.width) || decide (h.height < r.y + fontHeight)

/-- The back buffer of a head replaced. -/
def State.setBack (s : State) (i : HeadIx) (px : Pixels) : State :=
  s.setBuffers i { s.buffers.get i with back := px }

/-- The status of a field whose font is UNDEFINED (R147; log 28). -/
def FieldStatus.noFont : FieldStatus := ⟨.noFont, ⟨false, false, false, false⟩, false, false⟩

/-- One field painted whole (R141, R147 to R157). -/
def State.paintField (s : State) (i : HeadIx) (h : Head) (snap : Snapshot) (idx : Nat) (r : FieldRecord) : State :=
  let dwell := s.mgmt.settings.dwell
  if (s.fonts.get r.font).defined = false then
    s.setHead i (some ((h.discardTicker dwell s.entryCount idx).setStatus idx .noFont))
  else
    let plan := s.planField i snap r (keyedGet idx h.tickers)
    let height := (s.fonts.get r.font).height
    let clip := Clip.ofRect r.x r.y r.width height h.width h.height
    let missing := standIns s.fonts r.font plan.choice.drawing
    let status : FieldStatus := ⟨plan.choice.result, plan.choice.marks, decide (0 < missing), offHead h r height⟩
    (((s.setHead i (some ((h.applyTicker dwell s.entryCount idx plan.ticker).setStatus idx status))).setBack i
      (clip.draw s.fonts r.font r.width (clip.clear (s.buffers.get i).back) plan.choice.drawing)).tally
        plan.tallies).bumpBy .missingGlyphs missing

/-! ### Painting an overlay (R155) -/

/-- The context of an overlay on its text: continued under the same number, otherwise new; none for an empty text. -/
def overlayContext (f : Fonts) (h : Head) (number : Nat) (t : Text) : Option Ticker :=
  if t.glyphs = [] then none
  else
    let loop := widthAt f h.overlayFont (f.get h.overlayFont).nominalGap t.glyphs + h.width
    match h.overlayTicker with
    | some k => if k.bound = some number then some (k.remeasured t loop) else some (Ticker.create (some number) t loop)
    | none => some (Ticker.create (some number) t loop)

/-- The overlay painted across the head, already dark (R155). -/
def State.paintOverlay (s : State) (i : HeadIx) (h : Head) (slot : HeadIx) (number : Nat) : State :=
  if (s.fonts.get h.overlayFont).defined = false then s.setHead i (some { h with overlayTicker := none })
  else
    let items := match s.notices.get slot with
      | some n => n.text
      | none => []
    let t := buildText s.names.table s.mgmt.settings.strictNames .full 640 (freePiece items)
    let context := overlayContext s.fonts h number t
    let drawing := match context with
      | some k => k.choice.drawing
      | none => Drawing.nothing
    let clip := Clip.ofRect 0 h.overlayRow h.width (s.fonts.get h.overlayFont).height h.width h.height
    (((s.setHead i (some { h with overlayTicker := context })).setBack i
      (clip.draw s.fonts h.overlayFont h.width (s.buffers.get i).back drawing)).tally t.tallies).bumpBy .missingGlyphs
        (standIns s.fonts h.overlayFont drawing)

/-! ### Compositions (R139 to R141) -/

/-- The copy of an open build: its context, without the stops it holds (R50, R62). -/
def BuildCopy.ofBuild (b : Build) : BuildCopy :=
  ⟨b.rev, b.expectedPart, chainLength b.chain, b.chain.map Block.id, b.cut, b.timeout⟩

/-- The copy of an entry: all its fields, the build without its stops and, when its list is COMPLETE, the list's stops (R42, R62,
R140). -/
def RowCopy.ofEntry (e : Entry) : RowCopy :=
  ⟨{ e with build := none }, e.build.map BuildCopy.ofBuild, e.list.map (fun l => chainStops l.chain)⟩

/-- The rank that a slot shows on page q (R125). -/
def slotRank (k q slot : Nat) : Nat := if slot ≤ 1 then 1 else 1 + q * (k - 1) + (slot - 1)

/-- The rows of slots 1..k on page q (R125, R140). -/
def rowsOf (t : List Entry) (k q : Nat) : List (Option RowCopy) :=
  (List.range k).map (fun s => (t[slotRank k q (s + 1) - 1]?).map RowCopy.ofEntry)

/-- A held page that is out of range becomes page 0 at a row request (R125). -/
def Head.checkPage (n : Nat) (h : Head) : Head :=
  h.onPages (fun p => if p.page < h.pageCount n then p else { p with page := 0 })

/-- The answer to a row request (R125, R140). -/
def State.rowsFor (s : State) (i : HeadIx) (h : Head) : Rows :=
  match h.mode with
  | .overlay slot _ => .overlay slot (s.heads.get i).overlayNumber
  | .pages p => .slots h.topSlot (rowsOf s.board.table h.topSlot p.page)

/-- A snapshot of rows and the clock (R140). -/
def State.snapshot (s : State) (rows : Rows) : Snapshot :=
  ⟨rows, s.clock.hours, s.clock.minutes, s.clock.seconds, s.clock.valid⟩

/-- The composition in flight of a head replaced. -/
def State.setComp (s : State) (i : HeadIx) (c : Option Composition) : State := { s with comps := s.comps.set i c }

/-- A composition completes: the back is COMPLETE and the swap rule is applied (R141, R159). -/
def State.completeComp (s : State) (i : HeadIx) : State :=
  ((s.setComp i none).setBuffers i { s.buffers.get i with backState := .complete }).swapIfReady i

/-- The back buffer at a composition start: COMPOSING, dark within the head (R141, R158). -/
def Buffers.composing (b : Buffers) (h : Head) : Buffers :=
  { b with back := b.back &&& ~~~ rectMask 0 h.width 0 h.height, backState := .composing }

/-- A composition of an enabled head starts (R140, R141). A head under an overlay, and a head without fields, completes at
once (log 22). -/
def State.startComp (s : State) (i : HeadIx) (h : Head) : State :=
  let h' := h.checkPage s.entryCount
  let snap := s.snapshot (s.rowsFor i h')
  let s' := ((s.setHead i (some h')).setBuffers i ((s.buffers.get i).composing h')).setComp i (some ⟨snap, none⟩)
  match snap.rows with
  | .overlay slot number => (s'.paintOverlay i h' slot number).completeComp i
  | .slots _ _ => if h'.fields = [] then s'.completeComp i else s'

/-- A head's composition starts at a frame event, or the head is skipped (R139). -/
def State.composeHead (i : HeadIx) (s : State) : State :=
  match s.head i with
  | some h =>
    match s.comps.get i with
    | some _ => s.bump .composeLag
    | none => s.startComp i h
  | none => s

/-- The composition completes when no field record with a greater index is held (R141). -/
def State.completeIfLast (s : State) (i : HeadIx) (painted : Nat) : State :=
  match s.head i with
  | some h => if (keyedAfter (some painted) h.fields).isNone then s.completeComp i else s
  | none => s

/-- The composition in flight of a head paints its next field (R141; log 23). -/
def State.paintNext (s : State) (i : HeadIx) : State :=
  match s.comps.get i, s.head i with
  | some c, some h =>
    match c.snapshot.rows with
    | .overlay slot number => (s.paintOverlay i h slot number).completeComp i
    | .slots _ _ =>
      match keyedAfter c.painted h.fields with
      | some (idx, f) =>
        ((s.paintField i h c.snapshot idx f.record).setComp i (some { c with painted := some idx })).completeIfLast i idx
      | none => s.completeComp i
  | _, _ => s

/-! ### Tickers at frame events (R153) -/

/-- The ticker speed of a field (R122). -/
def Head.speedOf (h : Head) (idx : Nat) : Nat :=
  match keyedGet idx h.fields with
  | some f => f.record.speed
  | none => 0

/-- One field's context advanced, its wrap reported (R127, R153). -/
def Head.advanceTicker (dwell n idx : Nat) (h : Head) : Head :=
  match keyedGet idx h.tickers with
  | none => h
  | some k =>
    let r := k.advance (h.speedOf idx)
    let h' := match r.1 with
      | some k' => { h with tickers := keyedPut idx k' h.tickers }
      | none => { h with tickers := keyedErase idx h.tickers }
    if r.2 then h'.leaveHold dwell n idx else h'

/-- The contexts of a head advanced: under an overlay only the overlay's, at speed 16 (R153). -/
def Head.advanceTickers (dwell n : Nat) (h : Head) : Head :=
  match h.mode with
  | .pages _ => (h.tickers.map Prod.fst).foldl (fun h idx => h.advanceTicker dwell n idx) h
  | .overlay _ _ => { h with overlayTicker := h.overlayTicker.bind (fun k => (k.advance 16).1) }

/-- The tickers of a head advanced. -/
def State.advanceHead (i : HeadIx) (s : State) : State :=
  s.onHead i (Head.advanceTickers s.mgmt.settings.dwell s.entryCount)

/-- The Composer's part of a frame event (R139, R161). -/
def State.frameCompose (s : State) : State :=
  if s.mgmt.frozen then s else (s.forHeads State.advanceHead).forHeads State.composeHead

/-! ### Frame events (R171, R172) -/

/-- Whether the order of the two parts of a frame event can be seen: a head whose composition would complete at the event has a
head frame begun at it (log 8). -/
def State.frameRace (s : State) : Bool :=
  !s.mgmt.frozen && s.roundsRun &&
    HeadIx.all.any (fun i => match s.head i with
      | some h => (s.comps.get i).isNone && (h.fields.isEmpty || h.overlaySlot.isSome)
      | none => false)

/-- A frame event goes to the Composer and starts a round. Where the order can be seen it is a free choice (log 8). The period
read is the one the internal timer counts next (R171; log 34). -/
def State.frameEvent (s : State) : State :=
  let s := { s with link := { s.link with period := s.mgmt.settings.framePeriod } }
  if s.frameRace then
    let c := s.takeFreeChoice
    if c.1 % 2 = 0 then c.2.frameCompose.frameRound else c.2.frameRound.frameCompose
  else s.frameCompose.frameRound

/-- The internal frame timer runs (R171). -/
def State.timerRuns (s : State) : Bool := decide (s.link.timeBase ≠ .synced)

/-- The frame time base replaced. -/
def State.setTimeBase (s : State) (t : TimeBase) : State := { s with link := { s.link with timeBase := t } }

/-- The internal frame timer expires (R171). -/
def State.frameTimer (s : State) : State := if s.timerRuns then s.frameEvent else s

/-- A rising edge on FSYNC (R171). -/
def State.fsyncEdge (s : State) : State :=
  match s.link.timeBase with
  | .internal => s
  | .acquiring | .synced | .lost => (s.setTimeBase .synced).frameEvent

/-- The 100 ms watch on FSYNC expires (R171). -/
def State.fsyncWatch (s : State) : State :=
  match s.link.timeBase with
  | .internal | .lost => s
  | .acquiring => s.setTimeBase .lost
  | .synced => (s.setTimeBase .lost).frameEvent

end Sys2Proof.Machine
end

