-- ==== Sys2Proof/Machine/SecondEvents.lean ====
section
/-! DEFINITION. Second and minute events and their delivery (04_time R68 to R75), and the Freeze count (10_management R189). -/

namespace Sys2Proof.Machine

/-! ### The shares of the blocks (R75) -/

/-- The Departure Store's share of a second event and of a minute event (R38, R41). -/
def State.departureSecond (second : Bool) (expiry : Option Nat) (s : State) : State :=
  let r := s.board.timeEvent s.mgmt.settings second expiry
  ({ s with board := r.1 }).bumpBy .entriesExpired r.2

/-- The Calling List Store's share of a second event (R59). -/
def State.buildSecond (s : State) : State :=
  let r := s.board.countBuilds
  ({ s with board := r.1 }).bumpBy .buildsAbandoned r.2

/-- The part is no longer frozen and its count is 0 (R189). -/
def State.thaw (s : State) : State := { s with mgmt := { s.mgmt with frozen := false, freezeRemaining := 0 } }

/-- Management's share of a second event (R189). A Freeze taken just before it with a Freeze Timeout of 1 ends at it (log 41). -/
def State.freezeSecond (s : State) : State :=
  if s.mgmt.frozen then
    if s.mgmt.freezeRemaining ≤ 1 then s.thaw.raise .freezeExpired
    else { s with mgmt := { s.mgmt with freezeRemaining := s.mgmt.freezeRemaining - 1 } }
  else s

/-- The blocks that count second events. -/
inductive Share where
  | departures
  | builds
  | layout
  | link
  | freeze
  deriving DecidableEq, Repr

/-- A block's share of a second event; `expiry` is the new minute of day at a minute event of a valid clock. -/
def Share.act (expiry : Option Nat) (s : State) : Share → State
  | .departures => s.departureSecond true expiry
  | .builds => s.buildSecond
  | .layout => s.layoutSecond
  | .link => s.linkSecond
  | .freeze => s.freezeSecond

/-! ### Order (R60, R75, R134; log 7) -/

/-- An entry leaves the table at this event. -/
def State.entryLeaves (s : State) (expiry : Option Nat) : Bool :=
  decide ((s.board.timeEvent s.mgmt.settings true expiry).1.table.length ≠ s.board.table.length)

/-- A build's count ends at this event. -/
def State.buildEnds (s : State) : Bool := decide (s.board.countBuilds.2 ≠ 0)

/-- A dwell, hold or notice count ends at this event. -/
def State.layoutEnds (s : State) : Bool :=
  HeadIx.all.any (fun i =>
    (match s.head i with
      | some h =>
        match h.mode with
        | .pages p =>
          match p.phase with
          | .dwell => decide (p.dwell ≤ 1)
          | .hold => decide (p.hold ≤ 1)
        | .overlay _ _ => false
      | none => false) ||
    (match s.notices.get i with
      | some n => (match n.duration with
        | some d => decide (d ≤ 1)
        | none => false)
      | none => false))

/-- Whether the order of the blocks at this event can be seen. -/
def State.secondRace (s : State) (expiry : Option Nat) : Bool :=
  (s.entryLeaves expiry && (s.buildEnds || s.layoutEnds)) || (s.mgmt.frozen && decide (s.mgmt.freezeRemaining ≤ 1))

/-- The order of the shares a number selects: each in turn is taken by the remainder. -/
def orderOf : Nat → List Share → Nat → List Share
  | 0, _, _ => []
  | fuel + 1, l, c =>
    match l[c % l.length]? with
    | some x => x :: orderOf fuel (l.eraseIdx (c % l.length)) (c / l.length)
    | none => []

/-- The five shares in an order of the model's, for an event whose order cannot be seen. -/
def allShares : List Share := [.departures, .builds, .layout, .link, .freeze]

/-- A second event, which may also be a minute event of a valid clock (R75). Where the order of the blocks can be seen it is a
free choice (log 7). -/
def State.secondEvent (s : State) (expiry : Option Nat) : State :=
  if s.secondRace expiry then
    let c := s.takeFreeChoice
    (orderOf 5 allShares c.1).foldl (Share.act expiry) c.2
  else allShares.foldl (Share.act expiry) s

/-! ### Advances (R68 to R72) -/

/-- The clock replaced. -/
def State.setClock (s : State) (c : Clock) : State := { s with clock := c }

/-- One advance of the clock, with its second event and minute event (R68, R75). -/
def State.advanceClock (s : State) : State :=
  (s.setClock s.clock.advance).secondEvent
    (if s.clock.minuteDue && s.clock.valid then some s.clock.advance.now else none)

/-- An internal tick in INTERNAL mode (R69). -/
def State.internalTick (s : State) : State := if s.straps.csrc = .internal then s.advanceClock else s

/-- A rising edge on SECP (R69, R70, R72). -/
def State.secpEdge (s : State) (micros : Nat) : State :=
  match s.straps.csrc with
  | .internal => s
  | .pulse =>
    let s' := s.setClock (s.clock.acceptEdge micros)
    if s.clock.edgeAdvances micros then s'.advanceClock else s'

/-- The watch expires: LOST, and two advances for scheduled instants 1 and 2 (R71). -/
def State.watchExpires (s : State) : State :=
  if s.straps.csrc = .pulse ∧ s.clock.lost = false then
    (s.setClock { s.clock with lost := true, counted := 2 }).advanceClock.advanceClock
  else s

/-- An internal tick at the next scheduled instant in LOST (R71). -/
def State.scheduledTick (s : State) : State :=
  if s.straps.csrc = .pulse ∧ s.clock.lost = true then
    (s.setClock { s.clock with counted := s.clock.counted + 1 }).advanceClock
  else s

/-- A Time Set (R73). -/
def State.timeFrame (s : State) (p : List Byte) : State × OutcomeCode :=
  match timeOf p with
  | none => (s, .malformed)
  | some (h, m, sec) =>
    let s' := s.setClock (s.clock.setTo h m sec)
    (if s.clock.setIssuesMinute h m then s'.departureSecond false (some s'.clock.now) else s', .done)

end Sys2Proof.Machine
end

