-- ==== Sys2Proof/Machine/Resets.lean ====
section
/-! DEFINITION. Restart and hard reset (R20, R21, R46, R47, R66, R67, R80, R81, R100, R101, R116, R117, R137, R138, R163, R164,
R181, R182, R192, R193). -/

namespace Sys2Proof.Machine

/-! ### Restart (R192) -/

/-- The Feed Ring Port after a Restart (R21; log 20): a frame in transmission runs to its end. -/
def Feed.restarted (f : Feed) : Feed :=
  { f with
    rx := .hunt
    buffer := []
    queue := []
    slot := none
    replyWait := 0
    tx := match f.tx with
      | .forward body _ => .forward body false
      | .free => .free
      | .reply body => .reply body
      | .gap => .gap }

/-- The Panel Link after a Restart (R182): a head frame in transmission continues, its outcome not applied and its front
cleared at its end (R164). R182 does not name a Give Link that waits for that end: the model keeps it, so the Standby then goes
IDLE (log 42). -/
def Link.restarted (l : Link) : Link :=
  { l with
    heads := Bank8.fill .initial
    round := none
    pointer := 0
    sending := l.sending.map (fun f => { f with void := true, clearFront := true })
    thresholds := defaultThresholds
    timeBase := .internal }

/-- The buffers of a head index after a Restart: the front of a head frame in transmission is left until its end (R164). -/
def Buffers.restarted (b : Buffers) (inTransmission : Bool) : Buffers :=
  if inTransmission then { b with back := 0, backState := .idle } else .dark

/-- The part after a Restart (R192): the clock, identity, straps and ownership are kept. -/
def State.restart (s : State) : State :=
  { s with
    feed := s.feed.restarted
    counters := Vector.replicate 40 0
    board := Board.empty
    names := ⟨[], []⟩
    fonts := Fonts.empty
    heads := Bank8.fill .undefined
    notices := Bank8.fill none
    comps := Bank8.fill none
    buffers := s.buffers.mapIx (fun i b => b.restarted (s.sendingTo i))
    link := s.link.restarted
    mgmt := Mgmt.afterReset }

/-! ### Hard reset (R20, R193) -/

/-- The Feed Ring Port while RSTN is low (R20). -/
def Feed.held (f : Feed) : Feed :=
  { f with rx := .hunt, buffer := [], queue := [], slot := none, tx := .free, replyWait := 0 }

/-- The Panel Link while RSTN is low: a head frame in transmission is cut off, and the drivers are released (R181). -/
def Link.held (l : Link) : Link := { l with round := none, sending := none, plo := [] }

/-- RSTN goes low (log 11). The rest of the state takes its reset value at the end of the hard reset. -/
def State.hold (s : State) : State :=
  { s with
    inReset := true
    feed := s.feed.held
    link := s.link.held
    mgmt := { s.mgmt with restartWaiting := false } }

/-- The end of a hard reset: the straps and, on a Primary, LREQ are sampled (R181, R193). -/
def State.endReset (s : State) (straps : Straps) : State :=
  { State.afterReset straps s.link.lreqIn s.serial with pending := s.pending, freeCount := s.freeCount }

/-- HARD_RESET: RSTN is held low, or power rises (R20). -/
def execHardReset (s : State) : Host.Outcome State Fault Refusal := .next s.hold.clearFeedCounters

/-- HARD_RESET_END: the hard reset ends with the straps at their levels (R193). While RSTN is high there is none to end. -/
def execHardResetEnd (straps : Straps) (s : State) : Host.Outcome State Fault Refusal :=
  .next (if s.inReset then s.endReset straps else s)

end Sys2Proof.Machine
end

