-- ==== Sys2Proof/Machine/Settings.lean ====
section
/-! DEFINITION. Configure (10_management R188): every setting, its clamp, and what its change does to the block that reads it. -/

namespace Sys2Proof.Machine

/-- The settings replaced. -/
def State.setSettings (s : State) (x : Settings) : State := { s with mgmt := { s.mgmt with settings := x } }

/-- Own Platform from its value: an unknown suffix code becomes none (R188). -/
def ownPlatformOf (v : Nat) : Platform := ⟨clamp 1 99 (v / 256), (Suffix.ofCode (v % 256)).getD .none⟩

/-- An Own Platform value needs a clamp. -/
def ownPlatformClamped (v : Nat) : Bool :=
  decide (clamp 1 99 (v / 256) ≠ v / 256) || (Suffix.ofCode (v % 256)).isNone

/-- A new Own Platform settles Moved; the present value changes nothing (R36). -/
def State.setOwnPlatform (s : State) (p : Platform) : State :=
  if p = s.mgmt.settings.ownPlatform then s
  else
    { (s.setSettings { s.mgmt.settings with ownPlatform := p }) with board := s.board.newOwnPlatform s.mgmt.settings p }

/-- A new Day Start reorders the table; the present value changes nothing (R24). -/
def State.setDayStart (s : State) (d : Nat) : State :=
  if d = s.mgmt.settings.dayStart then s
  else { (s.setSettings { s.mgmt.settings with dayStart := d }) with board := s.board.newDayStart d }

/-- A new Sync Source moves the frame time base; the present value changes nothing (R171). -/
def State.setSyncSource (s : State) (x : SyncSource) : State :=
  if x = s.mgmt.settings.syncSource then s
  else
    { (s.setSettings { s.mgmt.settings with syncSource := x }) with
      link := { s.link with timeBase := match x with
        | .internal => .internal
        | .fsync => .acquiring } }

/-- A numeric setting in its range, and whether it was clamped. -/
def State.setNumber (s : State) (lo hi v : Nat) (put : Settings → Nat → Settings) : State × Bool :=
  (s.setSettings (put s.mgmt.settings (clamp lo hi v)), decide (clamp lo hi v ≠ v))

/-- One pair of a Configure applied, and whether its value was clamped (R188, R199). -/
def State.applySetting (s : State) (id v : Nat) : State × Bool :=
  match id with
  | 1 => ({ s with feed := { s.feed with zone := min v 255 } }, decide (255 < v))
  | 2 => ({ s with feed := { s.feed with group := min v 255 } }, decide (255 < v))
  | 3 => (s.setOwnPlatform (ownPlatformOf v), ownPlatformClamped v)
  | 4 => (s.setDayStart (min v 1439), decide (1439 < v))
  | 5 => s.setNumber 1 120 v (fun x n => { x with overdueLimit := n })
  | 6 => s.setNumber 1 240 v (fun x n => { x with delayedLimit := n })
  | 7 => s.setNumber 0 600 v (fun x n => { x with departedLinger := n })
  | 8 => s.setNumber 0 30 v (fun x n => { x with movedLinger := n })
  | 9 => s.setNumber 2 60 v (fun x n => { x with dwell := n })
  | 10 => s.setNumber 0 60 v (fun x n => { x with dwellHoldLimit := n })
  | 11 => s.setNumber 1 60 v (fun x n => { x with buildTimeout := n })
  | 12 => s.setNumber 1 255 v (fun x n => { x with freezeTimeout := n })
  | 13 => (s.setSettings { s.mgmt.settings with strictNames := decide (v ≠ 0) }, decide (1 < v))
  | 14 =>
    (s.setSettings { s.mgmt.settings with framePeriod := if v < 30 then 20 else 40 }, decide (v ≠ 20) && decide (v ≠ 40))
  | 15 => (s.setSyncSource (if v = 0 then .internal else .fsync), decide (1 < v))
  | 16 => s.setNumber 1 255 v (fun x n => { x with ackTimeout := n })
  | 17 => s.setNumber 0 32 v (fun x n => { x with hysteresis := n })
  | _ => (s, false)

/-- The pairs of a Configure: none when the payload is not a whole number of pairs or names an unknown id (R188). -/
def pairsOf : List Byte → Option (List (Nat × Nat))
  | [] => some []
  | i :: hi :: lo :: rest =>
    if 1 ≤ i.toNat ∧ i.toNat ≤ 17 then
      match pairsOf rest with
      | some l => some ((i.toNat, hi.toNat * 256 + lo.toNat) :: l)
      | none => none
    else none
  | _ => none

/-- The pairs applied in the order carried; whether a value was clamped. -/
def State.applyPairs (s : State) (l : List (Nat × Nat)) : State × Bool :=
  l.foldl (fun r p => ((r.1.applySetting p.1 p.2).1, r.2 || (r.1.applySetting p.1 p.2).2)) (s, false)

/-- A Configure (R188). -/
def State.configure (s : State) (p : List Byte) : State × OutcomeCode :=
  match pairsOf p with
  | none => (s, .malformed)
  | some l => ((s.applyPairs l).1, doneOr (s.applyPairs l).2)

end Sys2Proof.Machine
end

