-- ==== Sys2Proof/Machine/Management.lean ====
section
/-! DEFINITION. Management (10_management): the requests and their replies. -/

namespace Sys2Proof.Machine

/-- A reply the owner supplies: its kind and its payload. -/
abbrev Reply := Byte × List Byte

/-- An Outcome reply: the Kind answered and the outcome code (R183, R200). -/
def outcomeReply (kind : Byte) (code : OutcomeCode) : Reply := (outcomeReplyKind, [kind, b8 code.code])

/-- The Outcome reply of a request that asks for one (R183). -/
def Header.answer (h : Header) (code : OutcomeCode) : Option Reply :=
  if h.wantOutcome then some (outcomeReply h.kind code) else none

/-! ### Status and counters (R184, R185) -/

/-- The six bytes of a serial, high byte first (R191). -/
def serialBytes (v : BitVec 48) : List Byte := [5, 4, 3, 2, 1, 0].map (fun k => (v >>> (8 * k)).setWidth 8)

/-- The two bytes of a head in the Status reply (R200). -/
def State.headStatus (s : State) (i : HeadIx) : List Byte :=
  let l := s.link.heads.get i
  [b8 ((if (s.head i).isSome then 128 else 0) + l.state.code), b8 (faultByte l.faultCode)]

/-- The role byte (R200). -/
def roleByte : Role → Byte
  | .primary => 0
  | .standby => 1

/-- The Status reply (R200). The link wait has a value for a WAITING Standby only. -/
def State.statusContent (s : State) (code : OutcomeCode) : List (Option Byte) :=
  given ([b8 code.code] ++ serialBytes s.serial ++ [b8 s.feed.address, b8 s.feed.zone, b8 s.feed.group, roleByte s.straps.role,
      b8 s.clock.hours, b8 s.clock.minutes, b8 s.clock.seconds,
      flagByte [s.clock.valid, s.clockLost, s.mgmt.frozen, s.syncLost, s.panelFault],
      b8 s.entryCount, b8 s.board.free.length] ++ b16 s.names.table.length ++ HeadIx.all.flatMap s.headStatus ++
      [s.mgmt.pendingEvents, s.mgmt.enable, b8 s.mgmt.freezeRemaining, b8 s.link.owner.code]) ++
    [if s.link.owner = .waiting then some (b8 s.link.linkWait) else none]

/-- The Counter reply (R200). -/
def State.counterContent (s : State) (code : OutcomeCode) : List Byte :=
  [b8 code.code, 40] ++ s.counters.toList.flatMap b16

/-! ### Address Assign (R191) -/

/-- Where the scan stands: so many marker bytes in a row, so many bytes after the marker run, or a match. -/
inductive Scan where
  | hunting (n : Nat)
  | matching (k : Nat)
  | done
  deriving DecidableEq, Repr

/-- One byte looked at while hunting for the marker run. -/
def Scan.hunt (n : Nat) (b : Byte) : Scan :=
  if b = 0xA5 then (if n = 3 then .matching 0 else .hunting (n + 1)) else .hunting 0

/-- One byte of the search area: a break resumes the hunt at the byte where it occurred (R191, step 3). -/
def Scan.next (pattern : List Byte) (c : Scan) (b : Byte) : Scan :=
  match c with
  | .hunting n => Scan.hunt n b
  | .matching k =>
    if pattern[k]? = some b then (if k + 1 = pattern.length then .done else .matching (k + 1)) else Scan.hunt 0 b
  | .done => .done

/-- The search area holds a marker run and the serial three times (R191). -/
def areaMatches (serial : BitVec 48) (area : List Byte) : Bool :=
  decide (area.foldl (Scan.next (serialBytes serial ++ serialBytes serial ++ serialBytes serial)) (.hunting 0) = .done)

/-- An Address Assign (R191). The reply does not depend on Want Outcome. -/
def State.assignAddress (s : State) (h : Header) : State × Option Reply :=
  match h.payload with
  | [] => (s, none)
  | a :: area =>
    if area.length ≤ 80 ∧ areaMatches s.serial area = true then
      if 1 ≤ a.toNat ∧ a.toNat ≤ 120 then
        ({ s with feed := { s.feed with address := a.toNat } }, some (outcomeReply h.kind .done))
      else (s, some (outcomeReply h.kind .malformed))
    else (s, none)

/-! ### Freeze (R189) -/

/-- A Freeze. -/
def State.freeze (s : State) : State × OutcomeCode :=
  ({ s with mgmt := { s.mgmt with frozen := true, freezeRemaining := s.mgmt.settings.freezeTimeout } }, .done)

/-- An Unfreeze. -/
def State.unfreeze (s : State) : State × OutcomeCode := if s.mgmt.frozen then (s.thaw, .done) else (s, .notNow)

/-! ### Events (R187) -/

/-- An Event Clear; a named level event whose condition holds is pending again at the same event (`live`). -/
def State.clearEvents (s : State) (mask : Byte) : State × OutcomeCode :=
  ({ s with mgmt := { s.mgmt with pendingEvents := s.mgmt.pendingEvents &&& ~~~mask } }, .done)

/-- An Event Enable. -/
def State.enableEvents (s : State) (mask : Byte) : State × OutcomeCode :=
  ({ s with mgmt := { s.mgmt with enable := mask } }, .done)

/-! ### The requests (R183) -/

/-- A request with a payload of a fixed length: MALFORMED for another length, and the reply when asked. -/
def State.request (s : State) (h : Header) (length : Nat) (act : State → State × OutcomeCode) : State × Option Reply :=
  if h.payload.length = length then ((act s).1, h.answer (act s).2) else (s, h.answer .malformed)

/-- The first payload byte. -/
def Header.byte0 (h : Header) : Byte := h.payload.getD 0 0

/-- A Status Query (R184); a wrong length is answered MALFORMED (log 18). -/
def State.statusQuery (s : State) (h : Header) : State × Option Reply :=
  let r := s.fill (s.statusContent (if h.payload.length = 0 then .done else .malformed))
  (r.2, some (statusReplyKind, r.1))

/-- A Counter Read (R185); a wrong length is answered MALFORMED and clears nothing (log 18). -/
def State.counterRead (s : State) (h : Header) : State × Option Reply :=
  if h.payload.length = 1 then
    (if h.byte0.getLsbD 0 then s.clearCounters else s, some (counterReplyKind, s.counterContent .done))
  else (s, some (counterReplyKind, s.counterContent .malformed))

/-- A Read Back or Read Next (R190). -/
def State.readRequest (s : State) (a : ReadAnswer) : State × Option Reply :=
  ((s.answerRead a).2, some (readReplyKind, (s.answerRead a).1))

/-- A Restart (R192): with Want Outcome it waits for the end of its reply. -/
def State.restartRequest (s : State) (h : Header) : State × Option Reply :=
  if h.payload.length ≠ 0 then (s, h.answer .malformed)
  else if h.wantOutcome then ({ s with mgmt := { s.mgmt with restartWaiting := true } }, h.answer .done)
  else (s.restart, none)

/-- A management request handed over (R183). The data kinds are not Management's. -/
def State.manage (s : State) (h : Header) : Kind → State × Option Reply
  | .statusQuery => s.statusQuery h
  | .counterRead => s.counterRead h
  | .eventClear => s.request h 1 (fun s => s.clearEvents h.byte0)
  | .eventEnable => s.request h 1 (fun s => s.enableEvents h.byte0)
  | .configure => ((s.configure h.payload).1, h.answer (s.configure h.payload).2)
  | .freeze => s.request h 0 State.freeze
  | .unfreeze => s.request h 0 State.unfreeze
  | .advance => s.request h 1 (fun s => s.advancePages h.byte0)
  | .blank => s.request h 1 (fun s => (s.setBlank h.byte0 true, .done))
  | .unblank => s.request h 1 (fun s => (s.setBlank h.byte0 false, .done))
  | .takeLink => s.request h 0 State.takeLinkRequest
  | .giveLink => s.request h 0 State.giveLinkRequest
  | .readBack => s.readRequest (s.readBack h.payload)
  | .readNext => s.readRequest (s.readNext h.payload)
  | .addressAssign => s.assignAddress h
  | .restart => s.restartRequest h
  | .departurePut | .departureAmend | .departureRemove | .stops | .stopAmend | .noticePut | .noticeClear | .timeSet
  | .namePut | .nameDrop | .namesClear | .fontDefine | .glyphPut | .headDefine | .headDrop | .fieldPut | .fieldDrop
  | .brightnessTablePut => (s, none)

/-! ### The owners of the data kinds (R10) -/

/-- What the board's owners did, taken into the state. -/
def State.takeBoard (s : State) (r : BoardResult) : State × OutcomeCode :=
  ((({ s with board := r.board }).bumpAll r.counts).raiseAll r.raises, r.code)

/-- What the Name Store did, taken into the state. -/
def State.takeNames (s : State) (r : NameResult) : State × OutcomeCode :=
  (({ s with names := { s.names with table := r.table } }).bumpAll r.counts, r.code)

/-- What the Font Store did, taken into the state. -/
def State.takeFonts (s : State) (r : FontResult) : State × OutcomeCode := ({ s with fonts := r.fonts }, r.code)

/-- A data frame handed to its owner, with its outcome (R10, R12). The management kinds are not theirs. -/
def State.own (s : State) (p : List Byte) : Kind → State × OutcomeCode
  | .departurePut => s.takeBoard (s.board.put s.mgmt.settings p)
  | .departureAmend => s.takeBoard (s.board.amend s.mgmt.settings p)
  | .departureRemove => s.takeBoard (s.board.removeFrame p)
  | .stops => s.takeBoard (s.board.stops s.mgmt.settings p)
  | .stopAmend => s.takeBoard (s.board.stopAmend p)
  | .noticePut => s.noticeFrame p
  | .noticeClear => s.clearNotice p
  | .timeSet => s.timeFrame p
  | .namePut => s.takeNames (putNameFrame s.names.table p)
  | .nameDrop => s.takeNames (dropNameFrame s.names.table p)
  | .namesClear => s.takeNames (clearNamesFrame s.names.table p)
  | .fontDefine => s.takeFonts (defineFont s.fonts p)
  | .glyphPut => s.takeFonts (putGlyph s.fonts p)
  | .headDefine => s.putHead p
  | .headDrop => s.dropHead p
  | .fieldPut => s.putField p
  | .fieldDrop => s.dropField p
  | .brightnessTablePut => s.putBrightness p
  | .statusQuery | .counterRead | .eventClear | .eventEnable | .configure | .freeze | .unfreeze | .advance | .blank
  | .unblank | .takeLink | .giveLink | .readBack | .readNext | .addressAssign | .restart => (s, .done)

end Sys2Proof.Machine
end

