-- ==== Sys2Proof/Machine/Port.lean ====
section
/-! DEFINITION. The Feed Ring Port (01_the_feed_ring): the receiver, the arrival event, disposal, forwarding, the Reply Slot and
the out-port arbiter. -/

namespace Sys2Proof.Machine

/-- The feed port replaced. -/
def State.setFeed (s : State) (f : Feed) : State := { s with feed := f }

/-! ### The out-port (R13 to R17) -/

/-- A forwarded frame begins: it stays at the head of the queue, and a waiting reply's count rises (R16, rule 2). -/
def Feed.sendForward (f : Feed) (body : List Byte) : Feed :=
  { f with tx := .forward body true, replyWait := if f.slot.isSome then f.replyWait + 1 else f.replyWait }

/-- The waiting reply begins (R16). -/
def Feed.sendReply (f : Feed) (body : List Byte) : Feed := { f with tx := .reply body, replyWait := 0 }

/-- The selection made when FDO is free (R16). -/
def Feed.select (f : Feed) : Feed :=
  match f.tx with
  | .free =>
    match f.slot, f.queue with
    | some r, q :: _ => if f.replyWait = 4 then f.sendReply r else f.sendForward q
    | some r, [] => f.sendReply r
    | none, q :: _ => f.sendForward q
    | none, [] => f
  | .forward _ _ => f
  | .reply _ => f
  | .gap => f

/-- A rewritten frame is offered to the Forward Queue (R15). -/
def State.enqueue (s : State) (body : List Byte) : State :=
  if s.feed.queue.length < Config.maxForward then
    (s.setFeed { s.feed with queue := s.feed.queue ++ [body] }.select).bump .framesForwarded
  else s.bump .forwardOverrun

/-- A frame is forwarded (R13). -/
def State.forward (s : State) (body : List Byte) (h : Header) : State :=
  if h.hop = 1 then s.bump .expired else s.enqueue (forwardBody body)

/-- A reply is offered to the Reply Slot; the port builds its header with the drop address of that moment (R14). -/
def State.offerReply (s : State) (tag : Byte) (r : Reply) : State :=
  match s.feed.slot with
  | none => s.setFeed { s.feed with slot := some (replyBody r.1 (b8 s.feed.address) tag r.2) }.select
  | some _ => s.bump .replyBusy

/-- A reply offered when there is one. -/
def State.offerOpt (s : State) (tag : Byte) (r : Option Reply) : State :=
  match r with
  | some r => s.offerReply tag r
  | none => s

/-! ### Matching and hand-over (R9 to R12) -/

/-- A scope pair matches the unit's setting (R9). -/
def Feed.matchesPair (f : Feed) (p : ScopePair) : Bool :=
  match p.kind with
  | .zone => decide (p.value.toNat = f.zone)
  | .group => decide (p.value.toNat = f.group)

/-- Every pair the frame carries matches (R9). -/
def Feed.inScope (f : Feed) (h : Header) : Bool := h.scope.all f.matchesPair

/-- The Destination is the unit's own drop address, and that address is 1..120 (R11). -/
def Feed.ownAddress (f : Feed) (h : Header) : Bool :=
  decide (h.dest.toNat = f.address) && decide (1 ≤ f.address) && decide (f.address ≤ 120)

/-- A data frame is handed to its owner; the outcome, when asked for, is offered as a reply (R12). -/
def State.handData (s : State) (k : Kind) (h : Header) (reply : Bool) : State :=
  let r := (s.bump .framesActedOn).own h.payload k
  if reply then r.1.offerReply h.tag (outcomeReply h.kind r.2) else r.1

/-- A management request is handed to Management only if the Reply Slot is empty (R12). -/
def State.handManagement (s : State) (k : Kind) (h : Header) : State :=
  match s.feed.slot with
  | some _ => s.bump .replyBusy
  | none =>
    let r := (s.bump .framesActedOn).manage h k
    r.1.offerOpt h.tag r.2

/-- A frame of unrecognised kind (R10; log 17). -/
def State.unknownKind (s : State) (body : List Byte) (h : Header) : State :=
  let s' := (s.bump .unknownKind).forward body h
  if s.feed.ownAddress h && h.wantOutcome then s'.offerReply h.tag (outcomeReply h.kind .unknownKind) else s'

/-- A data frame in scope (R11). -/
def State.disposeData (s : State) (k : Kind) (body : List Byte) (h : Header) : State :=
  if s.feed.ownAddress h then s.handData k h h.wantOutcome
  else if h.dest = 255 then (s.handData k h false).forward body h
  else s.forward body h

/-- Address Assign also reaches a unit with drop address 0 at destination 0 (R11). -/
def Feed.unaddressed (f : Feed) (h : Header) : Bool := decide (h.dest = 0) && decide (f.address = 0)

/-- A management request in scope (R11). -/
def State.disposeManagement (s : State) (k : Kind) (body : List Byte) (h : Header) : State :=
  if s.feed.ownAddress h then s.handManagement k h
  else if k = .addressAssign then
    if h.dest = 255 ∨ s.feed.unaddressed h = true then (s.handManagement k h).forward body h else s.forward body h
  else if h.dest = 255 then (s.bump .unknownKind).forward body h
  else s.forward body h

/-- Disposal of a well-formed frame by scope, kind and destination (R9 to R11). -/
def State.dispose (s : State) (body : List Byte) (h : Header) : State :=
  if s.feed.inScope h = false ∨ h.isReply = true then s.forward body h
  else
    match Kind.ofCode h.kind with
    | none => s.unknownKind body h
    | some k => if k.isData then s.disposeData k body h else s.disposeManagement k body h

/-- The arrival event of a body (R4). -/
def State.arrive (s : State) (body : List Byte) : State :=
  if body.length < 9 then s.bump .runt
  else if checkHolds body = false then (s.bump .checkErrors).raise .feedError
  else
    match parseBody body with
    | none => s.bump .malformed
    | some h => if h.sound then (s.bump .framesAccepted).dispose body h else s.bump .malformed

/-! ### The receiver (R2, R3) -/

/-- The receiver's state and buffer replaced. -/
def State.setRx (s : State) (rx : RxState) (buffer : List Byte) : State :=
  { s with feed := { s.feed with rx := rx, buffer := buffer } }

/-- An Idle marker (R2). -/
def State.rxIdle (s : State) : State :=
  match s.feed.rx with
  | .hunt | .wait => s.setRx .wait []
  | .body => (s.setRx .wait []).bump .symbolErrors

/-- A Sync marker (R2). -/
def State.rxSync (s : State) : State :=
  match s.feed.rx with
  | .hunt => s
  | .wait => s.setRx .body []
  | .body => (s.setRx .body []).bump .symbolErrors

/-- A data byte (R2, R3). -/
def State.rxData (s : State) (b : Byte) : State :=
  match s.feed.rx with
  | .hunt | .wait => s
  | .body =>
    if s.feed.buffer.length < Config.maxBody then s.setRx .body (s.feed.buffer ++ [b])
    else (s.setRx .hunt []).bump .oversize

/-- An invalid character (R2). -/
def State.rxInvalid (s : State) : State :=
  match s.feed.rx with
  | .hunt | .wait => s
  | .body => (s.setRx .hunt []).bump .symbolErrors

/-- An End marker: in BODY it is the frame's arrival event, and the receiver is in WAIT after it (R2, R4; log 15). A
Restart that is carried out at its own arrival event leaves the receiver in HUNT (R21; log 38). -/
def State.rxEnd (s : State) : State :=
  match s.feed.rx with
  | .hunt | .wait => s
  | .body => (s.setRx .wait []).arrive s.feed.buffer

/-- The line characters of a frame, taken one after another: Sync, the body, End (R1; log 1). -/
def State.receive (s : State) (body : List Byte) : State := (body.foldl State.rxData s.rxSync).rxEnd

/-! ### Ends of transmission (R16, R17, R192) -/

/-- The End marker of a forwarded frame has been sent (R17). -/
def State.forwardSent (s : State) : State :=
  match s.feed.tx with
  | .forward _ queued =>
    s.setFeed { s.feed with tx := .gap, queue := if queued then s.feed.queue.drop 1 else s.feed.queue }
  | .free | .reply _ | .gap => s

/-- The End marker of a reply has been sent; a Restart that waits for it is carried out (R17, R192). -/
def State.replySent (s : State) : State :=
  match s.feed.tx with
  | .reply _ =>
    let s' := (s.setFeed { s.feed with tx := .gap, slot := none }).bump .repliesSent
    if s.mgmt.restartWaiting then s'.restart else s'
  | .free | .forward _ _ | .gap => s

/-- The second Idle marker of the gap has been sent: FDO is free (R1, R16). -/
def State.gapEnd (s : State) : State :=
  match s.feed.tx with
  | .gap => s.setFeed { s.feed with tx := .free }.select
  | .free | .forward _ _ | .reply _ => s

end Sys2Proof.Machine
end

