-- ==== Sys2Proof/Machine/ConfigureRows.lean ====
section
/-! DEFINITION. The Configure requests, one row for each setting a pair may name (R188; log 1). -/

namespace Sys2Proof.Machine

/-- CONFIGURE_ZONE: a Configure with a pair for Zone arrives (R188). -/
def execConfigureZone (f : FeedFrame) (s : State) : Host.Outcome State Fault Refusal :=
  live s (fun s => s.receive (frameBody Kind.configure.code f))

/-- CONFIGURE_GROUP: a Configure with a pair for Group arrives (R188). -/
def execConfigureGroup (f : FeedFrame) (s : State) : Host.Outcome State Fault Refusal :=
  live s (fun s => s.receive (frameBody Kind.configure.code f))

/-- CONFIGURE_OWN_PLATFORM: a Configure with a pair for Own Platform arrives (R188). -/
def execConfigureOwnPlatform (f : FeedFrame) (s : State) : Host.Outcome State Fault Refusal :=
  live s (fun s => s.receive (frameBody Kind.configure.code f))

/-- CONFIGURE_DAY_START: a Configure with a pair for Day Start arrives (R188). -/
def execConfigureDayStart (f : FeedFrame) (s : State) : Host.Outcome State Fault Refusal :=
  live s (fun s => s.receive (frameBody Kind.configure.code f))

/-- CONFIGURE_OVERDUE_LIMIT: a Configure with a pair for Overdue Limit arrives (R188). -/
def execConfigureOverdueLimit (f : FeedFrame) (s : State) : Host.Outcome State Fault Refusal :=
  live s (fun s => s.receive (frameBody Kind.configure.code f))

/-- CONFIGURE_DELAYED_LIMIT: a Configure with a pair for Delayed Limit arrives (R188). -/
def execConfigureDelayedLimit (f : FeedFrame) (s : State) : Host.Outcome State Fault Refusal :=
  live s (fun s => s.receive (frameBody Kind.configure.code f))

/-- CONFIGURE_DEPARTED_LINGER: a Configure with a pair for Departed Linger arrives (R188). -/
def execConfigureDepartedLinger (f : FeedFrame) (s : State) : Host.Outcome State Fault Refusal :=
  live s (fun s => s.receive (frameBody Kind.configure.code f))

/-- CONFIGURE_MOVED_LINGER: a Configure with a pair for Moved Linger arrives (R188). -/
def execConfigureMovedLinger (f : FeedFrame) (s : State) : Host.Outcome State Fault Refusal :=
  live s (fun s => s.receive (frameBody Kind.configure.code f))

/-- CONFIGURE_DWELL: a Configure with a pair for Dwell arrives (R188). -/
def execConfigureDwell (f : FeedFrame) (s : State) : Host.Outcome State Fault Refusal :=
  live s (fun s => s.receive (frameBody Kind.configure.code f))

/-- CONFIGURE_DWELL_HOLD_LIMIT: a Configure with a pair for Dwell Hold Limit arrives (R188). -/
def execConfigureDwellHoldLimit (f : FeedFrame) (s : State) : Host.Outcome State Fault Refusal :=
  live s (fun s => s.receive (frameBody Kind.configure.code f))

/-- CONFIGURE_BUILD_TIMEOUT: a Configure with a pair for Build Timeout arrives (R188). -/
def execConfigureBuildTimeout (f : FeedFrame) (s : State) : Host.Outcome State Fault Refusal :=
  live s (fun s => s.receive (frameBody Kind.configure.code f))

/-- CONFIGURE_FREEZE_TIMEOUT: a Configure with a pair for Freeze Timeout arrives (R188). -/
def execConfigureFreezeTimeout (f : FeedFrame) (s : State) : Host.Outcome State Fault Refusal :=
  live s (fun s => s.receive (frameBody Kind.configure.code f))

/-- CONFIGURE_STRICT_NAMES: a Configure with a pair for Strict Names arrives (R188). -/
def execConfigureStrictNames (f : FeedFrame) (s : State) : Host.Outcome State Fault Refusal :=
  live s (fun s => s.receive (frameBody Kind.configure.code f))

/-- CONFIGURE_FRAME_PERIOD: a Configure with a pair for Frame Period arrives (R188). -/
def execConfigureFramePeriod (f : FeedFrame) (s : State) : Host.Outcome State Fault Refusal :=
  live s (fun s => s.receive (frameBody Kind.configure.code f))

/-- CONFIGURE_SYNC_SOURCE: a Configure with a pair for Sync Source arrives (R188). -/
def execConfigureSyncSource (f : FeedFrame) (s : State) : Host.Outcome State Fault Refusal :=
  live s (fun s => s.receive (frameBody Kind.configure.code f))

/-- CONFIGURE_ACK_TIMEOUT: a Configure with a pair for Ack Timeout arrives (R188). -/
def execConfigureAckTimeout (f : FeedFrame) (s : State) : Host.Outcome State Fault Refusal :=
  live s (fun s => s.receive (frameBody Kind.configure.code f))

/-- CONFIGURE_HYSTERESIS: a Configure with a pair for Hysteresis arrives (R188). -/
def execConfigureHysteresis (f : FeedFrame) (s : State) : Host.Outcome State Fault Refusal :=
  live s (fun s => s.receive (frameBody Kind.configure.code f))

end Sys2Proof.Machine
end

