-- ==== Sys2Proof/Machine/DataFrames.lean ====
section
/-! DEFINITION. The data frames: each arrives whole on FDI as Sync, its body and End (R1, R4; log 1). -/

namespace Sys2Proof.Machine

/-- DEPARTURE_PUT: a Departure Put arrives (R28 to R31). -/
def execDeparturePut (f : FeedFrame) (s : State) : Host.Outcome State Fault Refusal :=
  live s (fun s => s.receive (frameBody Kind.departurePut.code f))

/-- DEPARTURE_AMEND: a Departure Amend arrives (R32 to R34). -/
def execDepartureAmend (f : FeedFrame) (s : State) : Host.Outcome State Fault Refusal :=
  live s (fun s => s.receive (frameBody Kind.departureAmend.code f))

/-- DEPARTURE_REMOVE: a Departure Remove arrives (R40). -/
def execDepartureRemove (f : FeedFrame) (s : State) : Host.Outcome State Fault Refusal :=
  live s (fun s => s.receive (frameBody Kind.departureRemove.code f))

/-- STOPS: a Stops part arrives (R51 to R58). -/
def execStops (f : FeedFrame) (s : State) : Host.Outcome State Fault Refusal :=
  live s (fun s => s.receive (frameBody Kind.stops.code f))

/-- STOP_AMEND: a Stop Amend arrives (R61). -/
def execStopAmend (f : FeedFrame) (s : State) : Host.Outcome State Fault Refusal :=
  live s (fun s => s.receive (frameBody Kind.stopAmend.code f))

/-- NOTICE_PUT: a Notice Put without Append arrives (R129 to R132). -/
def execNoticePut (f : FeedFrame) (s : State) : Host.Outcome State Fault Refusal :=
  live s (fun s => s.receive (frameBody Kind.noticePut.code f))

/-- NOTICE_APPEND: a Notice Put with Append arrives (R129, R130). -/
def execNoticeAppend (f : FeedFrame) (s : State) : Host.Outcome State Fault Refusal :=
  live s (fun s => s.receive (frameBody Kind.noticePut.code f))

/-- NOTICE_CLEAR: a Notice Clear arrives (R130, R132). -/
def execNoticeClear (f : FeedFrame) (s : State) : Host.Outcome State Fault Refusal :=
  live s (fun s => s.receive (frameBody Kind.noticeClear.code f))

/-- TIME_SET: a Time Set arrives (R73). -/
def execTimeSet (f : FeedFrame) (s : State) : Host.Outcome State Fault Refusal :=
  live s (fun s => s.receive (frameBody Kind.timeSet.code f))

/-- NAME_PUT: a Name Put arrives (R85, R86). -/
def execNamePut (f : FeedFrame) (s : State) : Host.Outcome State Fault Refusal :=
  live s (fun s => s.receive (frameBody Kind.namePut.code f))

/-- NAME_DROP: a Name Drop arrives (R87). -/
def execNameDrop (f : FeedFrame) (s : State) : Host.Outcome State Fault Refusal :=
  live s (fun s => s.receive (frameBody Kind.nameDrop.code f))

/-- NAMES_CLEAR: a Names Clear arrives (R88). -/
def execNamesClear (f : FeedFrame) (s : State) : Host.Outcome State Fault Refusal :=
  live s (fun s => s.receive (frameBody Kind.namesClear.code f))

/-- FONT_DEFINE: a Font Define arrives (R104, R105). -/
def execFontDefine (f : FeedFrame) (s : State) : Host.Outcome State Fault Refusal :=
  live s (fun s => s.receive (frameBody Kind.fontDefine.code f))

/-- GLYPH_PUT: a Glyph Put arrives (R106, R107). -/
def execGlyphPut (f : FeedFrame) (s : State) : Host.Outcome State Fault Refusal :=
  live s (fun s => s.receive (frameBody Kind.glyphPut.code f))

/-- HEAD_DEFINE: a Head Define arrives (R119, R120). -/
def execHeadDefine (f : FeedFrame) (s : State) : Host.Outcome State Fault Refusal :=
  live s (fun s => s.receive (frameBody Kind.headDefine.code f))

/-- HEAD_DROP: a Head Drop arrives (R121). -/
def execHeadDrop (f : FeedFrame) (s : State) : Host.Outcome State Fault Refusal :=
  live s (fun s => s.receive (frameBody Kind.headDrop.code f))

/-- FIELD_PUT: a Field Put arrives (R123). -/
def execFieldPut (f : FeedFrame) (s : State) : Host.Outcome State Fault Refusal :=
  live s (fun s => s.receive (frameBody Kind.fieldPut.code f))

/-- FIELD_DROP: a Field Drop arrives (R124). -/
def execFieldDrop (f : FeedFrame) (s : State) : Host.Outcome State Fault Refusal :=
  live s (fun s => s.receive (frameBody Kind.fieldDrop.code f))

/-- BRIGHTNESS_TABLE_PUT: a Brightness Table Put arrives (R176). -/
def execBrightnessTablePut (f : FeedFrame) (s : State) : Host.Outcome State Fault Refusal :=
  live s (fun s => s.receive (frameBody Kind.brightnessTablePut.code f))

end Sys2Proof.Machine
end

