-- ==== Sys2Proof/Machine/LineEvents.lean ====
section
/-! DEFINITION. The line characters on FDI and the ends of transmission on FDO (01_the_feed_ring). -/

namespace Sys2Proof.Machine

/-- IDLE_MARKER: an Idle marker arrives on FDI (R2). -/
def execIdleMarker (s : State) : Host.Outcome State Fault Refusal := live s State.rxIdle

/-- SYNC_MARKER: a Sync marker arrives on FDI (R2). -/
def execSyncMarker (s : State) : Host.Outcome State Fault Refusal := live s State.rxSync

/-- DATA_BYTE: a data byte arrives on FDI (R2, R3). -/
def execDataByte (b : Byte) (s : State) : Host.Outcome State Fault Refusal := live s (fun s => s.rxData b)

/-- INVALID_CHARACTER: an invalid character arrives on FDI (R2). -/
def execInvalidCharacter (s : State) : Host.Outcome State Fault Refusal := live s State.rxInvalid

/-- FRAME_ARRIVAL: an End marker arrives on FDI (R2, R4). -/
def execFrameArrival (s : State) : Host.Outcome State Fault Refusal := live s State.rxEnd

/-- IDLE_GAP_END: the Idle gap has been sent and FDO is free (R1, R16). -/
def execIdleGapEnd (s : State) : Host.Outcome State Fault Refusal := live s State.gapEnd

/-- FORWARDED_FRAME_SENT: the End marker of a forwarded frame has been sent (R17). -/
def execForwardedFrameSent (s : State) : Host.Outcome State Fault Refusal := live s State.forwardSent

/-- REPLY_SENT: the End marker of a reply has been sent (R17, R192). -/
def execReplySent (s : State) : Host.Outcome State Fault Refusal := live s State.replySent

end Sys2Proof.Machine
end

