-- ==== Sys2Proof/Machine/LinkEvents.lean ====
section
/-! DEFINITION. The Panel Link's events and the ownership lines (09_the_panel_link). -/

namespace Sys2Proof.Machine

/-- HEADER_SENT: the header of a head frame has been sent, and HOLDN is tested (R166, R167). -/
def execHeaderSent (holdn : Bool) (s : State) : Host.Outcome State Fault Refusal := live s (fun s => s.headerDone holdn)

/-- ROW_SENT: a row of a head frame has been sent, and HOLDN is tested before the next (R166, R167). -/
def execRowSent (holdn : Bool) (s : State) : Host.Outcome State Fault Refusal := live s (fun s => s.rowDone holdn)

/-- HOLDN_RELEASE: HOLDN is released (R167). -/
def execHoldnRelease (s : State) : Host.Outcome State Fault Refusal := live s State.holdReleased

/-- HOLD_LIMIT_EXPIRY: the Hold Limit expires with HOLDN asserted (R167). -/
def execHoldLimitExpiry (s : State) : Host.Outcome State Fault Refusal := live s State.holdExpires

/-- ACK_RECEIVED: an ACK arrives on the return pair (R165, R168). -/
def execAckReceived (head ambient : Byte) (s : State) : Host.Outcome State Fault Refusal :=
  live s (fun s => s.seeActivity.takeAck head ambient)

/-- NAK_RECEIVED: a NAK arrives on the return pair (R165, R168). -/
def execNakReceived (head code : Byte) (s : State) : Host.Outcome State Fault Refusal :=
  live s (fun s => s.seeActivity.takeNak head code)

/-- ACK_TIMEOUT: the Ack Timeout expires (R168). -/
def execAckTimeout (s : State) : Host.Outcome State Fault Refusal := live s State.ackTimesOut

/-- ANSWER_NOT_WELL_FORMED: groups arrive on the return pair that are more, or less, than one well-formed answer (R165, R168). -/
def execAnswerNotWellFormed (groups : List (BitVec 5)) (s : State) : Host.Outcome State Fault Refusal :=
  live s (fun s => s.takeGroups groups)

/-- LREQ_ASSERTED: LREQ is asserted (R177). Its level is followed also while RSTN is low (log 10). -/
def execLreqAsserted (s : State) : Host.Outcome State Fault Refusal := live (s.setLreq true) State.lreqSeen

/-- LREQ_RELEASED: LREQ is released (R177). Its level is followed also while RSTN is low (log 10). -/
def execLreqReleased (s : State) : Host.Outcome State Fault Refusal := live (s.setLreq false) State.lreqGone

/-- LGNT_ASSERTED: a WAITING Standby sees LGNT asserted (R178). -/
def execLgntAsserted (s : State) : Host.Outcome State Fault Refusal := live s State.lgntSeen

/-- ACTIVITY: a symbol other than IDLE is seen on the link (R165, R178). -/
def execActivity (s : State) : Host.Outcome State Fault Refusal := live s State.seeActivity

/-- GRANT_WAIT_EXPIRY: the Grant Wait window expires (R178). -/
def execGrantWaitExpiry (s : State) : Host.Outcome State Fault Refusal := live s State.windowExpires

end Sys2Proof.Machine
end

