-- ==== Sys2Proof/Machine/Requests.lean ====
section
/-! DEFINITION. The management requests but Configure: each arrives whole on FDI as Sync, its body and End (R1, R4; log 1). -/

namespace Sys2Proof.Machine

/-- STATUS_QUERY: a Status Query arrives (R184). -/
def execStatusQuery (f : FeedFrame) (s : State) : Host.Outcome State Fault Refusal :=
  live s (fun s => s.receive (frameBody Kind.statusQuery.code f))

/-- COUNTER_READ: a Counter Read without Clear arrives (R185). -/
def execCounterRead (f : FeedFrame) (s : State) : Host.Outcome State Fault Refusal :=
  live s (fun s => s.receive (frameBody Kind.counterRead.code f))

/-- COUNTER_READ_CLEAR: a Counter Read with Clear arrives (R185). -/
def execCounterReadClear (f : FeedFrame) (s : State) : Host.Outcome State Fault Refusal :=
  live s (fun s => s.receive (frameBody Kind.counterRead.code f))

/-- EVENT_CLEAR: an Event Clear arrives (R187). -/
def execEventClear (f : FeedFrame) (s : State) : Host.Outcome State Fault Refusal :=
  live s (fun s => s.receive (frameBody Kind.eventClear.code f))

/-- EVENT_ENABLE: an Event Enable arrives (R187). -/
def execEventEnable (f : FeedFrame) (s : State) : Host.Outcome State Fault Refusal :=
  live s (fun s => s.receive (frameBody Kind.eventEnable.code f))

/-- FREEZE: a Freeze arrives (R189). -/
def execFreeze (f : FeedFrame) (s : State) : Host.Outcome State Fault Refusal :=
  live s (fun s => s.receive (frameBody Kind.freeze.code f))

/-- UNFREEZE: an Unfreeze arrives (R189). -/
def execUnfreeze (f : FeedFrame) (s : State) : Host.Outcome State Fault Refusal :=
  live s (fun s => s.receive (frameBody Kind.unfreeze.code f))

/-- ADVANCE: an Advance arrives (R128). -/
def execAdvance (f : FeedFrame) (s : State) : Host.Outcome State Fault Refusal :=
  live s (fun s => s.receive (frameBody Kind.advance.code f))

/-- BLANK: a Blank arrives (R133). -/
def execBlank (f : FeedFrame) (s : State) : Host.Outcome State Fault Refusal :=
  live s (fun s => s.receive (frameBody Kind.blank.code f))

/-- UNBLANK: an Unblank arrives (R133). -/
def execUnblank (f : FeedFrame) (s : State) : Host.Outcome State Fault Refusal :=
  live s (fun s => s.receive (frameBody Kind.unblank.code f))

/-- TAKE_LINK: a Take Link arrives (R178, R179). -/
def execTakeLink (f : FeedFrame) (s : State) : Host.Outcome State Fault Refusal :=
  live s (fun s => s.receive (frameBody Kind.takeLink.code f))

/-- GIVE_LINK: a Give Link arrives (R179). -/
def execGiveLink (f : FeedFrame) (s : State) : Host.Outcome State Fault Refusal :=
  live s (fun s => s.receive (frameBody Kind.giveLink.code f))

/-- READ_BACK_DEPARTURE: a Read Back of the departure table arrives (R43, R190). -/
def execReadBackDeparture (f : FeedFrame) (s : State) : Host.Outcome State Fault Refusal :=
  live s (fun s => s.receive (frameBody Kind.readBack.code f))

/-- READ_BACK_CALLING_LIST: a Read Back of the calling list table arrives (R63, R190). -/
def execReadBackCallingList (f : FeedFrame) (s : State) : Host.Outcome State Fault Refusal :=
  live s (fun s => s.receive (frameBody Kind.readBack.code f))

/-- READ_BACK_NAME: a Read Back of the name table arrives (R97, R190). -/
def execReadBackName (f : FeedFrame) (s : State) : Host.Outcome State Fault Refusal :=
  live s (fun s => s.receive (frameBody Kind.readBack.code f))

/-- READ_BACK_FONT: a Read Back of the font table arrives (R114, R190). -/
def execReadBackFont (f : FeedFrame) (s : State) : Host.Outcome State Fault Refusal :=
  live s (fun s => s.receive (frameBody Kind.readBack.code f))

/-- READ_BACK_GLYPH: a Read Back of the glyph table arrives (R115, R190). -/
def execReadBackGlyph (f : FeedFrame) (s : State) : Host.Outcome State Fault Refusal :=
  live s (fun s => s.receive (frameBody Kind.readBack.code f))

/-- READ_BACK_HEAD: a Read Back of the head table arrives (R135, R190). -/
def execReadBackHead (f : FeedFrame) (s : State) : Host.Outcome State Fault Refusal :=
  live s (fun s => s.receive (frameBody Kind.readBack.code f))

/-- READ_BACK_FIELD: a Read Back of the field table arrives (R135, R190). -/
def execReadBackField (f : FeedFrame) (s : State) : Host.Outcome State Fault Refusal :=
  live s (fun s => s.receive (frameBody Kind.readBack.code f))

/-- READ_BACK_NOTICE: a Read Back of the notice table arrives (R135, R190, R201). -/
def execReadBackNotice (f : FeedFrame) (s : State) : Host.Outcome State Fault Refusal :=
  live s (fun s => s.receive (frameBody Kind.readBack.code f))

/-- READ_NEXT: a Read Next arrives (R190). -/
def execReadNext (f : FeedFrame) (s : State) : Host.Outcome State Fault Refusal :=
  live s (fun s => s.receive (frameBody Kind.readNext.code f))

/-- ADDRESS_ASSIGN: an Address Assign arrives (R191). -/
def execAddressAssign (f : FeedFrame) (s : State) : Host.Outcome State Fault Refusal :=
  live s (fun s => s.receive (frameBody Kind.addressAssign.code f))

/-- RESTART: a Restart arrives (R192). -/
def execRestart (f : FeedFrame) (s : State) : Host.Outcome State Fault Refusal :=
  live s (fun s => s.receive (frameBody Kind.restart.code f))

end Sys2Proof.Machine
end

