-- ==== Sys2Proof/Machine/TimeEvents.lean ====
section
/-! DEFINITION. The Station Clock's events, the blocks' shares of a second event, frame events and the painting of a field. -/

namespace Sys2Proof.Machine

/-- INTERNAL_TICK: an internal tick in INTERNAL mode (R69). -/
def execInternalTick (s : State) : Host.Outcome State Fault Refusal := live s State.internalTick

/-- SECP_RISING_EDGE: a rising edge on SECP, so many microseconds after the end of reset (R70, R72; log 12). -/
def execSecpRisingEdge (micros : Nat) (s : State) : Host.Outcome State Fault Refusal := live s (fun s => s.secpEdge micros)

/-- CLOCK_WATCH_EXPIRY: 2.5 seconds without an edge (R71). -/
def execClockWatchExpiry (s : State) : Host.Outcome State Fault Refusal := live s State.watchExpires

/-- SCHEDULED_INSTANT_TICK: an internal tick at a scheduled instant in LOST (R71). -/
def execScheduledInstantTick (s : State) : Host.Outcome State Fault Refusal := live s State.scheduledTick

/-- LINGER_EXPIRY: the Departure Store's share of a second event (R38; log 9). -/
def execLingerExpiry (s : State) : Host.Outcome State Fault Refusal := live s (State.departureSecond true none)

/-- BUILD_TIMEOUT: the Calling List Store's share of a second event (R59; log 9). -/
def execBuildTimeout (s : State) : Host.Outcome State Fault Refusal := live s State.buildSecond

/-- DWELL_EXPIRY: the heads in DWELL count a second event (R126; log 9). -/
def execDwellExpiry (s : State) : Host.Outcome State Fault Refusal :=
  live s (fun s => if s.mgmt.frozen then s else s.dwellSecond)

/-- HOLD_TIMEOUT: the heads in HOLD count a second event (R127; log 9). -/
def execHoldTimeout (s : State) : Host.Outcome State Fault Refusal :=
  live s (fun s => if s.mgmt.frozen then s else s.holdSecond)

/-- NOTICE_EXPIRY: the notice slots count a second event (R130; log 9). -/
def execNoticeExpiry (s : State) : Host.Outcome State Fault Refusal :=
  live s (fun s => if s.mgmt.frozen then s else s.noticeSecond)

/-- FREEZE_TIMEOUT: Management's share of a second event (R189; log 9). -/
def execFreezeTimeout (s : State) : Host.Outcome State Fault Refusal := live s State.freezeSecond

/-- FRAME_TIMER_EXPIRY: the internal frame timer expires (R171). -/
def execFrameTimerExpiry (s : State) : Host.Outcome State Fault Refusal := live s State.frameTimer

/-- FSYNC_RISING_EDGE: a rising edge on FSYNC (R171). -/
def execFsyncRisingEdge (s : State) : Host.Outcome State Fault Refusal := live s State.fsyncEdge

/-- FSYNC_WATCH_EXPIRY: 100 ms without an edge on FSYNC (R171). -/
def execFsyncWatchExpiry (s : State) : Host.Outcome State Fault Refusal := live s State.fsyncWatch

/-- FIELD_PAINT: the composition in flight of a head paints its next field (R141). -/
def execFieldPaint (head : HeadIx) (s : State) : Host.Outcome State Fault Refusal := live s (fun s => s.paintNext head)

end Sys2Proof.Machine
end

