-- ==== Sys2Proof/Machine/Dispatch.lean ====
section
/-! DEFINITION. exec: one arm for each command. -/

namespace Sys2Proof.Machine

/-- The effect of a command on everything but the queue. -/
def exec (i : Instr) (s : State) : Host.Outcome State Fault Refusal :=
  match i with
  | .hardReset => Sys2Proof.Machine.execHardReset s
  | .hardResetEnd straps => Sys2Proof.Machine.execHardResetEnd straps s
  | .idleMarker => Sys2Proof.Machine.execIdleMarker s
  | .syncMarker => Sys2Proof.Machine.execSyncMarker s
  | .dataByte b => Sys2Proof.Machine.execDataByte b s
  | .invalidCharacter => Sys2Proof.Machine.execInvalidCharacter s
  | .frameArrival => Sys2Proof.Machine.execFrameArrival s
  | .idleGapEnd => Sys2Proof.Machine.execIdleGapEnd s
  | .forwardedFrameSent => Sys2Proof.Machine.execForwardedFrameSent s
  | .replySent => Sys2Proof.Machine.execReplySent s
  | .departurePut f => Sys2Proof.Machine.execDeparturePut f s
  | .departureAmend f => Sys2Proof.Machine.execDepartureAmend f s
  | .departureRemove f => Sys2Proof.Machine.execDepartureRemove f s
  | .stops f => Sys2Proof.Machine.execStops f s
  | .stopAmend f => Sys2Proof.Machine.execStopAmend f s
  | .noticePut f => Sys2Proof.Machine.execNoticePut f s
  | .noticeAppend f => Sys2Proof.Machine.execNoticeAppend f s
  | .noticeClear f => Sys2Proof.Machine.execNoticeClear f s
  | .timeSet f => Sys2Proof.Machine.execTimeSet f s
  | .namePut f => Sys2Proof.Machine.execNamePut f s
  | .nameDrop f => Sys2Proof.Machine.execNameDrop f s
  | .namesClear f => Sys2Proof.Machine.execNamesClear f s
  | .fontDefine f => Sys2Proof.Machine.execFontDefine f s
  | .glyphPut f => Sys2Proof.Machine.execGlyphPut f s
  | .headDefine f => Sys2Proof.Machine.execHeadDefine f s
  | .headDrop f => Sys2Proof.Machine.execHeadDrop f s
  | .fieldPut f => Sys2Proof.Machine.execFieldPut f s
  | .fieldDrop f => Sys2Proof.Machine.execFieldDrop f s
  | .brightnessTablePut f => Sys2Proof.Machine.execBrightnessTablePut f s
  | .statusQuery f => Sys2Proof.Machine.execStatusQuery f s
  | .counterRead f => Sys2Proof.Machine.execCounterRead f s
  | .counterReadClear f => Sys2Proof.Machine.execCounterReadClear f s
  | .eventClear f => Sys2Proof.Machine.execEventClear f s
  | .eventEnable f => Sys2Proof.Machine.execEventEnable f s
  | .configureZone f => Sys2Proof.Machine.execConfigureZone f s
  | .configureGroup f => Sys2Proof.Machine.execConfigureGroup f s
  | .configureOwnPlatform f => Sys2Proof.Machine.execConfigureOwnPlatform f s
  | .configureDayStart f => Sys2Proof.Machine.execConfigureDayStart f s
  | .configureOverdueLimit f => Sys2Proof.Machine.execConfigureOverdueLimit f s
  | .configureDelayedLimit f => Sys2Proof.Machine.execConfigureDelayedLimit f s
  | .configureDepartedLinger f => Sys2Proof.Machine.execConfigureDepartedLinger f s
  | .configureMovedLinger f => Sys2Proof.Machine.execConfigureMovedLinger f s
  | .configureDwell f => Sys2Proof.Machine.execConfigureDwell f s
  | .configureDwellHoldLimit f => Sys2Proof.Machine.execConfigureDwellHoldLimit f s
  | .configureBuildTimeout f => Sys2Proof.Machine.execConfigureBuildTimeout f s
  | .configureFreezeTimeout f => Sys2Proof.Machine.execConfigureFreezeTimeout f s
  | .configureStrictNames f => Sys2Proof.Machine.execConfigureStrictNames f s
  | .configureFramePeriod f => Sys2Proof.Machine.execConfigureFramePeriod f s
  | .configureSyncSource f => Sys2Proof.Machine.execConfigureSyncSource f s
  | .configureAckTimeout f => Sys2Proof.Machine.execConfigureAckTimeout f s
  | .configureHysteresis f => Sys2Proof.Machine.execConfigureHysteresis f s
  | .freeze f => Sys2Proof.Machine.execFreeze f s
  | .unfreeze f => Sys2Proof.Machine.execUnfreeze f s
  | .advance f => Sys2Proof.Machine.execAdvance f s
  | .blank f => Sys2Proof.Machine.execBlank f s
  | .unblank f => Sys2Proof.Machine.execUnblank f s
  | .takeLink f => Sys2Proof.Machine.execTakeLink f s
  | .giveLink f => Sys2Proof.Machine.execGiveLink f s
  | .readBackDeparture f => Sys2Proof.Machine.execReadBackDeparture f s
  | .readBackCallingList f => Sys2Proof.Machine.execReadBackCallingList f s
  | .readBackName f => Sys2Proof.Machine.execReadBackName f s
  | .readBackFont f => Sys2Proof.Machine.execReadBackFont f s
  | .readBackGlyph f => Sys2Proof.Machine.execReadBackGlyph f s
  | .readBackHead f => Sys2Proof.Machine.execReadBackHead f s
  | .readBackField f => Sys2Proof.Machine.execReadBackField f s
  | .readBackNotice f => Sys2Proof.Machine.execReadBackNotice f s
  | .readNext f => Sys2Proof.Machine.execReadNext f s
  | .addressAssign f => Sys2Proof.Machine.execAddressAssign f s
  | .restart f => Sys2Proof.Machine.execRestart f s
  | .internalTick => Sys2Proof.Machine.execInternalTick s
  | .secpRisingEdge micros => Sys2Proof.Machine.execSecpRisingEdge micros s
  | .clockWatchExpiry => Sys2Proof.Machine.execClockWatchExpiry s
  | .scheduledInstantTick => Sys2Proof.Machine.execScheduledInstantTick s
  | .lingerExpiry => Sys2Proof.Machine.execLingerExpiry s
  | .buildTimeout => Sys2Proof.Machine.execBuildTimeout s
  | .dwellExpiry => Sys2Proof.Machine.execDwellExpiry s
  | .holdTimeout => Sys2Proof.Machine.execHoldTimeout s
  | .noticeExpiry => Sys2Proof.Machine.execNoticeExpiry s
  | .freezeTimeout => Sys2Proof.Machine.execFreezeTimeout s
  | .frameTimerExpiry => Sys2Proof.Machine.execFrameTimerExpiry s
  | .fsyncRisingEdge => Sys2Proof.Machine.execFsyncRisingEdge s
  | .fsyncWatchExpiry => Sys2Proof.Machine.execFsyncWatchExpiry s
  | .fieldPaint head => Sys2Proof.Machine.execFieldPaint head s
  | .rowSent holdn => Sys2Proof.Machine.execRowSent holdn s
  | .holdnRelease => Sys2Proof.Machine.execHoldnRelease s
  | .holdLimitExpiry => Sys2Proof.Machine.execHoldLimitExpiry s
  | .ackReceived head ambient => Sys2Proof.Machine.execAckReceived head ambient s
  | .nakReceived head code => Sys2Proof.Machine.execNakReceived head code s
  | .ackTimeout => Sys2Proof.Machine.execAckTimeout s
  | .answerNotWellFormed groups => Sys2Proof.Machine.execAnswerNotWellFormed groups s
  | .lreqAsserted => Sys2Proof.Machine.execLreqAsserted s
  | .lreqReleased => Sys2Proof.Machine.execLreqReleased s
  | .lgntAsserted => Sys2Proof.Machine.execLgntAsserted s
  | .activity => Sys2Proof.Machine.execActivity s
  | .grantWaitExpiry => Sys2Proof.Machine.execGrantWaitExpiry s
  | .headerSent holdn => Sys2Proof.Machine.execHeaderSent holdn s

end Sys2Proof.Machine
end

