-- ==== Sys2Proof/Safety.lean ====
section
/-! DEFINITION. What stays true of the part along every run: one predicate for each block, each decidable. -/

namespace Sys2Proof.Machine

/-- Every counter is a 16-bit value (00_scope 6.6, R19). -/
abbrev State.CountersBounded (s : State) : Prop := ∀ i : Fin 40, s.counters[i] ≤ Config.counterMax

/-- The bounds of the Feed Ring Port (R3, R15, R16, R18): the buffer is empty outside BODY (log 15). -/
abbrev Feed.Bounded (f : Feed) : Prop :=
  f.buffer.length ≤ Config.maxBody ∧ (f.rx ≠ .body → f.buffer = []) ∧ f.queue.length ≤ Config.maxForward ∧
    f.replyWait ≤ 4 ∧ f.address ≤ 120 ∧ f.zone ≤ 255 ∧ f.group ≤ 255

/-- The Departure Table is ordered by its keys, no two entries share a service, and it holds at most 32 (R22, R23). -/
abbrev Board.Ordered (dayStart : Nat) (b : Board) : Prop :=
  b.table.Pairwise (fun x y => keyLt (x.key dayStart) (y.key dayStart) = true) ∧ (b.table.map Entry.id).Nodup ∧
    b.table.length ≤ Config.maxEntries

/-- The Removal Memory holds at most 16 records, one for a service, and none for a service in the table (R26). -/
abbrev Board.Remembers (b : Board) : Prop :=
  b.memory.length ≤ Config.maxRecords ∧ (b.memory.map Removal.id).Nodup ∧
    ∀ r ∈ b.memory, ∀ e ∈ b.table, r.id ≠ e.id

/-- Every one of the 160 blocks is free, in exactly one complete list, or in exactly one open build (R48). -/
abbrev Board.Conserves (b : Board) : Prop :=
  (b.free ++ b.table.flatMap Entry.blocks).Perm (List.range Config.poolBlocks)

/-- The Departure Table, the Removal Memory and the Calling Pool together. -/
abbrev State.BoardSound (s : State) : Prop :=
  s.board.Ordered s.mgmt.settings.dayStart ∧ s.board.Remembers ∧ s.board.Conserves

/-- Every block of a chain but the last holds 8 stops, and the last holds 1 to 8 (R49). -/
def chainFull : List Block → Bool
  | [] => true
  | [b] => decide (1 ≤ b.stops.length) && decide (b.stops.length ≤ Config.blockStops)
  | b :: rest => decide (b.stops.length = Config.blockStops) && chainFull rest

/-- A calling list is filled block by block and holds at most 48 stops (R49). -/
abbrev ChainSound (c : List Block) : Prop := chainFull c = true ∧ chainLength c ≤ Config.maxStops

/-- The complete list and the build of an entry (R49, R50). -/
abbrev Entry.ListsSound (e : Entry) : Prop :=
  (∀ l ∈ e.list, ChainSound l.chain) ∧ (∀ b ∈ e.build, ChainSound b.chain ∧ 1 ≤ b.expectedPart ∧ b.expectedPart ≤ 8)

/-- Every entry's lists (R49, R50). -/
abbrev State.ListsSound (s : State) : Prop := ∀ e ∈ s.board.table, e.ListsSound

/-- The clock value is a time of day, and only a PULSE clock loses its source (R68, R69). -/
abbrev State.ClockSound (s : State) : Prop :=
  s.clock.hours ≤ 23 ∧ s.clock.minutes ≤ 59 ∧ s.clock.seconds ≤ 59 ∧ (s.clock.lost = true → s.straps.csrc = .pulse)

/-- The Name Table is in code order and holds at most 1,024 entries (R82). -/
abbrev State.NamesSound (s : State) : Prop :=
  s.names.table.Pairwise (fun x y => x.code < y.code) ∧ s.names.table.length ≤ Config.maxNames

/-- A font record: height 5..16 while DEFINED, and 0 with no cells while not; a loaded cell has its advance and height (R102,
R103). -/
abbrev FontRecord.Sound (r : FontRecord) : Prop :=
  (r.defined = true → 5 ≤ r.height ∧ r.height ≤ 16) ∧ (r.defined = false → r.height = 0 ∧ r.cells = []) ∧
    r.nominalGap ≤ 3 ∧ r.minGap ≤ r.nominalGap ∧
    ∀ c ∈ r.cells, 1 ≤ c.2.advance ∧ c.2.advance ≤ 16 ∧ c.2.rows.length = r.height

/-- The five records (R102, R103). -/
abbrev State.FontsSound (s : State) : Prop := ∀ id : Fin 5, (s.fonts.get id.val).Sound

/-- A ticker's position is within its loop: 0 ≤ p < 16 L (R153). -/
abbrev Ticker.Within (k : Ticker) : Prop := k.pos < 16 * k.loop

/-- The head is in HOLD and the hold ends at the second event now counted (R127). -/
def Head.holdEnding (h : Head) : Bool :=
  match h.mode with
  | .pages p => decide (p.phase = .hold) && decide (p.hold ≤ 1)
  | .overlay _ _ => false

/-- The contexts saved in a head's Shadow. -/
def Head.savedTickers (h : Head) : List (Nat × Ticker) :=
  match h.mode with
  | .pages _ => []
  | .overlay _ shadow => shadow.tickers

/-- Ticker contexts are in the order of their fields, one for a field (R151), and each is within its loop (R153). -/
abbrev TickersSound (l : List (Nat × Ticker)) : Prop := l.Pairwise (fun a b => a.1 < b.1) ∧ ∀ t ∈ l, t.2.Within

/-- A DEFINED head has its geometry, its fields are at indices 0..23 in ascending order, and its ticker contexts are sound, those of
the Shadow too (R118, R153). -/
abbrev Head.Sound (h : Head) : Prop :=
  32 ≤ h.width ∧ h.width ≤ 256 ∧ h.width % 8 = 0 ∧ 8 ≤ h.height ∧ h.height ≤ 32 ∧
    h.fields.Pairwise (fun a b => a.1 < b.1) ∧ (∀ f ∈ h.fields, f.1 ≤ 23) ∧
    TickersSound h.tickers ∧ TickersSound h.savedTickers ∧ ∀ k ∈ h.overlayTicker, k.Within

/-- Every DEFINED head (R118, R153). -/
abbrev State.HeadsSound (s : State) : Prop := ∀ i : HeadIx, ∀ h ∈ s.head i, h.Sound

/-- A composition is in flight only on a DEFINED head, and its back is COMPOSING (R139, R141, R158). -/
abbrev State.CompositionsSound (s : State) : Prop :=
  ∀ i : HeadIx, (s.comps.get i).isSome = true →
    (s.head i).isSome = true ∧ (s.buffers.get i).backState = .composing

/-- No swap is left undone while the part runs (R159). -/
abbrev State.SwapsDone (s : State) : Prop :=
  s.inReset = false → ∀ i : HeadIx,
    ¬ ((s.buffers.get i).backState = .complete ∧ ((s.buffers.get i).frontState = .sent ∨ s.sendable i = false) ∧
      s.sendingTo i = false)

/-- The ownership state is one of the role's (R177, R178). -/
def roleOwns (r : Role) (o : Ownership) : Bool :=
  match r, o with
  | .primary, .owning | .primary, .releasing | .primary, .granted => true
  | .standby, .owning | .standby, .idle | .standby, .waiting => true
  | _, _ => false

/-- The ownership state is one of the role's, only a Standby has a Give Link waiting, and the part sends no head frame while
it does not own the link (R177 to R179). -/
abbrev State.OwnershipSound (s : State) : Prop :=
  roleOwns s.straps.role s.link.owner = true ∧ (s.link.giveWaiting = true → s.straps.role = .standby) ∧
    (s.link.sending.isSome = true → s.ownsLink = true)

/-- A head index's levels and counts (R166, R169, R170, R174): a head that is not ABSENT keeps its probe-due mark clear. -/
abbrev LinkHead.Sound (h : LinkHead) : Prop :=
  h.misses ≤ 3 ∧ h.autoLevel ≤ 15 ∧ h.frameNumber ≤ 15 ∧ (h.probeDue = true → h.state = .absent) ∧
    (h.state = .absent → h.misses = 3)

/-- The head states, and the fifteen thresholds that never decrease (R169, R174). -/
abbrev State.LinkSound (s : State) : Prop :=
  (∀ i : HeadIx, (s.link.heads.get i).Sound) ∧ s.link.thresholds.length = 15 ∧
    s.link.thresholds.Pairwise (fun a b => a ≤ b)

/-- Every setting is in its range (R188). -/
abbrev Settings.InRange (x : Settings) : Prop :=
  1 ≤ x.ownPlatform.number ∧ x.ownPlatform.number ≤ 99 ∧ x.dayStart ≤ 1439 ∧ 1 ≤ x.overdueLimit ∧ x.overdueLimit ≤ 120 ∧
    1 ≤ x.delayedLimit ∧ x.delayedLimit ≤ 240 ∧ x.departedLinger ≤ 600 ∧ x.movedLinger ≤ 30 ∧ 2 ≤ x.dwell ∧ x.dwell ≤ 60 ∧
    x.dwellHoldLimit ≤ 60 ∧ 1 ≤ x.buildTimeout ∧ x.buildTimeout ≤ 60 ∧ 1 ≤ x.freezeTimeout ∧ x.freezeTimeout ≤ 255 ∧
    (x.framePeriod = 20 ∨ x.framePeriod = 40) ∧ 1 ≤ x.ackTimeout ∧ x.ackTimeout ≤ 255 ∧ x.hysteresis ≤ 32

/-- The settings, and the Freeze count: 0 exactly while not frozen (R188, R189). -/
abbrev State.MgmtSound (s : State) : Prop :=
  s.mgmt.settings.InRange ∧ s.mgmt.freezeRemaining ≤ 255 ∧ (s.mgmt.frozen = true ↔ s.mgmt.freezeRemaining ≠ 0)

/-- A level event whose condition holds is pending (R186). -/
abbrev State.LevelsHeld (s : State) : Prop := s.mgmt.pendingEvents ||| s.levels = s.mgmt.pendingEvents

end Sys2Proof.Machine

namespace Sys2Proof

open Machine in
/-- The frame a command delivers, with its kind; none for a command that delivers none (log 1). -/
def Instr.frame : Instr → Option (Kind × FeedFrame)
  | .departurePut f => some (.departurePut, f)
  | .departureAmend f => some (.departureAmend, f)
  | .departureRemove f => some (.departureRemove, f)
  | .stops f => some (.stops, f)
  | .stopAmend f => some (.stopAmend, f)
  | .noticePut f => some (.noticePut, f)
  | .noticeAppend f => some (.noticePut, f)
  | .noticeClear f => some (.noticeClear, f)
  | .timeSet f => some (.timeSet, f)
  | .namePut f => some (.namePut, f)
  | .nameDrop f => some (.nameDrop, f)
  | .namesClear f => some (.namesClear, f)
  | .fontDefine f => some (.fontDefine, f)
  | .glyphPut f => some (.glyphPut, f)
  | .headDefine f => some (.headDefine, f)
  | .headDrop f => some (.headDrop, f)
  | .fieldPut f => some (.fieldPut, f)
  | .fieldDrop f => some (.fieldDrop, f)
  | .brightnessTablePut f => some (.brightnessTablePut, f)
  | .statusQuery f => some (.statusQuery, f)
  | .counterRead f => some (.counterRead, f)
  | .counterReadClear f => some (.counterRead, f)
  | .eventClear f => some (.eventClear, f)
  | .eventEnable f => some (.eventEnable, f)
  | .freeze f => some (.freeze, f)
  | .unfreeze f => some (.unfreeze, f)
  | .advance f => some (.advance, f)
  | .blank f => some (.blank, f)
  | .unblank f => some (.unblank, f)
  | .takeLink f => some (.takeLink, f)
  | .giveLink f => some (.giveLink, f)
  | .readBackDeparture f => some (.readBack, f)
  | .readBackCallingList f => some (.readBack, f)
  | .readBackName f => some (.readBack, f)
  | .readBackFont f => some (.readBack, f)
  | .readBackGlyph f => some (.readBack, f)
  | .readBackHead f => some (.readBack, f)
  | .readBackField f => some (.readBack, f)
  | .readBackNotice f => some (.readBack, f)
  | .readNext f => some (.readNext, f)
  | .addressAssign f => some (.addressAssign, f)
  | .restart f => some (.restart, f)
  | .configureZone f => some (.configure, f)
  | .configureGroup f => some (.configure, f)
  | .configureOwnPlatform f => some (.configure, f)
  | .configureDayStart f => some (.configure, f)
  | .configureOverdueLimit f => some (.configure, f)
  | .configureDelayedLimit f => some (.configure, f)
  | .configureDepartedLinger f => some (.configure, f)
  | .configureMovedLinger f => some (.configure, f)
  | .configureDwell f => some (.configure, f)
  | .configureDwellHoldLimit f => some (.configure, f)
  | .configureBuildTimeout f => some (.configure, f)
  | .configureFreezeTimeout f => some (.configure, f)
  | .configureStrictNames f => some (.configure, f)
  | .configureFramePeriod f => some (.configure, f)
  | .configureSyncSource f => some (.configure, f)
  | .configureAckTimeout f => some (.configure, f)
  | .configureHysteresis f => some (.configure, f)
  | .hardReset | .hardResetEnd _ | .idleMarker | .syncMarker | .dataByte _ | .invalidCharacter | .frameArrival
  | .idleGapEnd | .forwardedFrameSent | .replySent | .internalTick | .secpRisingEdge _ | .clockWatchExpiry
  | .scheduledInstantTick | .lingerExpiry | .buildTimeout | .dwellExpiry | .holdTimeout | .noticeExpiry
  | .freezeTimeout | .frameTimerExpiry | .fsyncRisingEdge | .fsyncWatchExpiry | .fieldPaint _ | .rowSent _
  | .holdnRelease | .holdLimitExpiry | .ackReceived _ _ | .nakReceived _ _ | .ackTimeout | .answerNotWellFormed _
  | .lreqAsserted | .lreqReleased | .lgntAsserted | .activity | .grantWaitExpiry | .headerSent _ => none

end Sys2Proof

namespace Sys2Proof.Machine

/-! ### Frames and results, as the statements speak of them -/

/-- Commands executed one after another, stopping at the first that answers no next state. -/
def execAll (s : State) : List Instr → Host.Outcome State Fault Refusal
  | [] => .next s
  | c :: rest =>
    match exec c s with
    | .next t => execAll t rest
    | .fault r => .fault r
    | .refused r => .refused r

/-- The part runs, and its receiver is in step between frames. -/
abbrev State.Listens (s : State) : Prop := s.inReset = false ∧ s.feed.rx = .wait ∧ s.feed.buffer = []

/-- A well-formed frame in scope, and no answer travelling to the head-end (R8 to R10). -/
abbrev State.Takes (s : State) (f : FeedFrame) : Prop :=
  s.Listens ∧ f.wf = true ∧ f.flags.getLsbD 1 = false ∧ f.scope.all s.feed.matchesPair = true

/-- The Destination is the unit's own drop address, 1..120 (R11). -/
abbrev State.IsOwn (s : State) (f : FeedFrame) : Prop :=
  f.dest.toNat = s.feed.address ∧ 1 ≤ s.feed.address ∧ s.feed.address ≤ 120

/-- A data frame the unit is to act on (R11). -/
abbrev State.TakesData (s : State) (f : FeedFrame) : Prop := s.Takes f ∧ (s.IsOwn f ∨ f.dest = 255)

/-- A management request the unit is to act on (R11, R12). -/
abbrev State.TakesRequest (s : State) (f : FeedFrame) : Prop := s.Takes f ∧ s.IsOwn f ∧ s.feed.slot = none

/-- The Outcome reply to a frame of a kind, as it enters the Reply Slot (R14, R183). -/
def State.outcomeFor (s : State) (f : FeedFrame) (k : Kind) (code : OutcomeCode) : List Byte :=
  replyBody outcomeReplyKind (b8 s.feed.address) f.tag [k.code, b8 code.code]

/-- Two states agree but for the out-port and the feed counters, and the first has its levels pending. -/
abbrev State.Matches (t u : State) : Prop :=
  t = { u with
    feed := t.feed
    counters := t.counters
    mgmt := { u.mgmt with pendingEvents := u.mgmt.pendingEvents ||| u.levels } } ∧
  t.feed.rx = u.feed.rx ∧ t.feed.buffer = u.feed.buffer ∧ t.feed.address = u.feed.address ∧ t.feed.zone = u.feed.zone ∧
  t.feed.group = u.feed.group ∧ ∀ c, c ∉ feedCounters → t.counter c = u.counter c

/-- The command that delivers a data frame completes: what it leaves is `u` but for the out-port and the feed counters, and a
unicast frame with Want Outcome finds its outcome in an empty Reply Slot (R12). -/
abbrev Completes (c : Instr) (f : FeedFrame) (k : Kind) (s u : State) (code : OutcomeCode) : Prop :=
  ∃ t, exec c s = .next t ∧ t.Matches u ∧
    (s.IsOwn f → f.flags.getLsbD 0 = true → s.feed.slot = none → t.feed.slot = some (s.outcomeFor f k code))

/-- The command that delivers a management request completes: what it leaves is `u` but for the out-port and the feed
counters, and the Reply Slot holds the reply, if there is one (R12, R183). -/
abbrev Answers (c : Instr) (s u : State) (reply : Option (List Byte)) : Prop :=
  ∃ t, exec c s = .next t ∧ t.Matches u ∧ t.feed.slot = reply

/-- The Outcome reply of a request that asks for one (R183). -/
def State.outcomeIf (s : State) (f : FeedFrame) (k : Kind) (code : OutcomeCode) : Option (List Byte) :=
  if f.flags.getLsbD 0 then some (s.outcomeFor f k code) else none

/-- Reply bytes that agree with a content wherever it has a value (log 19). -/
abbrev Fits (l : List Byte) (content : List (Option Byte)) : Prop :=
  l.length = content.length ∧ ∀ (j : Nat) (b : Byte), content[j]? = some (some b) → l[j]? = some b

/-- A head index's record, composition and buffers are as they were. -/
abbrev State.SameAt (s u : State) (i : HeadIx) : Prop :=
  u.heads.get i = s.heads.get i ∧ u.comps.get i = s.comps.get i ∧ u.buffers.get i = s.buffers.get i

/-- The composition of a head index, if it had one, is abandoned (R142). -/
abbrev State.AbandonedAt (s u : State) (i : HeadIx) : Prop :=
  u.comps.get i = none ∧ u.buffers.get i =
    if (s.comps.get i).isSome then { s.buffers.get i with backState := .idle } else s.buffers.get i

/-- The buffers of a head whose composition completes with these pixels: COMPLETE, or swapped (R141, R159). -/
def Buffers.completed (b : Buffers) (px : Pixels) (swaps : Bool) : Buffers :=
  if swaps then ⟨px, b.front, .unsent, .idle⟩ else { b with back := px, backState := .complete }

/-- The composition of a head index completes with these pixels, and the buffers swap when the front is SENT or the head not
sendable, and no head frame of it is in transmission (R159). At a frame event that begins such a head frame either is left open
(log 8). -/
abbrev State.CompletesAt (s u : State) (i : HeadIx) (px : Pixels) : Prop :=
  u.comps.get i = none ∧ ∃ swaps, u.buffers.get i = (s.buffers.get i).completed px swaps ∧
    (swaps = true → ((s.buffers.get i).frontState = .sent ∨ s.sendable i = false) ∧ s.sendingTo i = false) ∧
    ((s.buffers.get i).frontState = .sent ∨ s.sendable i = false → u.sendingTo i = false → swaps = true)

/-- The head frame that begins to a head, from what the Panel Link holds for its index, its Blank flag and its record (R166,
R174). The frame number is the increased one (log 35). -/
def LinkHead.frameTo (l : LinkHead) (blank : Bool) (i : HeadIx) (h : Head) : HeadFrame where
  head := i
  width := h.width
  height := h.height
  level := match h.brightness with
    | .fixed level => level
    | .auto => l.autoLevel
  blank := blank
  frameNumber := (l.frameNumber + 1) % 16
  phase := .header
  void := false
  clearFront := false

/-- The link once a head frame has begun, with the heads still to begin in the round (R166, R170, R172). -/
def Link.begun (k : Link) (f : HeadFrame) (rest : List HeadIx) : Link :=
  { k with
    round := some rest
    sending := some f
    plo := headerSymbols f
    heads := k.heads.set f.head { k.heads.get f.head with frameNumber := f.frameNumber, probeDue := false } }

/-- A command that is no frame completes with a state, its levels pending. -/
abbrev Leaves (c : Instr) (s u : State) : Prop := exec c s = .next u.holdLevels

end Sys2Proof.Machine
end

