-- ==== Sys2Proof/Certificates/Slice0/Obligations.lean ====
section
/-! DEFINITION. The statements for the provers. `Completes`, `Answers` and `Leaves` (Safety.lean) say that a command answers a next
state and give all of that state, so each such statement is its own frame. -/

section

open Sys2Proof Sys2Proof.Machine

/-! ### Steps and resets -/

/-- A step executes the command at the front of the queue with the queue's rest; an empty queue idles (log 2). -/
def Obligations.StepRunsFrontCommand : Prop :=
  (∀ (c : Instr) (rest : List Instr) (s : State), s.pending = c :: rest → step s = exec c { s with pending := rest }) ∧
    ∀ s : State, s.pending = [] → step s = .next s

/-- Every command answers a next state, and none touches the queue, the serial, or, but for the end of a hard reset, the
straps. -/
def Obligations.EveryCommandCompletes : Prop :=
  ∀ (c : Instr) (s : State), ∃ t, exec c s = .next t ∧ t.pending = s.pending ∧ t.serial = s.serial ∧
    ((∀ x, c ≠ .hardResetEnd x) → t.straps = s.straps)

/-- A hard reset empties the feed port, cuts off what is being sent and releases every output (R20, R181, R193); until its end
the part takes no other command, but follows the level of LREQ (log 10). -/
def Obligations.HardResetHoldsThePart : Prop :=
  (∀ s : State, ∃ t, exec .hardReset s = .next t ∧ t.inReset = true ∧ t.feed.rx = .hunt ∧ t.feed.buffer = [] ∧
    t.feed.queue = [] ∧ t.feed.slot = none ∧ t.feed.tx = .free ∧ t.feed.replyWait = 0 ∧
    (∀ c ∈ feedCounters, t.counter c = 0) ∧ t.link.sending = none ∧ t.alertLow = false ∧ t.driving = false ∧
    t.lgntOut = false ∧ t.lreqOut = false) ∧
  (∀ (c : Instr) (s : State), s.inReset = true → c ≠ .hardReset → (∀ x, c ≠ .hardResetEnd x) → c ≠ .lreqAsserted →
    c ≠ .lreqReleased → exec c s = .next s) ∧
  ∀ s : State, s.inReset = true →
    exec .lreqAsserted s = .next (s.setLreq true) ∧ exec .lreqReleased s = .next (s.setLreq false)

/-- R66, at the end of a hard reset and in the state the machine starts from. -/
def Obligations.HardResetEndEmptiesBoardAndPool : Prop :=
  ∀ (straps : Straps) (s : State), s.inReset = true →
    ∃ t, exec (.hardResetEnd straps) s = .next t ∧
      ∀ u ∈ [t, State.reset], u.board.free.Perm (List.range 160) ∧ u.board.free.length = 160 ∧ u.board.table = [] ∧
        (∀ e ∈ u.board.table, e.list = none ∧ e.build = none) ∧
        (∀ c ∈ [Ctr.orphanParts, .duplicateParts, .staleParts, .buildsSuperseded, .buildsAbandoned, .listsCompleted],
          u.counter c = 0) ∧
        u.mgmt.settings.buildTimeout = 5

/-- The end of a hard reset takes the straps, and every block takes its reset value (R20, R46, R80, R100, R116, R137, R163,
R181, R193). -/
def Obligations.HardResetEndTakesTheStraps : Prop :=
  ∀ (straps : Straps) (s : State), s.inReset = true →
    ∃ t, exec (.hardResetEnd straps) s = .next t ∧ t.inReset = false ∧ t.straps = straps ∧
      t.feed.rx = .hunt ∧ t.feed.buffer = [] ∧ t.feed.queue = [] ∧ t.feed.slot = none ∧ t.feed.tx = .free ∧
      t.feed.replyWait = 0 ∧ t.feed.address = straps.adr.val ∧ t.feed.zone = 0 ∧ t.feed.group = 0 ∧
      (∀ c, t.counter c = 0) ∧ t.board.table = [] ∧ t.board.memory = [] ∧
      t.clock.hours = 0 ∧ t.clock.minutes = 0 ∧ t.clock.seconds = 0 ∧ t.clock.valid = false ∧ t.clock.lost = false ∧
      t.names.table = [] ∧ (∀ id, (t.fonts.get id).defined = false) ∧
      (∀ i, t.head i = none ∧ (t.heads.get i).blank = false ∧ (t.heads.get i).overlayNumber = 0 ∧
        t.notices.get i = none ∧ t.comps.get i = none ∧ t.buffers.get i = ⟨0, 0, .unsent, .idle⟩ ∧
        t.link.heads.get i = ⟨.unknown, 0, none, none, 8, 0, false⟩) ∧
      t.link.round = none ∧ t.link.pointer = 0 ∧ t.link.sending = none ∧
      t.link.thresholds = (List.range 15).map (fun k => 16 * (k + 1)) ∧ t.link.timeBase = .internal ∧
      t.link.period = 20 ∧
      t.link.owner = (if straps.role = .standby then .idle else if s.link.lreqIn then .granted else .owning) ∧
      t.mgmt.settings = Settings.defaults ∧ t.mgmt.pendingEvents = Event.restarted.mask ∧ t.mgmt.enable = 0xFF ∧
      t.mgmt.frozen = false ∧ t.mgmt.freezeRemaining = 0 ∧ t.mgmt.readPtr = .none ∧ t.alertLow = true

/-! ### The feed ring -/

/-- The table of R2; that the buffer is emptied whenever the receiver is not in BODY is the model's reading (log 15). -/
def Obligations.ReceiverFollowsTable : Prop :=
  ∀ s : State, s.inReset = false →
    (s.feed.rx = .hunt → Leaves .idleMarker s (s.setRx .wait []) ∧ Leaves .syncMarker s s ∧
      (∀ b, Leaves (.dataByte b) s s) ∧ Leaves .frameArrival s s ∧ Leaves .invalidCharacter s s) ∧
    (s.feed.rx = .wait → Leaves .idleMarker s (s.setRx .wait []) ∧ Leaves .syncMarker s (s.setRx .body []) ∧
      (∀ b, Leaves (.dataByte b) s s) ∧ Leaves .frameArrival s s ∧ Leaves .invalidCharacter s s) ∧
    (s.feed.rx = .body → Leaves .idleMarker s ((s.setRx .wait []).bump .symbolErrors) ∧
      Leaves .syncMarker s ((s.setRx .body []).bump .symbolErrors) ∧
      (∀ b, s.feed.buffer.length < 256 → Leaves (.dataByte b) s (s.setRx .body (s.feed.buffer ++ [b]))) ∧
      Leaves .frameArrival s ((s.setRx .wait []).arrive s.feed.buffer) ∧
      Leaves .invalidCharacter s ((s.setRx .hunt []).bump .symbolErrors))

/-- R3, clause by clause: the guard, the rest of an overlong frame, the first Idle marker after it, and a body of exactly 256
bytes; the buffer is empty outside BODY (log 15). -/
def Obligations.LengthGuardAborts : Prop :=
  (∀ (s : State) (b : Byte), s.inReset = false → s.feed.rx = .body → s.feed.buffer.length = 256 →
    Leaves (.dataByte b) s ((s.setRx .hunt []).bump .oversize)) ∧
  (∀ (s : State) (b : Byte), s.inReset = false → s.feed.rx = .body → s.feed.buffer.length < 256 →
    Leaves (.dataByte b) s (s.setRx .body (s.feed.buffer ++ [b]))) ∧
  (∀ (s : State) (b : Byte), s.inReset = false → s.feed.rx = .hunt →
    Leaves (.dataByte b) s s ∧ Leaves .frameArrival s s ∧ Leaves .idleMarker s (s.setRx .wait [])) ∧
  ∀ s : State, s.inReset = false → s.feed.rx = .body → s.feed.buffer.length = 256 →
    Leaves .frameArrival s ((s.setRx .wait []).arrive s.feed.buffer)

/-- The tests of R4 in their order, with the counter that each failure counts and the event that R6 raises; how a body too
short for a second pair is read is the model's (log 14). -/
def Obligations.ArrivalTestsInOrder : Prop :=
  ∀ (s : State) (body : List Byte), s.inReset = false → s.feed.rx = .body → s.feed.buffer = body →
    (body.length < 9 → Leaves .frameArrival s ((s.setRx .wait []).bump .runt)) ∧
    (9 ≤ body.length →
      onesAdd (checkSum 0 (body.take (body.length - 2))) (u16 body (body.length - 2)) ≠ 0xFFFF →
      Leaves .frameArrival s (((s.setRx .wait []).bump .checkErrors).raise .feedError)) ∧
    (9 ≤ body.length →
      onesAdd (checkSum 0 (body.take (body.length - 2))) (u16 body (body.length - 2)) = 0xFFFF →
      (∀ h, parseBody body = some h → h.hop.toNat = 0 ∨ 63 < h.hop.toNat ∨ h.length.toNat ≠ h.payload.length ∨
        240 < h.length.toNat) →
      Leaves .frameArrival s ((s.setRx .wait []).bump .malformed)) ∧
    ∀ h, 9 ≤ body.length →
      onesAdd (checkSum 0 (body.take (body.length - 2))) (u16 body (body.length - 2)) = 0xFFFF →
      parseBody body = some h → 1 ≤ h.hop.toNat → h.hop.toNat ≤ 63 → h.length.toNat = h.payload.length →
      h.length.toNat ≤ 240 →
      Leaves .frameArrival s (((s.setRx .wait []).bump .framesAccepted).dispose body h)

/-- The body that a sender makes (R5, R195) passes every test of R4, and R7 reads every field of it back. A prefix marker is read
as the Kind after two pairs (R7, R10), and after one pair only where the body is too short for two (log 14). -/
def Obligations.FrameBodyReadsBack : Prop :=
  ∀ (kind : Byte) (f : FeedFrame), f.wf = true →
    (kind ≠ 0xF5 ∧ kind ≠ 0xF6 ∨ f.scope.length = 2 ∨ f.scope.length = 1 ∧ f.payload.length < 2) →
    parseBody (frameBody kind f) = some (frameHeader kind f) ∧ (frameHeader kind f).sound = true ∧
      checkHolds (frameBody kind f) = true ∧
      (frameBody kind f).length = 9 + 2 * f.scope.length + f.payload.length ∧ (frameBody kind f).length ≤ 256

/-- A command that delivers a frame is the line characters of the frame taken one after another (R1, R4; log 1). -/
def Obligations.FrameCommandIsItsLine : Prop :=
  ∀ (c : Instr) (k : Kind) (f : FeedFrame) (s : State), c.frame = some (k, f) → s.LevelsHeld →
    exec c s = execAll s ([.syncMarker] ++ (frameBody k.code f).map .dataByte ++ [.frameArrival])

/-- A data frame that the unit is to act on is counted and handed to its owner; then a unicast frame with Want Outcome has its
outcome offered, and a broadcast frame is forwarded (R4, R11, R12). -/
def Obligations.DataFrameIsHandedOver : Prop :=
  ∀ (c : Instr) (k : Kind) (f : FeedFrame) (s : State) (r : State × OutcomeCode),
    c.frame = some (k, f) → k.isData = true → s.TakesData f →
    r = ((s.bump .framesAccepted).bump .framesActedOn).own f.payload k →
    Leaves c s
      (if f.dest = 255 then r.1.forward (frameBody k.code f) (frameHeader k.code f)
      else if f.flags.getLsbD 0 then r.1.offerReply f.tag (outcomeReplyKind, [k.code, b8 r.2.code])
      else r.1)

/-- A management request that the unit is to act on is counted and handed to Management, and its reply enters the slot; an
Address Assign to destination 255, or to destination 0 at a unit without an address, is forwarded as well (R11, R12). -/
def Obligations.RequestIsHandedOver : Prop :=
  ∀ (c : Instr) (k : Kind) (f : FeedFrame) (s : State) (r : State × Option Reply),
    c.frame = some (k, f) → k.isData = false →
    r = ((s.bump .framesAccepted).bump .framesActedOn).manage (frameHeader k.code f) k →
    (s.TakesRequest f → Leaves c s (r.1.offerOpt f.tag r.2)) ∧
    (s.Takes f → s.feed.slot = none → k = .addressAssign → (f.dest = 255 ∨ f.dest = 0 ∧ s.feed.address = 0) →
      s.feed.address ≤ 120 →
      Leaves c s ((r.1.offerOpt f.tag r.2).forward (frameBody k.code f) (frameHeader k.code f)))

/-- A frame out of scope, an answer, a frame for another unit, or one other than an Address Assign to destination 0 at a unit
without an address is only forwarded: with its Hop one less and every other byte kept, when it has a hop left and the Forward Queue
a place (R9 to R11, R13, R15). -/
def Obligations.FrameForOthersIsForwarded : Prop :=
  ∀ (c : Instr) (k : Kind) (f : FeedFrame) (s : State), c.frame = some (k, f) → s.Listens → f.wf = true →
    (f.scope.all s.feed.matchesPair = false ∨ f.flags.getLsbD 1 = true ∨
      ¬ s.IsOwn f ∧ f.dest ≠ 255 ∧ ¬ (k = .addressAssign ∧ f.dest = 0 ∧ s.feed.address = 0)) →
    (f.hop = 1 → Leaves c s ((s.bump .framesAccepted).bump .expired)) ∧
    (f.hop ≠ 1 → s.feed.queue.length < 4 →
      Leaves c s (((s.bump .framesAccepted).setFeed { s.feed with
        queue := s.feed.queue ++ [frameBody k.code { f with hop := f.hop - 1 }] }.select).bump .framesForwarded)) ∧
    (f.hop ≠ 1 → 4 ≤ s.feed.queue.length → Leaves c s ((s.bump .framesAccepted).bump .forwardOverrun))

/-- A request that finds the Reply Slot full, and a request other than Address Assign to destination 255, are not acted on; a
frame of unrecognised kind, a third prefix marker taken as the Kind included, is forwarded, and answered UNKNOWN_KIND when it was
addressed here (R7, R10 to R12; log 17; log 14 for a marker after one pair). -/
def Obligations.RequestsAreTurnedAway : Prop :=
  (∀ (c : Instr) (k : Kind) (f : FeedFrame) (s : State) (r : List Byte), c.frame = some (k, f) → k.isData = false →
    s.Takes f → s.IsOwn f → s.feed.slot = some r → Leaves c s ((s.bump .framesAccepted).bump .replyBusy)) ∧
  (∀ (c : Instr) (k : Kind) (f : FeedFrame) (s : State), c.frame = some (k, f) → k.isData = false → k ≠ .addressAssign →
    s.Takes f → f.dest = 255 → s.feed.address ≤ 120 →
    Leaves c s (((s.bump .framesAccepted).bump .unknownKind).forward (frameBody k.code f) (frameHeader k.code f))) ∧
  ∀ (kind : Byte) (f : FeedFrame) (s u : State), s.inReset = false → s.feed.rx = .body →
    s.feed.buffer = frameBody kind f → f.wf = true →
    (kind ≠ 0xF5 ∧ kind ≠ 0xF6 ∨ f.scope.length = 2 ∨ f.scope.length = 1 ∧ f.payload.length < 2) →
    Kind.ofCode kind = none →
    f.flags.getLsbD 1 = false → f.scope.all s.feed.matchesPair = true →
    u = (((s.setRx .wait []).bump .framesAccepted).bump .unknownKind).forward (frameBody kind f) (frameHeader kind f) →
    Leaves .frameArrival s
      (if s.IsOwn f ∧ f.flags.getLsbD 0 = true then
        u.offerReply f.tag (outcomeReplyKind, [kind, b8 OutcomeCode.unknownKind.code])
      else u)

/-- The selections of the arbiter, and the ends of transmission (R15 to R17). -/
def Obligations.OutPortSendsInTurn : Prop :=
  (∀ s : State, s.inReset = false → s.feed.tx = .gap →
    (s.feed.slot = none → s.feed.queue = [] → Leaves .idleGapEnd s (s.setFeed { s.feed with tx := .free })) ∧
    (∀ q rest, s.feed.slot = none → s.feed.queue = q :: rest →
      Leaves .idleGapEnd s (s.setFeed { s.feed with tx := .forward q true })) ∧
    (∀ r, s.feed.slot = some r → s.feed.queue = [] →
      Leaves .idleGapEnd s (s.setFeed { s.feed with tx := .reply r, replyWait := 0 })) ∧
    (∀ r q rest, s.feed.slot = some r → s.feed.queue = q :: rest → s.feed.replyWait = 4 →
      Leaves .idleGapEnd s (s.setFeed { s.feed with tx := .reply r, replyWait := 0 })) ∧
    (∀ r q rest, s.feed.slot = some r → s.feed.queue = q :: rest → s.feed.replyWait < 4 →
      Leaves .idleGapEnd s (s.setFeed { s.feed with tx := .forward q true, replyWait := s.feed.replyWait + 1 }))) ∧
  (∀ (s : State) (q : List Byte), s.inReset = false → s.feed.tx = .forward q true →
    Leaves .forwardedFrameSent s (s.setFeed { s.feed with tx := .gap, queue := s.feed.queue.drop 1 })) ∧
  ∀ (s : State) (r : List Byte), s.inReset = false → s.feed.tx = .reply r → s.mgmt.restartWaiting = false →
    Leaves .replySent s ((s.setFeed { s.feed with tx := .gap, slot := none }).bump .repliesSent)

/-! ### Departures -/

/-- The payloads of Departure Put, Departure Amend and Stops, written as R198 lays them out, are read back value by value
(R28, R32, R51). -/
def Obligations.DeparturePayloadsReadBack : Prop :=
  (∀ (id rev sched : Nat) (expected : Option Nat) (status : Status) (platform : Platform) (dest via cars : Nat),
    1 ≤ id → id ≤ 65535 → rev ≤ 255 → sched ≤ 1439 → (∀ x ∈ expected, x ≤ 1439) →
    (status = .expected → expected ≠ none) → 1 ≤ platform.number → platform.number ≤ 99 → 1 ≤ dest → dest ≤ 4079 →
    via ≤ 4079 → cars ≤ 255 →
    PutData.ofPayload (b16 id ++ [b8 rev] ++ b16 sched ++ optBytes expected ++
        [b8 status.code, b8 platform.number, b8 platform.suffix.code] ++ b16 dest ++ b16 via ++ [b8 cars]) =
      some ⟨id, rev, sched, if status = .scheduled then none else expected, status, platform, dest, via, min cars 24,
        decide (24 < cars)⟩) ∧
  (∀ (id rev : Nat) (expected : Option (Option Nat)) (status : Option Status) (platform : Option Platform)
    (via cars : Option Nat),
    1 ≤ id → id ≤ 65535 → rev ≤ 255 → (∀ e ∈ expected, ∀ x ∈ e, x ≤ 1439) →
    (∀ p ∈ platform, 1 ≤ p.number ∧ p.number ≤ 99) → (∀ v ∈ via, v ≤ 4079) → (∀ n ∈ cars, n ≤ 255) →
    AmendData.ofPayload (b16 id ++ [b8 rev,
          flagByte [expected.isSome, status.isSome, platform.isSome, via.isSome, cars.isSome]] ++
        (expected.map optBytes).getD [] ++ (status.map (fun x => [b8 x.code])).getD [] ++
        (platform.map (fun p => [b8 p.number, b8 p.suffix.code])).getD [] ++ (via.map b16).getD [] ++
        (cars.map (fun n => [b8 n])).getD []) =
      some ⟨id, rev, expected, status, platform, via, cars.map (fun n => min n 24),
        (cars.map (fun n => decide (24 < n))).getD false⟩) ∧
  ∀ (id rev part : Nat) (final : Bool) (stops : List Stop),
    1 ≤ id → id ≤ 65535 → rev ≤ 255 → part ≤ 7 → stops.length ≤ 12 →
    (∀ x ∈ stops, 1 ≤ x.station ∧ x.station ≤ 4079 ∧ ∀ m ∈ x.time, m ≤ 1439) →
    StopsData.ofPayload (b16 id ++ [b8 rev, b8 part, flagByte [final], b8 stops.length] ++ stops.flatMap Stop.bytes) =
      some ⟨id, rev, part, final, stops⟩

/-- A Put for a service that is not in the table, newer than its record if it has one, with room in the table and no linger of
zero: the entry of R22 takes its place, and the record goes (R30, R35, R37). -/
def Obligations.DeparturePutInsertsNewcomer : Prop :=
  ∀ (f : FeedFrame) (s : State) (d : PutData), s.TakesData f → PutData.ofPayload f.payload = some d →
    findEntry s.board.table d.id = none → (∀ r ∈ s.board.memory, r.id = d.id → newer d.rev r.rev = true) →
    s.board.table.length < 32 → ¬ (d.status = .departed ∧ s.mgmt.settings.departedLinger = 0) →
    ¬ (d.platform ≠ s.mgmt.settings.ownPlatform ∧ s.mgmt.settings.movedLinger = 0) →
    Completes (.departurePut f) f .departurePut s
      { s with board := { s.board with
          memory := s.board.memory.filter (fun r => r.id != d.id)
          table := insertEntry s.mgmt.settings.dayStart
            ⟨d.id, d.rev, d.sched, d.expected, d.status, d.platform, decide (d.platform ≠ s.mgmt.settings.ownPlatform),
              d.dest, d.via, d.cars, if d.status = .departed then some s.mgmt.settings.departedLinger else none,
              if d.platform ≠ s.mgmt.settings.ownPlatform then some (s.mgmt.settings.movedLinger * 60) else none,
              none, none, false, false⟩ s.board.table } }
      (doneOr d.clamped)

/-- A newer Put for a service in the table replaces its fields, settles its lingers, keeps its lists, and moves it to its new
place, when no linger ends at 0 (R29); the Moved flag and linger follow the five rows of R35. -/
def Obligations.DeparturePutReplacesEntry : Prop :=
  (∀ (f : FeedFrame) (s : State) (d : PutData) (e e' : Entry) (m : Bool × Option Nat), s.TakesData f →
    PutData.ofPayload f.payload = some d → findEntry s.board.table d.id = some e → newer d.rev e.rev = true →
    m = settleMoved s.mgmt.settings (some e.platform) e.movedLinger d.platform →
    e' = { e with
      rev := d.rev
      sched := d.sched
      expected := d.expected
      status := d.status
      platform := d.platform
      dest := d.dest
      via := d.via
      cars := d.cars
      moved := m.1
      movedLinger := m.2
      departedLinger :=
        if d.status ≠ .departed then none
        else if e.status = .departed then e.departedLinger
        else some s.mgmt.settings.departedLinger } →
    e'.movedLinger ≠ some 0 → e'.departedLinger ≠ some 0 →
    Completes (.departurePut f) f .departurePut s
      { s with board := { s.board with
          table := insertEntry s.mgmt.settings.dayStart e' (s.board.table.filter (fun x : Entry => x.id != e.id)) } }
      (doneOr d.clamped)) ∧
  ∀ (st : Settings) (before : Option Platform) (after : Platform) (rem : Option Nat),
    (after = st.ownPlatform → settleMoved st before rem after = (false, none)) ∧
    (after ≠ st.ownPlatform → before = none ∨ before = some st.ownPlatform →
      settleMoved st before rem after = (true, some (st.movedLinger * 60))) ∧
    (∀ b, after ≠ st.ownPlatform → before = some b → b ≠ st.ownPlatform →
      settleMoved st before rem after = if b = after then (true, rem) else (true, some (st.movedLinger * 60)))

/-- A newcomer to a full table: the lingering entry with the least Linger remaining gives way, else the last entry when the
newcomer's key is smaller, else the newcomer is refused with FULL (R31). -/
def Obligations.FullTableMakesRoomOrRefuses : Prop :=
  ∀ (f : FeedFrame) (s : State) (d : PutData) (n : Entry), s.TakesData f → PutData.ofPayload f.payload = some d →
    findEntry s.board.table d.id = none → recordOf s.board.memory d.id = none → s.board.table.length = 32 →
    n = Entry.created s.mgmt.settings d → n.lingerEnded = false →
    (∀ e, (∃ before after, s.board.table = before ++ e :: after ∧ (e.status = .departed ∨ e.moved = true) ∧
        (∀ x ∈ before, x.status = .departed ∨ x.moved = true →
          e.lingerRemaining.getD 0 < x.lingerRemaining.getD 0) ∧
        (∀ x ∈ after, x.status = .departed ∨ x.moved = true →
          e.lingerRemaining.getD 0 ≤ x.lingerRemaining.getD 0)) ∨
      (∀ x ∈ s.board.table, x.status ≠ .departed ∧ x.moved = false) ∧ s.board.table.getLast? = some e ∧
        keyLt (n.key s.mgmt.settings.dayStart) (e.key s.mgmt.settings.dayStart) = true →
      Completes (.departurePut f) f .departurePut s
        (({ s with board := {
            table := insertEntry s.mgmt.settings.dayStart n (s.board.table.filter (fun x : Entry => x.id != e.id))
            memory := remember s.board.memory ⟨e.id, e.rev⟩
            free := s.board.free ++ e.blocks } }).bump .entriesEvicted)
        (doneOr d.clamped)) ∧
    (∀ e, (∀ x ∈ s.board.table, x.status ≠ .departed ∧ x.moved = false) → s.board.table.getLast? = some e →
      keyLt (n.key s.mgmt.settings.dayStart) (e.key s.mgmt.settings.dayStart) = false →
      Completes (.departurePut f) f .departurePut s ((s.bump .tableFull).raise .tableFull) .full)

/-- R25: a Put, Amend or Remove whose revision is not newer than the one it is compared with is refused with STALE, changes
nothing and counts Stale Updates. -/
def Obligations.StaleDepartureFrameIsRefused : Prop :=
  (∀ r q : Nat, r ≤ 255 → q ≤ 255 → (newer r q = true ↔ 1 ≤ (r + 256 - q) % 256 ∧ (r + 256 - q) % 256 ≤ 127)) ∧
  ∀ (f : FeedFrame) (s : State), s.TakesData f →
    (∀ d e, PutData.ofPayload f.payload = some d → findEntry s.board.table d.id = some e → newer d.rev e.rev = false →
      Completes (.departurePut f) f .departurePut s (s.bump .staleUpdates) .stale) ∧
    (∀ d r, PutData.ofPayload f.payload = some d → findEntry s.board.table d.id = none →
      recordOf s.board.memory d.id = some r → newer d.rev r.rev = false →
      Completes (.departurePut f) f .departurePut s (s.bump .staleUpdates) .stale) ∧
    (∀ a e, AmendData.ofPayload f.payload = some a → findEntry s.board.table a.id = some e → newer a.rev e.rev = false →
      Completes (.departureAmend f) f .departureAmend s (s.bump .staleUpdates) .stale) ∧
    (∀ id rev e, f.payload = b16 id ++ [b8 rev] → 1 ≤ id → id ≤ 65535 → rev ≤ 255 →
      findEntry s.board.table id = some e → newer rev e.rev = false →
      Completes (.departureRemove f) f .departureRemove s (s.bump .staleUpdates) .stale)

/-- A newer Amend whose status change R34 allows: every item the mask names takes its value, the others keep theirs, and the
lingers settle, when none ends at 0 (R32, R33). -/
def Obligations.DepartureAmendChangesNamedItems : Prop :=
  ∀ (f : FeedFrame) (s : State) (a : AmendData) (e e' : Entry) (m : Bool × Option Nat), s.TakesData f →
    AmendData.ofPayload f.payload = some a → findEntry s.board.table a.id = some e → newer a.rev e.rev = true →
    (∀ x ∈ a.status, e.status ≠ .departed ∧ ¬ (e.status = .cancelled ∧ x = .departed)) →
    m = (match a.platform with
      | some p => settleMoved s.mgmt.settings (some e.platform) e.movedLinger p
      | none => (e.moved, e.movedLinger)) →
    e' = { e with
      rev := a.rev
      status := a.status.getD e.status
      expected := if a.status.getD e.status = .scheduled then none else a.expected.getD e.expected
      platform := a.platform.getD e.platform
      via := a.via.getD e.via
      cars := a.cars.getD e.cars
      moved := m.1
      movedLinger := m.2
      departedLinger :=
        if a.status.getD e.status = .departed ∧ e.status ≠ .departed then some s.mgmt.settings.departedLinger
        else e.departedLinger } →
    ¬ (e'.status = .expected ∧ e'.expected = none) → e'.departedLinger ≠ some 0 → e'.movedLinger ≠ some 0 →
    Completes (.departureAmend f) f .departureAmend s
      { s with board := { s.board with table := updateEntry e.id (fun _ => e') s.board.table } }
      (doneOr a.clamped)

/-- R40: the form test, the presence test, the revision test and the removal. -/
def Obligations.DepartureRemoveTakesEntryOut : Prop :=
  ∀ (f : FeedFrame) (s : State), s.TakesData f →
    (f.payload.length ≠ 3 ∨ u16 f.payload 0 = 0 →
      Completes (.departureRemove f) f .departureRemove s s .malformed) ∧
    ∀ id rev, f.payload = b16 id ++ [b8 rev] → 1 ≤ id → id ≤ 65535 → rev ≤ 255 →
      ((∀ e ∈ s.board.table, e.id ≠ id) → Completes (.departureRemove f) f .departureRemove s s .notFound) ∧
      (∀ e, findEntry s.board.table id = some e → newer rev e.rev = false →
        Completes (.departureRemove f) f .departureRemove s (s.bump .staleUpdates) .stale) ∧
      (∀ e, findEntry s.board.table id = some e → newer rev e.rev = true → s.board.memory.length ≤ 16 →
        Completes (.departureRemove f) f .departureRemove s
          { s with board := {
              table := s.board.table.filter (fun x : Entry => x.id != id)
              memory := (if s.board.memory.length = 16 then s.board.memory.drop 1 else s.board.memory) ++ [⟨id, rev⟩]
              free := s.board.free ++ e.blocks } }
          .done)

/-! ### Calling points -/

/-- Appending stops fills the chain in order, takes blocks from the head of the free list, and cuts at 48 stops (R56). -/
def Obligations.AppendingFillsBlocks : Prop :=
  ∀ (w : Appending) (stops : List Stop), chainLength w.chain ≤ 48 → w.exhausted = false →
    (w.addAll stops).exhausted = false →
    chainStops (w.addAll stops).chain = chainStops w.chain ++ stops.take (48 - chainLength w.chain) ∧
      (w.addAll stops).cut = (w.cut || decide (48 < chainLength w.chain + stops.length)) ∧
      ∃ taken, w.free = taken ++ (w.addAll stops).free ∧ chainIds (w.addAll stops).chain = chainIds w.chain ++ taken

/-- A part that opens a build, or that the open build expects: its stops are appended, the build goes on with its count
restarted, or the Final part makes it the complete list and frees the old one (R52, R53, R55, R58). -/
def Obligations.StopsPartIsAppended : Prop :=
  ∀ (f : FeedFrame) (s : State) (d : StopsData) (e : Entry) (chain : List Block) (cut : Bool) (free : List Nat)
    (counts : List Ctr) (w : Appending), s.TakesData f → StopsData.ofPayload f.payload = some d →
    findEntry s.board.table d.id = some e →
    ((d.part = 0 ∧ chain = [] ∧ cut = false ∧ (∀ b ∈ e.build, b.rev ≠ d.rev) ∧
        (∀ l ∈ e.list, newer d.rev l.rev = true) ∧ free = s.board.free ++ e.buildBlocks ∧
        counts = if e.build.isSome then [.buildsSuperseded] else []) ∨
      (1 ≤ d.part ∧ free = s.board.free ∧ counts = [] ∧
        ∃ b, e.build = some b ∧ b.rev = d.rev ∧ b.expectedPart = d.part ∧ chain = b.chain ∧ cut = b.cut)) →
    w = (Appending.mk free chain cut false).addAll d.stops → w.exhausted = false →
    (d.final = false →
      Completes (.stops f) f .stops s
        (({ s with board := { s.board with
            table := updateEntry e.id (fun x =>
              { x with build := some ⟨d.rev, d.part + 1, w.chain, w.cut, s.mgmt.settings.buildTimeout⟩ }) s.board.table
            free := w.free } }).bumpAll counts)
        .done) ∧
    (d.final = true →
      Completes (.stops f) f .stops s
        (({ s with board := { s.board with
            table := updateEntry e.id (fun x =>
              { x with list := some ⟨d.rev, w.chain⟩, build := none, stale := false, truncated := w.cut }) s.board.table
            free := w.free ++ e.listBlocks } }).bumpAll (counts ++ [Ctr.listsCompleted]))
        .done)

/-- Parts that are not appended: an orphan, a repetition, a stale part 0, a part past the expected one, and a part that exhausts
the pool, be it the expected part of an open build or a part 0 that opens one (R51 to R55, R57). -/
def Obligations.PartsOutOfTurn : Prop :=
  ∀ (f : FeedFrame) (s : State) (d : StopsData), s.TakesData f → StopsData.ofPayload f.payload = some d →
    (findEntry s.board.table d.id = none → Completes (.stops f) f .stops s (s.bump .orphanParts) .notFound) ∧
    ∀ e, findEntry s.board.table d.id = some e →
      (d.part ≠ 0 → (∀ b ∈ e.build, b.rev ≠ d.rev) →
        Completes (.stops f) f .stops s (s.bump .orphanParts) .notFound) ∧
      (∀ b, e.build = some b → b.rev = d.rev → d.part < b.expectedPart →
        Completes (.stops f) f .stops s (s.bump .duplicateParts) .done) ∧
      (∀ l, d.part = 0 → (∀ b ∈ e.build, b.rev ≠ d.rev) → e.list = some l → newer d.rev l.rev = false →
        Completes (.stops f) f .stops s (s.bump .staleParts) .stale) ∧
      (∀ b, e.build = some b → b.rev = d.rev → d.part ≠ 0 → b.expectedPart < d.part →
        Completes (.stops f) f .stops s
          (({ s with board := { s.board with
              table := updateEntry e.id (fun x => { x with build := none, stale := true }) s.board.table
              free := s.board.free ++ chainIds b.chain } }).bump .buildsAbandoned)
          .notNow) ∧
      (∀ b w, e.build = some b → b.rev = d.rev → d.part ≠ 0 → b.expectedPart = d.part →
        w = (Appending.mk s.board.free b.chain b.cut false).addAll d.stops → w.exhausted = true →
        Completes (.stops f) f .stops s
          ((({ s with board := { s.board with
              table := updateEntry e.id (fun x => { x with build := none, stale := true }) s.board.table
              free := w.free ++ chainIds w.chain } }).bump .buildsAbandoned).raise .poolExhausted)
          .noSpace) ∧
      (∀ w, d.part = 0 → (∀ b ∈ e.build, b.rev ≠ d.rev) → (∀ l ∈ e.list, newer d.rev l.rev = true) →
        w = (Appending.mk (s.board.free ++ e.buildBlocks) [] false false).addAll d.stops → w.exhausted = true →
        Completes (.stops f) f .stops s
          ((({ s with board := { s.board with
              table := updateEntry e.id (fun x => { x with build := none, stale := true }) s.board.table
              free := w.free ++ chainIds w.chain } }).bumpAll
            ((if e.build.isSome then [Ctr.buildsSuperseded] else []) ++ [Ctr.buildsAbandoned])).raise .poolExhausted)
          .noSpace)

/-- R61: the tests in their order, and the one stop that an amend changes. -/
def Obligations.StopAmendChangesOneStop : Prop :=
  (∀ (i : Nat) (g : Stop → Stop) (c : List Block), chainStops (amendChain i g c) = (chainStops c).modify i g ∧
    chainIds (amendChain i g c) = chainIds c) ∧
  ∀ (f : FeedFrame) (s : State), s.TakesData f →
    (f.payload.length ≠ 6 ∨ u16 f.payload 0 = 0 ∨ 47 < u8 f.payload 2 ∨ 3 < u8 f.payload 3 ∨
        (u16 f.payload 4 ≠ 0xFFFF ∧ 1439 < u16 f.payload 4) →
      Completes (.stopAmend f) f .stopAmend s s .malformed) ∧
    ∀ (id i : Nat) (kind : StopKind) (time : Option Nat),
      f.payload = b16 id ++ [b8 i, b8 kind.code] ++ optBytes time → 1 ≤ id → id ≤ 65535 → i ≤ 47 →
      (∀ m ∈ time, m ≤ 1439) →
      (findEntry s.board.table id = none → Completes (.stopAmend f) f .stopAmend s s .notFound) ∧
      (∀ e, findEntry s.board.table id = some e → e.list = none →
        Completes (.stopAmend f) f .stopAmend s s .notFound) ∧
      (∀ e l, findEntry s.board.table id = some e → e.list = some l → chainLength l.chain ≤ i →
        Completes (.stopAmend f) f .stopAmend s s .notFound) ∧
      (∀ e l chain, findEntry s.board.table id = some e → e.list = some l → i < chainLength l.chain →
        (s.board.table.map Entry.id).Nodup →
        chain = amendChain i (fun y => { y with kind := kind, time := time.orElse (fun _ => y.time) }) l.chain →
        Completes (.stopAmend f) f .stopAmend s
          { s with board := { s.board with
              table := updateEntry id (fun _ => { e with list := some ⟨l.rev, chain⟩ }) s.board.table } }
          .done)

/-- What a second event counts in the Departure Table: lingers, ending in removals in rank order (R38), and build timeouts,
ending in abandonments in rank order (R59). That these rows are shares of a second event is the model's reading (log 9). -/
def Obligations.CountsOfASecondEvent : Prop :=
  (∀ (s : State) (counted ended : List Entry), s.inReset = false → (s.board.table.map Entry.id).Nodup →
    s.CountersBounded →
    counted = s.board.table.map (fun e =>
      { e with departedLinger := e.departedLinger.map (· - 1), movedLinger := e.movedLinger.map (· - 1) }) →
    ended = counted.filter (fun e => e.departedLinger == some 0 || e.movedLinger == some 0) →
    Leaves .lingerExpiry s
      { s with board := {
          table := counted.filter (fun e => !(e.departedLinger == some 0 || e.movedLinger == some 0))
          memory := ended.foldl (fun m e => remember m ⟨e.id, e.rev⟩) s.board.memory
          free := s.board.free ++ ended.flatMap Entry.blocks } }) ∧
  ∀ (s : State) (counted ending : List Entry), s.inReset = false →
    counted = s.board.table.map (fun e => match e.build with
      | some b =>
        if b.timeout ≤ 1 then { e with build := none, stale := true }
        else { e with build := some { b with timeout := b.timeout - 1 } }
      | none => e) →
    ending = s.board.table.filter (fun e => match e.build with
      | some b => decide (b.timeout ≤ 1)
      | none => false) →
    Leaves .buildTimeout s
      (({ s with board := { s.board with
          table := counted
          free := s.board.free ++ ending.flatMap Entry.buildBlocks } }).bumpBy .buildsAbandoned ending.length)

/-! ### Time -/

/-- R73: the form test, the new value and validity, and the minute event, at which the entries overdue against the new time
leave (R41). -/
def Obligations.TimeSetReplacesClock : Prop :=
  ∀ (f : FeedFrame) (s : State), s.TakesData f →
    (f.payload.length ≠ 3 ∨ 23 < u8 f.payload 0 ∨ 59 < u8 f.payload 1 ∨ 59 < u8 f.payload 2 →
      Completes (.timeSet f) f .timeSet s s .malformed) ∧
    ∀ (h m sec : Nat) (clock : Clock) (gone : List Entry), f.payload = [b8 h, b8 m, b8 sec] → h ≤ 23 → m ≤ 59 →
      sec ≤ 59 → clock = { s.clock with hours := h, minutes := m, seconds := sec, valid := true } →
      (s.clock.valid = true → s.clock.hours = h → s.clock.minutes = m →
        Completes (.timeSet f) f .timeSet s { s with clock := clock } .done) ∧
      (s.clock.valid = false ∨ s.clock.hours ≠ h ∨ s.clock.minutes ≠ m →
        gone = s.board.table.filter (Entry.overdue s.mgmt.settings (h * 60 + m)) →
        Completes (.timeSet f) f .timeSet s
          (({ s with clock := clock, board := s.board.removeAll gone }).bumpBy .entriesExpired gone.length) .done)

/-- The advances of the clock (R68 to R72): each adds one second and is delivered, with its minute event when the clock is valid,
to each of the five blocks that count (R75), in an order that is a free choice where it can be seen (log 7); an edge on SECP
advances a SYNCED clock, and a LOST one when its nearest instant is not yet counted; the watch catches up two instants. What an
advance may not touch is left as it was. The instant of an edge is an operand of the model's (log 12); that a tick, a watch expiry
or a scheduled instant that cannot occur leaves the state is the model's reading (log 13). -/
def Obligations.ClockFollowsItsSource : Prop :=
  (∀ c : Clock, c.hours ≤ 23 → c.minutes ≤ 59 → c.seconds ≤ 59 →
    c.advance.hours * 3600 + c.advance.minutes * 60 + c.advance.seconds =
      (c.hours * 3600 + c.minutes * 60 + c.seconds + 1) % 86400 ∧ c.advance.valid = c.valid ∧ c.advance.lost = c.lost) ∧
  (∀ s t : State, t = s.advanceClock → t.clock = s.clock.advance ∧ t.feed = s.feed ∧ t.names = s.names ∧
    t.fonts = s.fonts ∧ t.straps = s.straps ∧ t.pending = s.pending ∧ t.link = { s.link with heads := t.link.heads } ∧
    t.mgmt.settings = s.mgmt.settings ∧ t.mgmt.enable = s.mgmt.enable ∧ t.mgmt.readPtr = s.mgmt.readPtr) ∧
  (∀ (s u : State) (expiry : Option Nat), u = s.setClock s.clock.advance →
    expiry = (if 59 ≤ s.clock.seconds ∧ s.clock.valid = true then
      some (s.clock.advance.hours * 60 + s.clock.advance.minutes) else none) →
    (u.secondRace expiry = false → s.advanceClock =
      (u.departureSecond true expiry).buildSecond.layoutSecond.linkSecond.freezeSecond) ∧
    (u.secondRace expiry = true →
      ∃ order : List Share, order.Perm [.departures, .builds, .layout, .link, .freeze] ∧
        s.advanceClock = order.foldl (Share.act expiry) { u with freeCount := u.freeCount + 1 })) ∧
  (∀ s : State, s.inReset = false → s.straps.csrc = .internal →
    Leaves .internalTick s s.advanceClock ∧ (∀ us, Leaves (.secpRisingEdge us) s s) ∧ Leaves .clockWatchExpiry s s ∧
      Leaves .scheduledInstantTick s s) ∧
  ∀ (s : State) (us : Nat) (accepted : State), s.inReset = false → s.straps.csrc = .pulse →
    accepted = s.setClock { s.clock with lost := false, lastEdge := us, counted := 0 } →
    Leaves .internalTick s s ∧
    (s.clock.lost = false → Leaves (.secpRisingEdge us) s accepted.advanceClock) ∧
    (s.clock.lost = true → s.clock.counted < (us - s.clock.lastEdge + 500000) / 1000000 →
      Leaves (.secpRisingEdge us) s accepted.advanceClock) ∧
    (s.clock.lost = true → (us - s.clock.lastEdge + 500000) / 1000000 ≤ s.clock.counted →
      Leaves (.secpRisingEdge us) s accepted) ∧
    (s.clock.lost = false → Leaves .clockWatchExpiry s
      (s.setClock { s.clock with lost := true, counted := 2 }).advanceClock.advanceClock) ∧
    (s.clock.lost = true → Leaves .scheduledInstantTick s
      (s.setClock { s.clock with counted := s.clock.counted + 1 }).advanceClock)

/-! ### Names and fonts -/

/-- What a Name Put's payload holds, and the form test (R85, R198); a Name Put puts its entry in or replaces it, and a new code finds
a full table FULL (R86); R87 and R88 whole, but for what later expansions show. -/
def Obligations.NameFramesKeepTheTable : Prop :=
  (∀ (p : List Byte) (e : NameEntry) (short : List Item), short = e.short.getD [] →
    (nameOfPayload p = some e ↔
      p = b16 e.code ++ [b8 e.full.length, b8 short.length] ++ b16 e.fallback.1 ++ b16 e.fallback.2.1 ++
        b16 e.fallback.2.2 ++ itemBytes e.full ++ itemBytes short ∧
      1 ≤ e.code ∧ e.code ≤ 4095 ∧ 1 ≤ e.full.length ∧ e.full.length ≤ 40 ∧ e.short ≠ some [] ∧ short.length ≤ 20 ∧
      e.fallback.1 ≤ 255 ∧ e.fallback.2.1 ≤ 255 ∧ e.fallback.2.2 ≤ 255 ∧
      ∀ x ∈ e.full ++ short, Item.ofCode x.code = some x)) ∧
  (∀ (f : FeedFrame) (s : State), s.TakesData f → nameOfPayload f.payload = none →
    Completes (.namePut f) f .namePut s s .malformed) ∧
  (∀ (e : NameEntry) (t : List NameEntry) (c : Nat),
    findName (putName e t) c = if c = e.code then some e else findName t c) ∧
  (∀ (f : FeedFrame) (s : State) (e : NameEntry), s.TakesData f → nameOfPayload f.payload = some e →
    ((findName s.names.table e.code).isSome = true ∨ s.names.table.length < 1024 →
      Completes (.namePut f) f .namePut s
        { s with names := { s.names with table := putName e s.names.table } } .done) ∧
    (findName s.names.table e.code = none → 1024 ≤ s.names.table.length →
      Completes (.namePut f) f .namePut s (s.bump .nameTableFull) .full)) ∧
  (∀ (f : FeedFrame) (s : State), s.TakesData f →
    (f.payload.length ≠ 2 ∨ u16 f.payload 0 = 0 ∨ 4095 < u16 f.payload 0 →
      Completes (.nameDrop f) f .nameDrop s s .malformed) ∧
    ∀ code, f.payload = b16 code → 1 ≤ code → code ≤ 4095 →
      ((∃ e ∈ s.names.table, e.code = code) → Completes (.nameDrop f) f .nameDrop s
        { s with names := { s.names with table := s.names.table.filter (fun e => e.code != code) } } .done) ∧
      ((∀ e ∈ s.names.table, e.code ≠ code) → Completes (.nameDrop f) f .nameDrop s s .notFound)) ∧
  ∀ (f : FeedFrame) (s : State), s.TakesData f →
    (f.payload ≠ [] → Completes (.namesClear f) f .namesClear s s .malformed) ∧
    (f.payload = [] → Completes (.namesClear f) f .namesClear s { s with names := { s.names with table := [] } } .done)

/-- What an expansion delivers: the glyphs of the form as far as the room allows, a reference's form in its place, the Reference
Missing mark for a reference to an absent code, and at full depth the fallback (R90 to R95; the form that refers to itself reaches
full depth). It never delivers more glyphs than its room, is cut only when the room is full, and is replaced whole only in strict
mode; an absent code shows its digits with Missing clear, or the missing mark with Missing set for a phrase (R96). -/
def Obligations.ExpansionFitsItsRoom : Prop :=
  (∀ (t : List NameEntry) (strict : Bool) (mode : Selector) (room code : Nat) (x : Expansion),
    x = expandName t strict mode room code →
    x.glyphs.length ≤ room ∧ (x.cut = true → x.glyphs.length = room) ∧ (x.replaced = true → strict = true) ∧
      (x.deep = true → strict = false) ∧
      (x.replaced = true → ∃ e, findName t code = some e ∧
        x.glyphs = [e.fallback.1, e.fallback.2.1, e.fallback.2.2].take room)) ∧
  (∀ (t : List NameEntry) (strict : Bool) (room : Nat) (items : List Item) (x : Expansion),
    x = expandFree t strict room items →
    x.glyphs.length ≤ room ∧ (x.cut = true → x.glyphs.length = room) ∧ (x.replaced = true → strict = true) ∧
      (x.deep = true → strict = false)) ∧
  (∀ (t : List NameEntry) (strict : Bool) (mode : Selector) (room code : Nat), findName t code = none → 4 ≤ room →
    (expandName t strict mode room code).absent = true ∧ (expandName t strict mode room code).cut = false ∧
    (expandName t strict mode room code).missing = decide (4080 ≤ code) ∧
    (4080 ≤ code → (expandName t strict mode room code).glyphs = [0xE0]) ∧
    (code < 4080 → (expandName t strict mode room code).glyphs = (Nat.toDigits 10 code).map Char.toNat)) ∧
  (∀ (t : List NameEntry) (strict : Bool) (room : Nat) (items : List Item) (x : Expansion),
    x = expandFree t strict room items ∨ (∃ code e, findName t code = some e ∧
      (e.full = items ∧ x = expandName t strict .full room code ∨
        (e.short = some items ∨ e.short = none ∧ e.full = items) ∧ x = expandName t strict .short room code)) →
    (∀ gs : List Nat, items = gs.map .glyph →
      x.glyphs = gs.take room ∧ x.cut = decide (room < gs.length) ∧ x.missing = false ∧ x.deep = false ∧
        x.replaced = false ∧ x.absent = false) ∧
    (∀ (before after : List Nat) (target : Nat) (form : Selector),
      items = before.map .glyph ++ .ref target form :: after.map .glyph → findName t target = none →
      before.length + 1 + after.length ≤ room →
      x.glyphs = before ++ 0xE0 :: after ∧ x.missing = true ∧ x.cut = false ∧ x.deep = false ∧ x.replaced = false) ∧
    ∀ (before after inner : List Nat) (target : Nat) (form : Selector) (e : NameEntry),
      items = before.map .glyph ++ .ref target form :: after.map .glyph → findName t target = some e →
      before.length + inner.length + after.length ≤ room →
      (form = .full ∧ e.full = inner.map .glyph ∨
        form = .short ∧ (e.short = some (inner.map .glyph) ∨ e.short = none ∧ e.full = inner.map .glyph)) →
      x.glyphs = before ++ inner ++ after ∧ x.missing = false ∧ x.cut = false ∧ x.deep = false ∧ x.replaced = false) ∧
  ∀ (t : List NameEntry) (strict : Bool) (room code : Nat) (e : NameEntry) (before : List Nat) (x y : Expansion),
    findName t code = some e → e.full = [.ref code .full] → before.length + 3 ≤ room →
    x = expandName t strict .full room code → y = expandFree t strict room (before.map .glyph ++ [.ref code .full]) →
    x.glyphs = [e.fallback.1, e.fallback.2.1, e.fallback.2.2] ∧ x.deep = !strict ∧ x.replaced = strict ∧
      x.shortAvailable = e.short.isSome ∧
      y.glyphs = before ++ [e.fallback.1, e.fallback.2.1, e.fallback.2.2] ∧ y.deep = !strict ∧ y.replaced = strict ∧
      y.shortAvailable = false

/-- A Font Define by its table, with clamped values (R104, R105), and a Glyph Put that loads its cell pixel by pixel (R106,
R107). -/
def Obligations.FontFramesLoadCells : Prop :=
  (∀ (f : FeedFrame) (s : State) (id height nominal minimum : Nat) (r : FontRecord), s.TakesData f → id ≤ 3 →
    height ≤ 255 → nominal ≤ 255 → minimum ≤ 255 → f.payload = [b8 id, b8 height, b8 nominal, b8 minimum] →
    r = s.fonts.get id →
    Completes (.fontDefine f) f .fontDefine s
      { s with fonts := s.fonts.set id ⟨true, clamp 5 16 height, min nominal 3, min minimum (min nominal 3),
        if r.defined = true ∧ r.height = clamp 5 16 height then r.cells else []⟩ }
      (if 5 ≤ height ∧ height ≤ 16 ∧ nominal ≤ 3 ∧ minimum ≤ nominal then .done else .adjusted)) ∧
  (∀ (f : FeedFrame) (s : State) (height nominal minimum : Nat), s.TakesData f → height ≤ 255 →
    f.payload = [4, b8 height, b8 nominal, b8 minimum] →
    Completes (.fontDefine f) f .fontDefine s
      { s with fonts := s.fonts.set 4 ⟨true, clamp 5 16 height, 0, 0,
        if s.fonts.symbols.defined = true ∧ s.fonts.symbols.height = clamp 5 16 height then s.fonts.symbols.cells
        else []⟩ }
      (if 5 ≤ height ∧ height ≤ 16 then .done else .adjusted)) ∧
  ∀ (f : FeedFrame) (s : State) (id code adv a : Nat) (bytes : List Byte) (r : FontRecord), s.TakesData f → id ≤ 4 →
    (id < 4 → code ≤ 0xDF) → (id = 4 → 0xE0 ≤ code) → code ≤ 0xFF → adv ≤ 255 →
    f.payload = b8 id :: b8 code :: b8 adv :: bytes → r = s.fonts.get id →
    (r.defined = false → Completes (.glyphPut f) f .glyphPut s s .notFound) ∧
    (r.defined = true → a = clamp 1 16 adv → bytes.length ≠ r.height * ((a + 7) / 8) →
      Completes (.glyphPut f) f .glyphPut s s .malformed) ∧
    (r.defined = true → a = clamp 1 16 adv → bytes.length = r.height * ((a + 7) / 8) →
      ∃ cell : Cell, cell.advance = a ∧ cell.rows.length = r.height ∧
        (∀ y x, y < r.height → x < a → (cell.rows.getD y []).getD x false =
          (bytes.getD (y * ((a + 7) / 8) + x / 8) 0).getLsbD (7 - x % 8)) ∧
        Completes (.glyphPut f) f .glyphPut s
          { s with fonts := s.fonts.set id { r with cells := keyedPut code cell r.cells } }
          (if 1 ≤ adv ∧ adv ≤ 16 then .done else .adjusted))

/-! ### Layouts, pages and notices -/

/-- What a Head Define's payload holds, clamped, and its form test (R119); a Head Define on an UNDEFINED head, on one of the same
geometry and on one of another (R120), and a Head Drop (R121): in each case the head's link state becomes UNKNOWN and a head frame
in transmission to it is not applied (R168, R169), and a change of geometry or a drop abandons the composition and clears the
buffers, the front at the end of a head frame in transmission (R142). The hold remaining of a new head, 0, is the model's (log 26),
and so is that the overlay number is kept (log 25). -/
def Obligations.HeadDefineAndDrop : Prop :=
  (∀ (i : HeadIx) (w h mode level font row : Nat), w ≤ 65535 → h ≤ 255 → mode ≤ 1 → level ≤ 255 → font ≤ 3 →
    row ≤ 255 →
    HeadData.ofPayload ([b8 i.val] ++ b16 w ++ [b8 h, b8 mode, b8 level, b8 font, b8 row]) =
      some (i, ⟨max 32 (min (w / 8 * 8) 256), max 8 (min h 32), if mode = 0 then .auto else .fixed (min level 15), font,
        min row 31, !decide (w % 8 = 0 ∧ 32 ≤ w ∧ w ≤ 256 ∧ 8 ≤ h ∧ h ≤ 32 ∧ (mode = 0 ∨ level ≤ 15) ∧ row ≤ 31)⟩)) ∧
  (∀ (f : FeedFrame) (s : State), s.TakesData f →
    (f.payload.length ≠ 8 ∨ 7 < u8 f.payload 0 ∨ 1 < u8 f.payload 4 ∨ 3 < u8 f.payload 6 →
      Completes (.headDefine f) f .headDefine s s .malformed) ∧
    (f.payload.length ≠ 1 ∨ 7 < u8 f.payload 0 → Completes (.headDrop f) f .headDrop s s .malformed)) ∧
  (∀ (s : State) (i : HeadIx), ((s.headRedefined i).link.heads.get i) =
      { s.link.heads.get i with
        state := .unknown
        misses := 0
        faultCode := none
        frameNumber := 0
        probeDue := false } ∧
    (∀ j, j ≠ i → (s.headRedefined i).link.heads.get j = s.link.heads.get j) ∧
    (s.headRedefined i).link.sending =
      s.link.sending.map (fun x => if x.head = i then { x with void := true } else x) ∧
    s.headRedefined i = { s with link := { s.link with
      heads := (s.headRedefined i).link.heads
      sending := (s.headRedefined i).link.sending } }) ∧
  (∀ (f : FeedFrame) (s : State) (i : HeadIx) (d : HeadData), s.TakesData f →
    HeadData.ofPayload f.payload = some (i, d) →
    (s.head i = none → Completes (.headDefine f) f .headDefine s
      ((s.setHead i (some ⟨d.width, d.height, d.brightness, d.overlayFont, d.overlayRow, [],
        .pages ⟨0, .dwell, s.mgmt.settings.dwell, 0, []⟩, [], none⟩)).headRedefined i) (doneOr d.adjusted)) ∧
    (∀ h, s.head i = some h → h.width = d.width → h.height = d.height →
      Completes (.headDefine f) f .headDefine s
        ((s.setHead i (some { h with
          brightness := d.brightness
          overlayFont := d.overlayFont
          overlayRow := d.overlayRow })).headRedefined i) (doneOr d.adjusted)) ∧
    (∀ h, s.head i = some h → ¬ (h.width = d.width ∧ h.height = d.height) →
      ∃ (h' : Head) (u : State), h'.width = d.width ∧ h'.height = d.height ∧ h'.brightness = d.brightness ∧
        h'.overlayFont = d.overlayFont ∧ h'.overlayRow = d.overlayRow ∧ h'.fields = h.fields ∧ h'.tickers = [] ∧
        h'.overlayTicker = none ∧ h'.savedTickers = [] ∧ h'.overlaySlot = h.overlaySlot ∧
        u = { s with
          heads := s.heads.set i { s.heads.get i with head := some h' }
          comps := s.comps.set i none
          buffers := s.buffers.set i (if s.sendingTo i then { s.buffers.get i with back := 0, backState := .idle }
            else ⟨0, 0, .unsent, .idle⟩)
          link := { s.link with
            sending := s.link.sending.map (fun x => if x.head = i then { x with clearFront := true } else x) } } ∧
        Completes (.headDefine f) f .headDefine s (u.headRedefined i) (doneOr d.adjusted))) ∧
  ∀ (f : FeedFrame) (s u : State) (i : HeadIx), s.TakesData f → f.payload = [b8 i.val] →
    (s.head i = none → Completes (.headDrop f) f .headDrop s s .notFound) ∧
    (s.head i ≠ none →
      u = { s with
        heads := s.heads.set i { s.heads.get i with head := none }
        comps := s.comps.set i none
        buffers := s.buffers.set i (if s.sendingTo i then { s.buffers.get i with back := 0, backState := .idle }
          else ⟨0, 0, .unsent, .idle⟩)
        link := { s.link with
          sending := s.link.sending.map (fun x => if x.head = i then { x with clearFront := true } else x) } } →
      Completes (.headDrop f) f .headDrop s
        { (u.headRedefined i) with link := { (u.headRedefined i).link with
            round := s.link.round.map (fun l => l.filter (fun j => j != i)) } } .done)

/-- What a Field Put's payload holds, clamped, and its form test (R123); a Field Put puts its record in, with no status yet, and
a Field Drop takes its record out; the field's ticker contexts go, live and saved, and no other head, field or context
changes (R123, R124). -/
def Obligations.FieldPutAndDrop : Prop :=
  (∀ (i : HeadIx) (index slot x y w font speed spacer notice : Nat) (kind : FieldKind) (align : Align) (fit : FitPolicy)
    (flags : Byte) (text : List Item), index ≤ 23 → slot ≤ 8 → (kind.isEntry = true ↔ slot ≠ 0) → x ≤ 255 → y ≤ 255 →
    1 ≤ w → w ≤ 65535 → font ≤ 3 → speed ≤ 255 → spacer ≤ 255 → notice ≤ 7 → text.length ≤ 24 →
    (∀ t ∈ text, Item.ofCode t.code = some t) →
    FieldData.ofPayload ([b8 i.val, b8 index, b8 kind.code, b8 slot, b8 x, b8 y] ++ b16 w ++
        [b8 font, b8 align.code, b8 fit.code, b8 speed, b8 spacer, b8 notice, flags, b8 text.length] ++ itemBytes text) =
      some ⟨i, index, ⟨kind, slot, x, min y 31, min w 256, font, align, fit, max 1 (min speed 64), min spacer 64, notice,
        text, flags.getLsbD 0⟩, !decide (y ≤ 31 ∧ w ≤ 256 ∧ 1 ≤ speed ∧ speed ≤ 64 ∧ spacer ≤ 64)⟩) ∧
  (∀ (f : FeedFrame) (s : State) (p : List Byte), s.TakesData f → f.payload = p →
    (p.length ≠ 16 + 2 * u8 p 15 ∨ 24 < u8 p 15 ∨ 7 < u8 p 0 ∨ 23 < u8 p 1 ∨ 10 < u8 p 2 ∨ 8 < u8 p 3 ∨
        (u8 p 2 ≤ 7 ∧ u8 p 3 = 0) ∨ (8 ≤ u8 p 2 ∧ u8 p 3 ≠ 0) ∨ u16 p 6 = 0 ∨ 3 < u8 p 8 ∨ 2 < u8 p 9 ∨ 1 < u8 p 10 ∨
        7 < u8 p 13 ∨ (∃ k, k < u8 p 15 ∧ Item.ofCode (u16 p (16 + 2 * k)) = none) →
      Completes (.fieldPut f) f .fieldPut s s .malformed) ∧
    (p.length ≠ 2 ∨ 7 < u8 p 0 ∨ 23 < u8 p 1 → Completes (.fieldDrop f) f .fieldDrop s s .malformed)) ∧
  (∀ (f : FeedFrame) (s : State) (d : FieldData) (h : Head), s.TakesData f → FieldData.ofPayload f.payload = some d →
    s.head d.head = some h →
    ∃ h', h'.fields = keyedPut d.index ⟨d.record, ⟨.notPainted, ⟨false, false, false, false⟩, false, false⟩⟩ h.fields ∧
      h'.tickers = keyedErase d.index h.tickers ∧ h'.savedTickers = keyedErase d.index h.savedTickers ∧
      h'.width = h.width ∧ h'.height = h.height ∧ h'.brightness = h.brightness ∧ h'.overlayTicker = h.overlayTicker ∧
      h'.overlaySlot = h.overlaySlot ∧
      Completes (.fieldPut f) f .fieldPut s (s.setHead d.head (some h')) (doneOr d.clamped)) ∧
  (∀ (f : FeedFrame) (s : State) (d : FieldData), s.TakesData f → FieldData.ofPayload f.payload = some d →
    s.head d.head = none → Completes (.fieldPut f) f .fieldPut s s .notFound) ∧
  ∀ (f : FeedFrame) (s : State) (i : HeadIx) (idx : Nat), s.TakesData f → f.payload = [b8 i.val, b8 idx] → idx ≤ 23 →
    ((∀ h, s.head i = some h → keyedGet idx h.fields = none) → Completes (.fieldDrop f) f .fieldDrop s s .notFound) ∧
    (∀ h x, s.head i = some h → keyedGet idx h.fields = some x →
      ∃ h', h'.fields = keyedErase idx h.fields ∧ h'.tickers = keyedErase idx h.tickers ∧
        h'.savedTickers = keyedErase idx h.savedTickers ∧ h'.width = h.width ∧ h'.height = h.height ∧
        h'.brightness = h.brightness ∧ h'.overlayTicker = h.overlayTicker ∧ h'.overlaySlot = h.overlaySlot ∧
        Completes (.fieldDrop f) f .fieldDrop s (s.setHead i (some h')) .done)

/-- A Notice Put fills its slot, an Append lengthens its text, a Notice Clear empties it (R129, R130). An OVERLAY put takes every
masked DEFINED head, a switch from another slot counted Overlays Replaced; an INFO put, or an OVERLAY put whose mask leaves the head
out, and a Clear end the overlays that show the slot (R131, R132, R136, R142). -/
def Obligations.NoticeFramesHoldText : Prop :=
  (∀ (f : FeedFrame) (s : State) (slot : HeadIx) (flags mask : Byte) (duration : Nat) (items : List Item),
    s.TakesData f → flags.getLsbD 1 = false → duration ≤ 65535 → 1 ≤ items.length → items.length ≤ 117 →
    (∀ x ∈ items, Item.ofCode x.code = some x) →
    f.payload = [b8 slot.val, flags, mask] ++ b16 duration ++ [b8 items.length] ++ itemBytes items →
    ∃ u : State, u = { s with
        notices := s.notices.set slot (some ⟨if flags.getLsbD 0 then .overlay else .info, mask,
          if duration = 0 then none else some (min duration 3600), items⟩)
        heads := u.heads
        comps := u.comps
        buffers := u.buffers
        counters := u.counters } ∧
      (∀ i, s.head i = none → s.SameAt u i) ∧
      (∀ i h, s.head i = some h → flags.getLsbD 0 = true ∧ mask.getLsbD i.val = true →
        u.heads.get i = { s.heads.get i with
          head := some (h.startOverlay slot)
          overlayNumber := ((s.heads.get i).overlayNumber + 1) % 256 } ∧
        (h.overlaySlot = none → s.AbandonedAt u i) ∧
        (h.overlaySlot ≠ none → u.comps.get i = s.comps.get i ∧ u.buffers.get i = s.buffers.get i)) ∧
      (∀ i h, s.head i = some h → ¬ (flags.getLsbD 0 = true ∧ mask.getLsbD i.val = true) →
        (h.overlaySlot = some slot → s.AbandonedAt u i ∧
          u.heads.get i = { s.heads.get i with head := some (h.endOverlay s.mgmt.settings.dwell s.entryCount) }) ∧
        (h.overlaySlot ≠ some slot → s.SameAt u i)) ∧
      (∀ c, c ≠ .overlaysReplaced → u.counter c = s.counter c) ∧
      (∀ n, n = (HeadIx.all.filter (fun i => flags.getLsbD 0 && mask.getLsbD i.val &&
          (s.head i).any (fun h => h.overlaySlot.any (fun old => old != slot)))).length →
        u.counter .overlaysReplaced =
          if n = 0 then s.counter .overlaysReplaced else min (s.counter .overlaysReplaced + n) 65535) ∧
      Completes (.noticePut f) f .noticePut s u (if duration ≤ 3600 then .done else .adjusted)) ∧
  (∀ (f : FeedFrame) (s : State) (slot : HeadIx) (flags : Byte) (items : List Item), s.TakesData f →
    flags.getLsbD 1 = true → items.length ≤ 118 → (∀ x ∈ items, Item.ofCode x.code = some x) →
    f.payload = [b8 slot.val, flags, b8 items.length] ++ itemBytes items →
    (s.notices.get slot = none → Completes (.noticeAppend f) f .noticePut s s .notFound) ∧
    (∀ n, s.notices.get slot = some n → 120 < n.text.length + items.length →
      Completes (.noticeAppend f) f .noticePut s s .malformed) ∧
    (∀ n, s.notices.get slot = some n → n.text.length + items.length ≤ 120 →
      Completes (.noticeAppend f) f .noticePut s
        { s with notices := s.notices.set slot (some { n with text := n.text ++ items }) } .done)) ∧
  ∀ (f : FeedFrame) (s : State) (slot : HeadIx), s.TakesData f → f.payload = [b8 slot.val] →
    (s.notices.get slot = none → Completes (.noticeClear f) f .noticeClear s s .notFound) ∧
    (s.notices.get slot ≠ none → ∃ u : State,
      u = { s with notices := s.notices.set slot none, heads := u.heads, comps := u.comps, buffers := u.buffers } ∧
      (∀ i h, s.head i = some h → h.overlaySlot = some slot → s.AbandonedAt u i ∧
        u.heads.get i = { s.heads.get i with head := some (h.endOverlay s.mgmt.settings.dwell s.entryCount) }) ∧
      (∀ i, (∀ h, s.head i = some h → h.overlaySlot ≠ some slot) → s.SameAt u i) ∧
      Completes (.noticeClear f) f .noticeClear s u .done)

/-- What an overlay does to the head it starts and ends on (R131, R132, R156): page state and entry-kind contexts go to the Shadow,
which a switch leaves as it is, and come back at the end, with the three restores of the page state. An overlay that ends with nothing
changed in between gives the page and every context back as they were. Each start and switch raises the overlay number by one. -/
def Obligations.OverlayReturnsThePage : Prop :=
  (∀ (slot : HeadIx) (dwell n : Nat) (h : Head) (p : PageState), h.mode = .pages p → p.page < h.pageCount n →
    (h.tickers.map Prod.fst).Nodup → (∀ x ∈ p.holdSet, ∃ y ∈ h.tickers, y.1 = x ∧ h.entryField x = true) →
    (p.phase = .hold → p.holdSet ≠ []) →
    (∀ idx, keyedGet idx (Head.endOverlay dwell n (h.startOverlay slot)).tickers = keyedGet idx h.tickers) ∧
      (Head.endOverlay dwell n (h.startOverlay slot)).mode = .pages p ∧
      (Head.endOverlay dwell n (h.startOverlay slot)).fields = h.fields ∧
      (h.startOverlay slot).overlaySlot = some slot) ∧
  (∀ (slot : HeadIx) (h : Head),
    (∀ p, h.mode = .pages p → h.startOverlay slot = { h with
      mode := .overlay slot ⟨p, h.tickers.filter (fun t => h.entryField t.1)⟩
      tickers := h.tickers.filter (fun t => !h.entryField t.1) }) ∧
    (∀ old shadow, h.mode = .overlay old shadow → h.startOverlay slot = { h with mode := .overlay slot shadow }) ∧
    ∀ idx, h.entryField idx = (keyedGet idx h.fields).any (fun x => x.record.kind.isEntry)) ∧
  (∀ (dwell n pages : Nat) (h h' : Head) (slot : HeadIx) (shadow : Shadow) (p : PageState) (kept : List Nat),
    h.mode = .overlay slot shadow → p = shadow.page → pages = h.pageCount n →
    kept = p.holdSet.filter (fun i => (keyedGet i shadow.tickers).isSome) → h' = h.endOverlay dwell n →
    h' = { h with mode := h'.mode, tickers := h'.tickers, overlayTicker := none } ∧
    (p.page < pages → p.phase = .dwell ∨ kept ≠ [] → h'.mode = .pages { p with holdSet := kept }) ∧
    (p.page < pages → p.phase = .hold → kept = [] →
      h'.mode = .pages ⟨(p.page + 1) % pages, .dwell, dwell, p.hold, []⟩) ∧
    (pages ≤ p.page → h'.mode = .pages ⟨0, .dwell, dwell, p.hold, []⟩) ∧
    ((shadow.tickers.map Prod.fst).Nodup → ∀ idx, keyedGet idx h'.tickers =
      match keyedGet idx shadow.tickers with
      | some k => some k
      | none => keyedGet idx h.tickers)) ∧
  ∀ (s : State) (i slot : HeadIx) (h : Head),
    ((s.takeHead i slot h).heads.get i).overlayNumber = ((s.heads.get i).overlayNumber + 1) % 256 ∧
      (s.takeHead i slot h).head i = some (h.startOverlay slot) ∧
      (h.overlaySlot = none → (s.takeHead i slot h).comps.get i = none) ∧
      ∀ j, j ≠ i → (s.takeHead i slot h).heads.get j = s.heads.get j

/-- An Advance turns the page of every masked head without an overlay (R128); a Blank and an Unblank set and clear the Blank flag of
every masked index (R133). -/
def Obligations.AdvanceAndBlankAct : Prop :=
  (∀ (f : FeedFrame) (s : State) (mask : Byte), s.TakesRequest f → f.payload = [mask] →
    (∃ (i : HeadIx) (h : Head) (p : PageState), mask.getLsbD i.val = true ∧ s.head i = some h ∧ h.mode = .pages p) →
    ∃ heads : Bank8 HeadEntry,
      (∀ i, (∀ h p p', mask.getLsbD i.val = true → s.head i = some h → h.mode = .pages p →
          p' = ⟨(p.page + 1) % h.pageCount s.entryCount, .dwell, s.mgmt.settings.dwell, p.hold, []⟩ →
          heads.get i = { s.heads.get i with head := some { h with mode := .pages p' } }) ∧
        ((mask.getLsbD i.val = false ∨ ∀ h p, s.head i = some h → h.mode ≠ .pages p) →
          heads.get i = s.heads.get i)) ∧
      Answers (.advance f) s { s with heads := heads } (s.outcomeIf f .advance .done)) ∧
  (∀ (f : FeedFrame) (s : State) (mask : Byte), s.TakesRequest f → f.payload = [mask] →
    (∀ (i : HeadIx) (h : Head) (p : PageState), mask.getLsbD i.val = true → s.head i = some h → h.mode ≠ .pages p) →
    Answers (.advance f) s s (s.outcomeIf f .advance .notNow)) ∧
  ∀ (f : FeedFrame) (s : State) (mask : Byte) (on : Bool), s.TakesRequest f → f.payload = [mask] →
    ∃ heads : Bank8 HeadEntry,
      (∀ i, heads.get i = if mask.getLsbD i.val then { s.heads.get i with blank := on } else s.heads.get i) ∧
      (on = true → Answers (.blank f) s { s with heads := heads } (s.outcomeIf f .blank .done)) ∧
      (on = false → Answers (.unblank f) s { s with heads := heads } (s.outcomeIf f .unblank .done))

/-- What a second event counts on the heads while the part is not frozen: the dwell of every head in DWELL (R126), the hold of every
head in HOLD, with each hold that ends counted (R127, R136), and every notice's duration (R130), whose end gives back every head its
overlay holds and abandons that head's composition (R132, R142), other heads, compositions and buffers unchanged; while it
is frozen, nothing (R134). That these rows are shares of a second event is the model's reading (log 9). -/
def Obligations.PageCountsRun : Prop :=
  (∀ (s : State), s.inReset = false → s.mgmt.frozen = true →
    Leaves .dwellExpiry s s ∧ Leaves .holdTimeout s s ∧ Leaves .noticeExpiry s s) ∧
  (∀ (s : State) (count : Head → Head), s.inReset = false → s.mgmt.frozen = false →
    count = Head.countDwell s.mgmt.settings.dwell s.mgmt.settings.dwellHoldLimit s.entryCount →
    ∃ heads : Bank8 HeadEntry, (∀ i, heads.get i = { s.heads.get i with head := (s.head i).map count }) ∧
    Leaves .dwellExpiry s { s with heads := heads }) ∧
  (∀ (dwell limit n : Nat) (h : Head) (p : PageState), h.mode = .pages p → p.phase = .dwell →
    (2 ≤ p.dwell → h.countDwell dwell limit n = { h with mode := .pages { p with dwell := p.dwell - 1 } }) ∧
    (p.dwell ≤ 1 → h.pageCount n = 1 →
      h.countDwell dwell limit n = { h with mode := .pages { p with page := 0, dwell := dwell } }) ∧
    (p.dwell ≤ 1 → 2 ≤ h.pageCount n → h.holdMembers = [] ∨ limit = 0 →
      h.countDwell dwell limit n =
        { h with mode := .pages ⟨(p.page + 1) % h.pageCount n, .dwell, dwell, p.hold, []⟩ }) ∧
    (p.dwell ≤ 1 → 2 ≤ h.pageCount n → h.holdMembers ≠ [] → limit ≠ 0 →
      h.countDwell dwell limit n = { h with mode := .pages ⟨p.page, .hold, 0, limit, h.holdMembers⟩ })) ∧
  (∀ (s : State), s.inReset = false → s.mgmt.frozen = false → ∃ (heads : Bank8 HeadEntry) (u : State),
    (∀ i, (∀ h p, s.head i = some h → h.mode = .pages p → p.phase = .hold → 2 ≤ p.hold →
        heads.get i = { s.heads.get i with head := some { h with mode := .pages { p with hold := p.hold - 1 } } }) ∧
      (∀ h p p', s.head i = some h → h.mode = .pages p → p.phase = .hold → p.hold ≤ 1 →
        p' = ⟨(p.page + 1) % h.pageCount s.entryCount, .dwell, s.mgmt.settings.dwell, 0, []⟩ →
        heads.get i = { s.heads.get i with head := some { h with mode := .pages p' } }) ∧
      ((∀ h p, s.head i = some h → h.mode = .pages p → p.phase = .dwell) → heads.get i = s.heads.get i)) ∧
    (∀ c, c ≠ .holdTimeouts → u.counter c = s.counter c) ∧
    (∀ n, n = (HeadIx.all.filter (fun i => (s.head i).any Head.holdEnding)).length →
      u.counter .holdTimeouts =
        if n = 0 then s.counter .holdTimeouts else min (s.counter .holdTimeouts + n) 65535) ∧
    u = { s with heads := heads, counters := u.counters } ∧ Leaves .holdTimeout s u) ∧
  ∀ (s : State), s.inReset = false → s.mgmt.frozen = false → ∃ u : State,
    (∀ i, u.notices.get i = match s.notices.get i with
      | some n =>
        match n.duration with
        | some d => if d ≤ 1 then none else some { n with duration := some (d - 1) }
        | none => some n
      | none => none) ∧
    u = { s with notices := u.notices, heads := u.heads, comps := u.comps, buffers := u.buffers } ∧
    (∀ i, (∀ h slot n d, s.head i = some h → h.overlaySlot = some slot → s.notices.get slot = some n →
        n.duration = some d → 2 ≤ d) →
      u.heads.get i = s.heads.get i ∧ u.comps.get i = s.comps.get i ∧ u.buffers.get i = s.buffers.get i) ∧
    (∀ i h slot n d, s.head i = some h → h.overlaySlot = some slot → s.notices.get slot = some n → n.duration = some d →
      d ≤ 1 →
      u.heads.get i = { s.heads.get i with head := some (h.endOverlay s.mgmt.settings.dwell s.entryCount) } ∧
        u.comps.get i = none ∧ u.buffers.get i = (if (s.comps.get i).isSome then
          { s.buffers.get i with backState := .idle } else s.buffers.get i)) ∧
    Leaves .noticeExpiry s u

/-! ### Composition -/

/-- The frame time base (R171): which events are frame events, and the state each leaves. That an expiry of the stopped frame timer
and of a watch that does not run leave the state is the model's reading (log 13). -/
def Obligations.FrameTimeBaseFollowsItsTable : Prop :=
  ∀ s : State, s.inReset = false →
    (s.link.timeBase ≠ .synced → Leaves .frameTimerExpiry s s.frameEvent) ∧
    (s.link.timeBase = .synced → Leaves .frameTimerExpiry s s) ∧
    (s.link.timeBase = .internal → Leaves .fsyncRisingEdge s s ∧ Leaves .fsyncWatchExpiry s s) ∧
    (s.link.timeBase ≠ .internal → Leaves .fsyncRisingEdge s (s.setTimeBase .synced).frameEvent) ∧
    (s.link.timeBase = .acquiring → Leaves .fsyncWatchExpiry s (s.setTimeBase .lost)) ∧
    (s.link.timeBase = .synced → Leaves .fsyncWatchExpiry s (s.setTimeBase .lost).frameEvent) ∧
    (s.link.timeBase = .lost → Leaves .fsyncWatchExpiry s s)

/-- What a frame event does (R62, R125, R139 to R141, R153, R155, R160 to R162, R166, R172 to R174). Frozen, it composes nothing.
Otherwise the tickers of every DEFINED head advance; a head without a composition in flight starts one, its back dark, from the clock
and the rows that its page shows at that moment, with the stops of a complete list and none of an open build, and each of the others is
counted Compose Lag. A head without fields, and one under an overlay, whose text it paints, completes at once (log 22). A round in
progress ends, each head not begun counted Frame Overruns and the first of them the new pointer; the new round begins with its first
due head, or waits for the head frame in transmission, unless no round may begin. Nothing else changes. That the frame number is
incremented before it is carried (log 35), what a copy keeps of an open build (log 31), and that a completion and a head frame begun at
the same event may come in either order (log 8) are the model's readings. Ticker contexts are in the order of their fields (an
invariant: FontsAndHeadsStaySound). -/
def Obligations.FrameEventsComposeUnlessFrozen : Prop :=
  (∀ s t : State, t = s.frameEvent →
    (s.mgmt.frozen = true → t = { s with link := t.link, counters := t.counters }) ∧
    t = { s with
      heads := t.heads
      comps := t.comps
      buffers := t.buffers
      counters := t.counters
      link := t.link
      freeCount := t.freeCount } ∧
    (∀ i, s.head i = none → s.SameAt t i) ∧
    (∀ c, c ∉ [Ctr.composeLag, .frameRepeats, .frameOverruns, .missingGlyphs, .missingNames, .missingReferences,
      .depthFallbacks, .strictFallbacks, .textsCut] → t.counter c = s.counter c) ∧
    (∀ n, n = (HeadIx.all.filter (fun i => (s.head i).isSome && (s.comps.get i).isSome)).length →
      t.counter .composeLag = if s.mgmt.frozen = true ∨ n = 0 then s.counter .composeLag
        else min (s.counter .composeLag + n) 65535) ∧
    (∀ i h h1 dark, s.mgmt.frozen = false → s.head i = some h →
      h1 = h.advanceTickers s.mgmt.settings.dwell s.entryCount →
      dark = (s.buffers.get i).back &&& ~~~ rectMask 0 h.width 0 h.height →
      (∀ c, s.comps.get i = some c → t.heads.get i = { s.heads.get i with head := some h1 } ∧ t.comps.get i = some c ∧
        t.buffers.get i = s.buffers.get i) ∧
      (∀ p p1, s.comps.get i = none → h.mode = .pages p → h1.mode = .pages p1 → ∃ p' : PageState,
        p' = (if p1.page < h.pageCount s.entryCount then p1 else { p1 with page := 0 }) ∧
        (p.phase = .dwell → p1 = p) ∧
        t.heads.get i = { s.heads.get i with head := some { h with mode := .pages p', tickers := h1.tickers } } ∧
        (h.fields ≠ [] →
          t.buffers.get i = { s.buffers.get i with back := dark, backState := .composing } ∧
          ∃ rows, t.comps.get i =
              some ⟨⟨.slots h.topSlot rows, s.clock.hours, s.clock.minutes, s.clock.seconds, s.clock.valid⟩, none⟩ ∧
            rows.length = h.topSlot ∧
            ∀ slot rank, 1 ≤ slot → slot ≤ h.topSlot →
              rank = (if slot = 1 then 1 else 1 + p'.page * (h.topSlot - 1) + (slot - 1)) →
              rows[slot - 1]? = some ((s.board.table[rank - 1]?).map
                (fun e => ⟨{ e with build := none },
                  e.build.map (fun b =>
                    ⟨b.rev, b.expectedPart, chainLength b.chain, b.chain.map Block.id, b.cut, b.timeout⟩),
                  e.list.map (fun l => chainStops l.chain)⟩))) ∧
        (h.fields = [] → s.CompletesAt t i dark)) ∧
      (∀ (slot : HeadIx) (shadow : Shadow) (number : Nat) (font : FontRecord) (text : Text) (loop : Nat),
        s.comps.get i = none → h.mode = .overlay slot shadow → number = (s.heads.get i).overlayNumber →
        font = s.fonts.get h.overlayFont →
        text = buildText s.names.table s.mgmt.settings.strictNames .full 640
          (match s.notices.get slot with
            | some n => if n.text = [] then [] else [.free n.text]
            | none => []) →
        loop = (text.glyphs.map (s.fonts.advance h.overlayFont)).sum + (text.glyphs.length - 1) * font.nominalGap +
          h.width →
        ∃ (k' : Option Ticker) (px : Pixels),
          t.heads.get i = { s.heads.get i with head := some { h with overlayTicker := k' } } ∧ s.CompletesAt t i px ∧
          (font.defined = false ∨ text.glyphs = [] → k' = none ∧ px = dark) ∧
          (font.defined = true → text.glyphs ≠ [] →
            (∀ k, h1.overlayTicker = some k → k.bound = some number →
              k' = some { k with pending := decide (¬ (text.glyphs = k.text ∧ loop = k.loop)) }) ∧
            ((∀ k ∈ h1.overlayTicker, k.bound ≠ some number) →
              k' = some ⟨some number, text.glyphs, text.marks, loop, 0, false⟩) ∧
            ∀ k, k' = some k →
              px = (Clip.ofRect 0 h.overlayRow h.width font.height h.width h.height).draw s.fonts h.overlayFont h.width
                dark (.ticker k.text k.loop (k.pos / 16))))) ∧
    (s.roundsRun = true ↔ s.link.owner = .owning ∧ s.link.giveWaiting = false) ∧
    (s.roundsRun = false → t.link = { s.link with period := s.mgmt.settings.framePeriod } ∧
      t.counter .frameOverruns = s.counter .frameOverruns ∧ t.counter .frameRepeats = s.counter .frameRepeats) ∧
    ∀ (p' : HeadIx) (due : List HeadIx) (k : Link), s.roundsRun = true →
      p' = (match s.link.round with
        | some (j :: _) => j
        | some [] | none => s.link.pointer) →
      due = (HeadIx.all.map (fun j => p' + j)).filter (fun j => (s.head j).isSome &&
        (decide ((s.link.heads.get j).state ≠ .absent) || (s.link.heads.get j).probeDue)) →
      k = { s.link with period := s.mgmt.settings.framePeriod, pointer := p' } →
      t.counter .frameOverruns = (match s.link.round with
        | some (_ :: rest) => min (s.counter .frameOverruns + (rest.length + 1)) 65535
        | some [] | none => s.counter .frameOverruns) ∧
      (∀ x, s.link.sending = some x → t.link = { k with round := if due = [] then none else some due } ∧
        t.counter .frameRepeats = s.counter .frameRepeats) ∧
      (s.link.sending = none → due = [] → t.link = { k with round := none, plo := [] } ∧
        t.counter .frameRepeats = s.counter .frameRepeats) ∧
      (∀ i rest h, s.link.sending = none → due = i :: rest → s.head i = some h →
        t.link = k.begun ((s.link.heads.get i).frameTo (s.heads.get i).blank i h) rest ∧
        ((s.buffers.get i).frontState = .unsent → t.counter .frameRepeats = s.counter .frameRepeats) ∧
        ((s.buffers.get i).frontState = .sent →
          s.mgmt.frozen = true ∨ (s.comps.get i).isSome = true ∨ (h.fields ≠ [] ∧ h.overlaySlot = none) →
          t.counter .frameRepeats = min (s.counter .frameRepeats + 1) 65535) ∧
        (t.counter .frameRepeats = s.counter .frameRepeats ∨
          t.counter .frameRepeats = min (s.counter .frameRepeats + 1) 65535))) ∧
  (∀ (x0 x1 y0 y1 x y : Nat), x < 256 → y < 32 → x1 ≤ 256 →
    (rectMask x0 x1 y0 y1).getLsbD (256 * y + x) = decide (x0 ≤ x ∧ x < x1 ∧ y0 ≤ y ∧ y < y1)) ∧
  (∀ (k : Ticker) (v : Nat),
    (k.pos + v < 16 * k.loop → k.advance v = (some { k with pos := k.pos + v }, false)) ∧
    (16 * k.loop ≤ k.pos + v → k.pending = false →
      k.advance v = (some { k with pos := (k.pos + v) % (16 * k.loop) }, true)) ∧
    (16 * k.loop ≤ k.pos + v → k.pending = true → k.advance v = (none, true))) ∧
  (∀ (dwell n : Nat) (h h' : Head) (p : PageState) (speed : Nat → Nat) (wraps : Nat → Bool) (kept : List Nat),
    h.mode = .pages p → h.tickers.Pairwise (fun a b => a.1 < b.1) → h' = h.advanceTickers dwell n →
    (∀ idx, speed idx = ((keyedGet idx h.fields).map (fun x => x.record.speed)).getD 0) →
    (∀ idx, wraps idx = (keyedGet idx h.tickers).any (fun k => decide (16 * k.loop ≤ k.pos + speed idx))) →
    kept = p.holdSet.filter (fun idx => !wraps idx) →
    h' = { h with mode := h'.mode, tickers := h'.tickers } ∧
    (∀ idx, keyedGet idx h'.tickers = (keyedGet idx h.tickers).bind (fun k => (k.advance (speed idx)).1)) ∧
    (p.phase = .dwell ∨ kept = p.holdSet → h'.mode = .pages p) ∧
    (p.phase = .hold → kept ≠ p.holdSet → kept ≠ [] → h'.mode = .pages { p with holdSet := kept }) ∧
    (p.phase = .hold → kept ≠ p.holdSet → kept = [] →
      h'.mode = .pages ⟨(p.page + 1) % h.pageCount n, .dwell, dwell, p.hold, []⟩)) ∧
  ∀ (dwell n : Nat) (h : Head) (slot : HeadIx) (shadow : Shadow), h.mode = .overlay slot shadow →
    h.advanceTickers dwell n = { h with overlayTicker := h.overlayTicker.bind (fun k => (k.advance 16).1) }

/-- A composition in flight paints the held field with the smallest index above the last (R141), the field list being in index order
(an invariant: FontsAndHeadsStaySound): the field's rectangle is cleared and what the plan chooses is drawn in it (R150, R154), the
field gets the status of R157, its ticker context becomes what the plan says, a discard reported to the hold (R127, R156), and the
counters of its expansions and of its missing glyphs count (R99, R111); a field without a font paints nothing; the other fields keep
what they have, and after the last the composition is over and its buffers swap when they may (R159). The plan: the result, marks and
drawing that the text and the fit ladder give, truncation and clipping, and the fate of a ticker context (R147 to R152). The texts: the
pieces of each kind of field (R77 to R79, R144 to R146), built within their limit (R143). When the last field is judged painted is the
model's reading (log 23), as are the clear marks of a field without a font (log 28) and that a head without a composition is left as it
is (log 13). -/
def Obligations.FieldPaintTakesNextField : Prop :=
  (∀ (s : State) (i : HeadIx), s.inReset = false → s.comps.get i = none → Leaves (.fieldPaint i) s s) ∧
  (∀ (s : State) (i : HeadIx) (h : Head) (c : Composition) (k : Nat) (rows : List (Option RowCopy)) (idx : Nat)
    (x : FieldSlot) (font : FontRecord) (plan : FieldPlan) (clip : Clip), s.inReset = false → s.head i = some h →
    s.comps.get i = some c → c.snapshot.rows = .slots k rows → h.fields.Pairwise (fun a b => a.1 < b.1) →
    (idx, x) ∈ h.fields → (∀ p ∈ c.painted, p < idx) →
    (∀ y ∈ h.fields, (∀ p ∈ c.painted, p < y.1) → idx ≤ y.1) → font = s.fonts.get x.record.font →
    plan = s.planField i c.snapshot x.record (keyedGet idx h.tickers) →
    clip = Clip.ofRect x.record.x x.record.y x.record.width font.height h.width h.height →
    ∃ (u : State) (h' : Head) (st : FieldStatus) (px : Pixels), Leaves (.fieldPaint i) s u ∧
      u = { s with heads := u.heads, comps := u.comps, buffers := u.buffers, counters := u.counters } ∧
      (∀ j, j ≠ i → s.SameAt u j) ∧ u.heads.get i = { s.heads.get i with head := some h' } ∧
      h' = { h with
        fields := h.fields.map (fun y => if y.1 = idx then (y.1, ⟨y.2.record, st⟩) else y)
        tickers := h'.tickers
        mode := h'.mode } ∧
      (font.defined = false → st = ⟨.noFont, ⟨false, false, false, false⟩, false, false⟩ ∧ px = (s.buffers.get i).back ∧
        u.counters = s.counters ∧ keyedGet idx h'.tickers = none) ∧
      (font.defined = true → st.result = plan.choice.result ∧ st.marks = plan.choice.marks ∧
        (st.standIn = true ↔ ∃ g ∈ plan.choice.drawing.fetched, (s.fonts.fetch x.record.font g).standIn = true) ∧
        (st.offHead = true ↔ h.width < x.record.x + x.record.width ∨ h.height < x.record.y + font.height) ∧
        px = clip.draw s.fonts x.record.font x.record.width (clip.clear (s.buffers.get i).back) plan.choice.drawing ∧
        u.counters = ((plan.tallies.foldl (fun s p => s.bumpBy p.1 p.2) s).bumpBy .missingGlyphs
          (plan.choice.drawing.fetched.filter (fun g => (s.fonts.fetch x.record.font g).standIn)).length).counters ∧
        keyedGet idx h'.tickers = match plan.ticker with
          | .keep => keyedGet idx h.tickers
          | .discard => none
          | .update k | .restart k => some k) ∧
      (∀ j, j ≠ idx → keyedGet j h'.tickers = keyedGet j h.tickers) ∧
      (∀ gone : Bool, (gone = true ↔ font.defined = false ∨ plan.ticker = .discard ∨ ∃ k, plan.ticker = .restart k) →
        ∀ p kept, h.mode = .pages p → kept = p.holdSet.filter (fun j => j != idx) →
        (gone = false ∨ p.phase = .dwell ∨ idx ∉ p.holdSet → h'.mode = .pages p) ∧
        (gone = true → p.phase = .hold → idx ∈ p.holdSet → kept ≠ [] → h'.mode = .pages { p with holdSet := kept }) ∧
        (gone = true → p.phase = .hold → idx ∈ p.holdSet → kept = [] → h'.mode =
          .pages ⟨(p.page + 1) % h.pageCount s.entryCount, .dwell, s.mgmt.settings.dwell, p.hold, []⟩)) ∧
      ((∃ y ∈ h.fields, idx < y.1) → u.comps.get i = some { c with painted := some idx } ∧
        u.buffers.get i = { s.buffers.get i with back := px }) ∧
      ((∀ y ∈ h.fields, y.1 ≤ idx) → s.CompletesAt u i px)) ∧
  (∀ (s : State) (i : HeadIx) (snap : Snapshot) (r : FieldRecord) (held : Option Ticker) (full short : Text)
    (bound : Option Nat) (wide : Text → Nat → Nat) (start : Nat → Nat) (gn gm e loop : Nat) (plan : FieldPlan)
    (static : TickerChange),
    full = s.fieldText .full i snap r → short = s.fieldText .short i snap r → bound = boundService snap r →
    (∀ t g, wide t g = (t.glyphs.map (s.fonts.advance r.font)).sum + (t.glyphs.length - 1) * g) →
    (∀ w, start w = match r.align with
      | .left => 0
      | .right => r.width - w
      | .centre => (r.width - w) / 2) →
    gn = (s.fonts.get r.font).nominalGap → gm = (s.fonts.get r.font).minGap → e = s.fonts.advance r.font 0xE1 →
    loop = wide full gn + r.spacer → plan = s.planField i snap r held →
    static = (if r.scrolls = true ∧ held ≠ none then .discard else .keep) →
    (r.scrolls = true ↔ r.kind = .calling ∨ r.fit = .scroll) ∧
    (full.glyphs = [] → plan.choice = ⟨.nothing, .empty, full.marks⟩ ∧ plan.tallies = full.tallies ∧
      plan.ticker = if r.scrolls then .discard else .keep) ∧
    (∀ k, full.glyphs ≠ [] → r.scrolls = true → held = some k → k.bound = bound →
      plan = ⟨⟨.ticker k.text k.loop (k.pos / 16), .scrolling, k.marks⟩,
        .update { k with pending := decide (¬ (full.glyphs = k.text ∧ loop = k.loop)) }, full.tallies⟩) ∧
    (full.glyphs ≠ [] → (r.scrolls = true → ∀ k ∈ held, k.bound ≠ bound) →
      (wide full gn ≤ r.width →
        plan = ⟨⟨.text full.glyphs gn (start (wide full gn)), .fitFull, full.marks⟩, static, full.tallies⟩) ∧
      (r.width < wide full gn → wide full gm ≤ r.width →
        plan = ⟨⟨.text full.glyphs gm (start (wide full gm)), .fitCondensed, full.marks⟩, static, full.tallies⟩) ∧
      (r.width < wide full gn → r.width < wide full gm →
        (full.short = true →
          (short.glyphs = [] →
            plan = ⟨⟨.nothing, .empty, short.marks⟩, static, full.tallies ++ short.tallies⟩) ∧
          (short.glyphs ≠ [] → wide short gn ≤ r.width →
            plan = ⟨⟨.text short.glyphs gn (start (wide short gn)), .fitShort, short.marks⟩, static,
              full.tallies ++ short.tallies⟩) ∧
          (short.glyphs ≠ [] → r.width < wide short gn → wide short gm ≤ r.width →
            plan = ⟨⟨.text short.glyphs gm (start (wide short gm)), .fitShortCondensed, short.marks⟩, static,
              full.tallies ++ short.tallies⟩)) ∧
        (full.short = false ∨ short.glyphs ≠ [] ∧ r.width < wide short gn ∧ r.width < wide short gm →
          plan.tallies = full.tallies ++ (if full.short then short.tallies else []) ∧
          (r.scrolls = true → plan.choice = ⟨.ticker full.glyphs loop 0, .scrolling, full.marks⟩ ∧
            plan.ticker = .restart ⟨bound, full.glyphs, full.marks, loop, 0, false⟩) ∧
          (r.scrolls = false → plan.ticker = .keep) ∧
          (r.scrolls = false → s.fonts.ellipsisLoaded = true → e ≤ r.width →
            ∃ (n : Nat) (kept : List Nat) (spaces : Nat),
              n < full.glyphs.length ∧ wide ⟨full.glyphs.take n, 0, full.marks, false, []⟩ gm + (if n = 0 then 0 else gm) +
                e ≤ r.width ∧
              (∀ m, n < m → m < full.glyphs.length →
                r.width < wide ⟨full.glyphs.take m, 0, full.marks, false, []⟩ gm + gm + e) ∧
              full.glyphs.take n = kept ++ List.replicate spaces 0x20 ∧ kept.getLast? ≠ some 0x20 ∧
              plan.choice = ⟨.text (kept ++ [0xE1]) gm 0, .truncated, full.marks⟩) ∧
          (r.scrolls = false → s.fonts.ellipsisLoaded = false ∨ r.width < e →
            plan.choice = ⟨.text full.glyphs gm 0, .clipped, full.marks⟩))))) ∧
  (∀ (snap : Snapshot) (r : FieldRecord) (k : Nat) (rows : List (Option RowCopy)), snap.rows = .slots k rows →
    (r.kind.isEntry = false → boundService snap r = none) ∧
    (∀ c, r.kind.isEntry = true → rows[r.slot - 1]? = some (some c) → boundService snap r = some c.entry.id) ∧
    ((∀ c, rows[r.slot - 1]? ≠ some (some c)) → boundService snap r = none)) ∧
  (∀ (s : State) (mode : Selector) (i : HeadIx) (snap : Snapshot) (r : FieldRecord),
    s.fieldText mode i snap r = (fieldPieces s.notices i snap r).foldl
      (Text.addPiece s.names.table s.mgmt.settings.strictNames mode)
      ⟨[], if r.kind = .calling ∨ r.fit = .scroll then 640 else 96, ⟨false, false, false, false⟩, false, []⟩) ∧
  (∀ (names : List NameEntry) (strict : Bool) (mode : Selector) (t : Text),
    (∀ p, t.marks.cut = true → t.addPiece names strict mode p = t) ∧
    (∀ p x, t.marks.cut = false →
      (∃ c, p = .name c ∧ x = expandName names strict mode t.room c) ∨
        (∃ items, p = .free items ∧ x = expandFree names strict t.room items) →
      t.addPiece names strict mode p = ⟨t.glyphs ++ x.glyphs, t.room - x.glyphs.length,
        ⟨x.cut, t.marks.missing || x.missing, t.marks.deep || x.deep, t.marks.replaced || x.replaced⟩,
        t.short || x.shortAvailable, t.tallies ++ x.counts⟩) ∧
    ∀ gs, t.marks.cut = false → t.addPiece names strict mode (.glyphs gs) =
      { t with
        glyphs := t.glyphs ++ gs.take t.room
        room := t.room - gs.length
        marks := { t.marks with cut := decide (t.room < gs.length) } }) ∧
  (∀ (notices : Bank8 (Option Notice)) (i : HeadIx) (snap : Snapshot) (r : FieldRecord) (k : Nat)
    (rows : List (Option RowCopy)) (pieces : List Piece), snap.rows = .slots k rows →
    pieces = fieldPieces notices i snap r →
    (r.kind.isEntry = true → (∀ c, rows[r.slot - 1]? ≠ some (some c)) → pieces = []) ∧
    (∀ c e d, rows[r.slot - 1]? = some (some c) → e = c.entry →
      d = ((e.expected.getD e.sched : Int) - (snap.hours * 60 + snap.minutes : Nat) + 720) % 1440 - 720 →
      (r.kind = .destination → pieces = [.name e.dest]) ∧
      (r.kind = .via → pieces = if e.via = 0 then [] else [.name 4088, .glyphs [0x20], .name e.via]) ∧
      (r.kind = .scheduled → pieces = [.glyphs (hhmm e.sched)]) ∧
      (r.kind = .platform → pieces = [.glyphs (platformGlyphs e.platform)]) ∧
      (r.kind = .cars →
        pieces = if e.cars = 0 then [] else [.glyphs (decimalDigits e.cars), .glyphs [0x20], .name 4092]) ∧
      (r.kind = .status →
        (e.moved = true → pieces = [.name 4085, .glyphs [0x20], .glyphs (platformGlyphs e.platform)]) ∧
        (e.moved = false →
          (e.status = .scheduled → pieces = [.name 4080]) ∧
          (∀ m, e.status = .expected → e.expected = some m → pieces = [.name 4084, .glyphs [0x20], .glyphs (hhmm m)]) ∧
          (e.status = .delayed → pieces = [.name 4081]) ∧ (e.status = .cancelled → pieces = [.name 4082]) ∧
          (e.status = .departed → pieces = [.name 4083]))) ∧
      (r.kind = .due →
        (e.status = .cancelled ∨ e.status = .departed → pieces = []) ∧
        (e.status ≠ .cancelled → e.status ≠ .departed →
          (snap.valid = false → pieces = [.glyphs [0x2D, 0x2D, 0x3A, 0x2D, 0x2D]]) ∧
          (snap.valid = true → d ≤ 0 → pieces = [.name 4091]) ∧
          (snap.valid = true → d = 1 → pieces = [.glyphs [0x31], .glyphs [0x20], .name 4089]) ∧
          (snap.valid = true → 2 ≤ d → d ≤ 99 →
            pieces = [.glyphs (decimalDigits d.toNat), .glyphs [0x20], .name 4090]) ∧
          (snap.valid = true → 100 ≤ d → pieces = [.glyphs (hhmm (e.expected.getD e.sched))]))) ∧
      (r.kind = .calling → ∀ (stops : List Stop) (named : Stop → List Piece) (more : List Piece),
        (∀ x, named x = match x.kind with
          | .request => [.name x.station, .glyphs [0xE4]]
          | .split => [.name x.station, .glyphs [0xE5]]
          | .normal | .cancelled => [.name x.station]) →
        more = (if e.truncated then [.glyphs [0x20], .name 4093] else []) ++ [.name 4095] →
        stops = (c.stops.getD []).filter (fun x => x.kind != .cancelled) →
        (c.stops = none ∨ e.status = .cancelled ∨ stops = [] → pieces = []) ∧
        (∀ x, e.status ≠ .cancelled → stops = [x] → pieces = [.name 4086, .glyphs [0x20]] ++ named x ++ more) ∧
        (∀ x mid y, e.status ≠ .cancelled → stops = x :: mid ++ [y] →
          pieces = [.name 4086, .glyphs [0x20]] ++ named x ++ mid.flatMap (fun z => .name 4094 :: named z) ++
            [.glyphs [0x20], .name 4087, .glyphs [0x20]] ++ named y ++ more))) ∧
    (r.kind = .clock → pieces = [.glyphs (if snap.valid then
        (if r.showSeconds then hhmmss snap.hours snap.minutes snap.seconds else hhmm (snap.hours * 60 + snap.minutes))
      else if r.showSeconds then [0x2D, 0x2D, 0x3A, 0x2D, 0x2D, 0x3A, 0x2D, 0x2D]
      else [0x2D, 0x2D, 0x3A, 0x2D, 0x2D])]) ∧
    (r.kind = .notice → r.noticeSlot < 8 →
      (∀ slot n, slot.val = r.noticeSlot → notices.get slot = some n → n.text ≠ [] →
        pieces = if n.priority = .info ∧ n.mask.getLsbD i.val = true then [.free n.text] else []) ∧
      (∀ slot, slot.val = r.noticeSlot → notices.get slot = none → pieces = [])) ∧
    (r.kind = .static → pieces = if r.text = [] then [] else [.free r.text])) ∧
  (∀ n, n < 1440 →
    hhmm n = [0x30 + n / 600, 0x30 + n / 60 % 10, 0x3A, 0x30 + n % 60 / 10, 0x30 + n % 60 % 10]) ∧
  (∀ h m s, h < 24 → m < 60 → s < 60 → hhmmss h m s = [0x30 + h / 10, 0x30 + h % 10, 0x3A, 0x30 + m / 10, 0x30 + m % 10,
    0x3A, 0x30 + s / 10, 0x30 + s % 10]) ∧
  (∀ n, n < 100 → decimalDigits n = (Nat.toDigits 10 n).map Char.toNat) ∧
  ∀ p : Platform, p.number < 100 → platformGlyphs p = (Nat.toDigits 10 p.number).map Char.toNat ++ match p.suffix with
    | .none => []
    | .a => [0x41]
    | .b => [0x42]
    | .c => [0x43]
    | .d => [0x44]

/-- A field clears and draws inside its own rectangle, cut to the head: every other pixel of the buffer is as it was (R150,
R154). -/
def Obligations.PaintingStaysInItsRectangle : Prop :=
  (∀ (c : Clip) (f : Fonts) (font width : Nat) (px : Pixels) (d : Drawing) (x y : Nat), x < 256 → y < 32 → c.x1 ≤ 256 →
    ¬ (c.x0 ≤ x ∧ x < c.x1 ∧ c.y0 ≤ y ∧ y < c.y1) →
    (c.draw f font width (c.clear px) d).getLsbD (256 * y + x) = px.getLsbD (256 * y + x)) ∧
  ∀ (x y w h hw hh : Nat) (c : Clip), c = Clip.ofRect x y w h hw hh →
    c.x1 ≤ hw ∧ c.x1 ≤ x + w ∧ c.y1 ≤ hh ∧ c.y1 ≤ y + h ∧ c.x0 = x ∧ c.y0 = y

/-! ### The Panel Link -/

/-- A head frame goes out as its header, its rows from the front buffer, and EOF, with HOLDN tested before each row (R166 to
R168). What the pair carries is shown group by group (log 33). -/
def Obligations.HeadFrameGoesOut : Prop :=
  ∀ (s : State) (x : HeadFrame), s.inReset = false → s.link.sending = some x →
    (x.phase = .header →
      Leaves (.headerSent false) s { s with link := { s.link with
        sending := some { x with phase := .row 0 }
        plo := rowSymbols (s.buffers.get x.head).front x.width 0 } } ∧
      Leaves (.headerSent true) s
        { s with link := { s.link with sending := some { x with phase := .holdWait 0 }, plo := [] } }) ∧
    (∀ y, x.phase = .row y → y + 1 < x.height →
      Leaves (.rowSent false) s { s with link := { s.link with
        sending := some { x with phase := .row (y + 1) }
        plo := rowSymbols (s.buffers.get x.head).front x.width (y + 1) } } ∧
      Leaves (.rowSent true) s
        { s with link := { s.link with sending := some { x with phase := .holdWait (y + 1) }, plo := [] } }) ∧
    (∀ y holdn, x.phase = .row y → x.height ≤ y + 1 →
      Leaves (.rowSent holdn) s { s with link := { s.link with
        sending := some { x with phase := .answer s.mgmt.settings.ackTimeout }
        plo := [.eof] } }) ∧
    ∀ y, x.phase = .holdWait y →
      Leaves .holdnRelease s { s with link := { s.link with
        sending := some { x with phase := .row y }
        plo := rowSymbols (s.buffers.get x.head).front x.width y } }

/-- The four ends of a head frame (R167, R168): the counter of each (R180), the head's state and miss count by the table of R169, the
front SENT and the swap rule (R142, R159, R160), and the head frame that the round begins next, a dropped head passed over and a front
already SENT counted Frame Repeats (R160, R166, R172); the frame number it carries is the increased one (log 35). An answer that names another head, that has no fault code of the four, or that no head
frame awaits is a stray; so is each answer that is broken or too short in a run of groups (R168, R202). That an ACK or NAK symbol
that breaks an answer begins the next, and that the end of the run ends an answer, is the model's reading (log 40). -/
def Obligations.AnswersEndHeadFrames : Prop :=
  (∀ (s : State) (x : HeadFrame) (e : FrameEnd) (b : Buffers) (l : LinkHead) (t : State),
    s.inReset = false → s.link.owner ≠ .waiting → s.link.sending = some x → t = s.endFrame x e →
    b = s.buffers.get x.head → l = s.link.heads.get x.head →
    (∀ n amb, x.phase = .answer n → e = .ack amb.toNat → Leaves (.ackReceived (b8 x.head.val) amb) s t) ∧
    (∀ n code c, x.phase = .answer n → FaultCode.ofCode code.toNat = some c → e = .nak c →
      Leaves (.nakReceived (b8 x.head.val) code) s t) ∧
    (∀ n, x.phase = .answer n → e = .timeout → Leaves .ackTimeout s t) ∧
    (∀ y, x.phase = .holdWait y → e = .holdAbort → Leaves .holdLimitExpiry s t) ∧
    (x.void = true → (t.link.heads.get x.head).state = l.state ∧ (t.link.heads.get x.head).ambient = l.ambient) ∧
    (x.void = false → (t.link.heads.get x.head).state = (match e with
        | .ack _ => .present
        | .nak _ => .faulted
        | .timeout | .holdAbort =>
          match l.state with
          | .unknown | .present | .faulted => .silent
          | .silent => if 3 ≤ l.misses + 1 then .absent else .silent
          | .absent => .absent) ∧
      (t.link.heads.get x.head).ambient = (match e with
        | .ack a => some a
        | .nak _ | .timeout | .holdAbort => l.ambient) ∧
      (t.link.heads.get x.head).faultCode = (match e with
        | .ack _ => none
        | .nak c => some c
        | .timeout | .holdAbort => l.faultCode)) ∧
    (x.void = true → (t.link.heads.get x.head).misses = l.misses) ∧
    (x.void = false → (t.link.heads.get x.head).misses = (match e with
        | .ack _ | .nak _ => 0
        | .timeout | .holdAbort =>
          match l.state with
          | .unknown | .present | .faulted => 1
          | .silent => if 3 ≤ l.misses + 1 then 3 else l.misses + 1
          | .absent => 3)) ∧
    (∀ c, c ≠ .frameRepeats → t.counter c = (match e with
        | .ack _ => s
        | .nak _ => s.bump .headFaults
        | .timeout => s.bump .headTimeouts
        | .holdAbort => s.bump .holdAborts).counter c) ∧
    (s.link.owner = .owning → s.link.giveWaiting = false →
      (x.clearFront = false → b.backState ≠ .complete → t.buffers.get x.head = { b with frontState := .sent }) ∧
      (x.clearFront = false → b.backState = .complete → t.buffers.get x.head = ⟨b.back, b.front, .unsent, .idle⟩) ∧
      (x.clearFront = true → b.backState ≠ .complete → t.buffers.get x.head = { b with front := 0, frontState := .unsent }) ∧
      (x.clearFront = true → b.backState = .complete → t.buffers.get x.head =
        if (t.link.heads.get x.head).state = .absent then ⟨b.back, 0, .unsent, .idle⟩
        else { b with front := 0, frontState := .unsent }) ∧
      (∀ j, j ≠ x.head → t.buffers.get j = s.buffers.get j))) ∧
  (∀ (s : State) (x : HeadFrame) (e : FrameEnd) (t : State) (k : Link), s.link.sending = some x → t = s.endFrame x e →
    k = { s.link with
      sending := none
      heads := s.link.heads.set x.head
        (if x.void then s.link.heads.get x.head else (s.link.heads.get x.head).after e) } →
    t = { s with link := t.link, buffers := t.buffers, counters := t.counters } ∧
    (s.link.owner = .owning → s.link.giveWaiting = false →
      (s.link.round = none → t.link = { k with plo := [] } ∧ t.counter .frameRepeats = s.counter .frameRepeats) ∧
      (∀ r, s.link.round = some r → (∀ j ∈ r, s.head j = none) →
        t.link = { k with round := none, plo := [] } ∧ t.counter .frameRepeats = s.counter .frameRepeats) ∧
      (∀ dropped j rest h, s.link.round = some (dropped ++ j :: rest) → (∀ j ∈ dropped, s.head j = none) →
        s.head j = some h →
        t.link = k.begun ((k.heads.get j).frameTo (s.heads.get j).blank j h) rest ∧
        t.counter .frameRepeats = if (t.buffers.get j).frontState = .sent then min (s.counter .frameRepeats + 1) 65535
          else s.counter .frameRepeats))) ∧
  (∀ l : LinkHead,
    (∀ a, l.after (.ack a) =
      { l with state := .present, misses := 0, faultCode := none, ambient := some a, probeDue := false }) ∧
    (∀ c, l.after (.nak c) = { l with state := .faulted, misses := 0, faultCode := some c, probeDue := false }) ∧
    ∀ e, e = .timeout ∨ e = .holdAbort → l.after e = match l.state with
      | .unknown | .present | .faulted => { l with state := .silent, misses := 1 }
      | .silent =>
        if 3 ≤ l.misses + 1 then { l with state := .absent, misses := 3 } else { l with misses := l.misses + 1 }
      | .absent => { l with misses := 3 }) ∧
  (∀ (s u : State) (hd amb code : Byte), s.inReset = false →
    u = (if s.link.owner = .waiting then { s with link := { s.link with windowMark := true } } else s) →
    ((∀ x n, s.link.sending = some x → x.phase = .answer n → hd.toNat ≠ x.head.val) →
      Leaves (.ackReceived hd amb) s (u.bump .strayAnswers) ∧ Leaves (.nakReceived hd code) s (u.bump .strayAnswers)) ∧
    (FaultCode.ofCode code.toNat = none → Leaves (.nakReceived hd code) s (u.bump .strayAnswers))) ∧
  (∀ (s u : State) (groups : List (BitVec 5)), s.inReset = false →
    u = (if s.link.owner = .waiting ∧ (∃ g ∈ groups, ∃ x, Sym.ofGroup g = some x ∧ x ≠ .idle) then
      { s with link := { s.link with windowMark := true } } else s) →
    Leaves (.answerNotWellFormed groups) s ((answersIn none groups).foldl State.takeAnswer u)) ∧
  (∀ (s : State) (hd x : Byte), s.inReset = false → s.link.owner ≠ .waiting →
    Leaves (.ackReceived hd x) s (s.takeAnswer (some (.ack hd x))) ∧
    Leaves (.nakReceived hd x) s (s.takeAnswer (some (.nak hd x))) ∧
    s.takeAnswer none = s.bump .strayAnswers) ∧
  (answersIn none [] = [] ∧ ∀ g rest, Sym.ofGroup g ≠ some .ack → Sym.ofGroup g ≠ some .nak →
    answersIn none (g :: rest) = answersIn none rest) ∧
  (∀ (hd x : Byte) (rest : List (BitVec 5)),
    answersIn none (([Sym.ack] ++ nibbles hd ++ nibbles x).map Sym.group ++ rest) = some (.ack hd x) :: answersIn none rest ∧
    answersIn none (([Sym.nak] ++ nibbles hd ++ nibbles x).map Sym.group ++ rest) = some (.nak hd x) :: answersIn none rest) ∧
  ∀ (start : Sym) (ns : List (BitVec 4)), start = .ack ∨ start = .nak → ns.length < 4 →
    answersIn none ((start :: ns.map .nibble).map Sym.group) = [none] ∧
    ∀ g rest, (∀ v, Sym.ofGroup g ≠ some (.nibble v)) →
      answersIn none ((start :: ns.map .nibble).map Sym.group ++ g :: rest) = none :: answersIn none (g :: rest)

/-- The ownership tables of a Primary (R177) and of a Standby (R178, R179): LREQ, LGNT, activity, the Grant Wait window, Take Link and
Give Link, and the end of the head frame in transmission, which takes a RELEASING Primary to GRANTED and a Standby with a Give Link
waiting to IDLE. A part that loses the link drives it no more, and a Primary that is GRANTED asserts LGNT. That GRANT_WAIT_EXPIRY, and
LGNT at a Primary, leave the state outside WAITING is the model's reading (log 13). -/
def Obligations.OwnershipChangesHands : Prop :=
  (∀ (s : State) (o : Ownership), o = .granted ∨ o = .idle → s.link.sending = none →
    (s.loseLink o).link = { s.link with owner := o, giveWaiting := false, round := none, plo := [] } ∧
    s.loseLink o = { s with link := (s.loseLink o).link, buffers := (s.loseLink o).buffers } ∧
    (s.loseLink o).driving = false ∧ (s.inReset = false → s.straps.role = .primary → o = .granted →
      (s.loseLink o).lgntOut = true) ∧
    ∀ i, ((s.loseLink o).buffers.get i).backState ≠ .complete) ∧
  (∀ (s t : State) (x : HeadFrame) (e : FrameEnd), s.link.sending = some x → t = s.endFrame x e →
    (s.link.owner = .releasing → t.link.owner = .granted ∧
      (s.inReset = false → s.straps.role = .primary → t.lgntOut = true)) ∧
    (s.link.owner ≠ .releasing → s.link.giveWaiting = true → t.link.owner = .idle) ∧
    (s.link.owner = .releasing ∨ s.link.giveWaiting = true →
      t.link.sending = none ∧ t.link.round = none ∧ t.link.giveWaiting = false ∧ t.link.plo = [] ∧ t.driving = false ∧
        ∀ i, (t.buffers.get i).backState ≠ .complete)) ∧
  (∀ s : State, s.inReset = false → s.straps.role = .primary →
    (s.link.owner = .owning → s.link.sending = none →
      Leaves .lreqAsserted s ((s.setLreq true).loseLink .granted)) ∧
    (∀ x, s.link.owner = .owning → s.link.sending = some x →
      Leaves .lreqAsserted s
        { s with link := { s.link with lreqIn := true, owner := .releasing, round := none } }) ∧
    (s.link.owner = .releasing → Leaves .lreqReleased s
      { s with link := { s.link with lreqIn := false, owner := .owning } }) ∧
    (s.link.owner = .granted → Leaves .lreqReleased s { s with link := { s.link with
      lreqIn := false
      owner := .owning
      giveWaiting := false
      windowMark := false
      plo := [] } })) ∧
  (∀ s : State, s.inReset = false → s.link.owner = .waiting →
    Leaves .activity s { s with link := { s.link with windowMark := true } } ∧
    Leaves .lgntAsserted s
      { s with link := { s.link with owner := .owning, giveWaiting := false, windowMark := false, plo := [] } } ∧
    (s.link.windowMark = true → Leaves .grantWaitExpiry s
      { s with link := { s.link with windowMark := false, linkWait := min (s.link.linkWait + 1) 255 } }) ∧
    (s.link.windowMark = false → Leaves .grantWaitExpiry s
      (({ s with link := { s.link with
        owner := .owning
        giveWaiting := false
        windowMark := false
        plo := [] } }).bump .forcedTakes))) ∧
  (∀ s : State, s.inReset = false → s.link.owner ≠ .waiting →
    Leaves .activity s s ∧ Leaves .lgntAsserted s s ∧ Leaves .grantWaitExpiry s s) ∧
  ∀ (f : FeedFrame) (s : State), s.TakesRequest f → f.payload = [] →
    (s.straps.role = .primary → Answers (.takeLink f) s s (s.outcomeIf f .takeLink .notNow) ∧
      Answers (.giveLink f) s s (s.outcomeIf f .giveLink .notNow)) ∧
    (s.straps.role = .standby →
      (s.link.owner = .idle →
        Answers (.takeLink f) s { s with link := { s.link with owner := .waiting, windowMark := false, linkWait := 0 } }
          (s.outcomeIf f .takeLink .done) ∧
        Answers (.giveLink f) s s (s.outcomeIf f .giveLink .notNow)) ∧
      (s.link.owner = .waiting ∨ s.link.owner = .owning →
        Answers (.takeLink f) s s (s.outcomeIf f .takeLink .done)) ∧
      (s.link.owner = .waiting →
        Answers (.giveLink f) s { s with link := { s.link with owner := .idle, windowMark := false } }
          (s.outcomeIf f .giveLink .done)) ∧
      (s.link.owner = .owning → s.link.sending = none →
        Answers (.giveLink f) s (s.loseLink .idle) (s.outcomeIf f .giveLink .done)) ∧
      (∀ x, s.link.owner = .owning → s.link.sending = some x →
        Answers (.giveLink f) s { s with link := { s.link with giveWaiting := true, round := none } }
          (s.outcomeIf f .giveLink .done)))

/-- R176: a wrong length is MALFORMED; otherwise each threshold is the value carried or the threshold before it, whichever is
greater, the table is replaced whole, and the step of the next second event reads it. What the Panel Link does at a second event: the
three rows of R175 for a DEFINED head in AUTO mode with a reading, the probe-due mark of every DEFINED head that is ABSENT (R170), and
nothing else. -/
def Obligations.BrightnessTableNeverDecreases : Prop :=
  (∀ (f : FeedFrame) (s : State), s.TakesData f →
    (f.payload.length ≠ 15 → Completes (.brightnessTablePut f) f .brightnessTablePut s s .malformed) ∧
    (f.payload.length = 15 → ∃ table : List Nat, table.length = 15 ∧ table.getD 0 0 = u8 f.payload 0 ∧
      (∀ k, k < 14 → table.getD (k + 1) 0 = max (table.getD k 0) (u8 f.payload (k + 1))) ∧
      Completes (.brightnessTablePut f) f .brightnessTablePut s { s with link := { s.link with thresholds := table } }
        (if table = f.payload.map BitVec.toNat then .done else .adjusted))) ∧
  ∀ s t : State, t = s.linkSecond →
    t = { s with link := { s.link with heads := t.link.heads } } ∧
    (∀ i, s.head i = none → t.link.heads.get i = s.link.heads.get i) ∧
    ∀ (i : HeadIx) (h : Head) (l l' : LinkHead) (threshold : Nat → Nat), s.head i = some h → l = s.link.heads.get i →
      l' = t.link.heads.get i → (∀ n, threshold n = s.link.thresholds.getD (n - 1) 0) →
      l' = { l with autoLevel := l'.autoLevel, probeDue := l'.probeDue } ∧
      (l.state = .absent → l'.probeDue = true) ∧ (l.state ≠ .absent → l'.probeDue = l.probeDue) ∧
      (h.brightness ≠ .auto ∨ l.ambient = none → l'.autoLevel = l.autoLevel) ∧
      ∀ a, h.brightness = .auto → l.ambient = some a →
        (l.autoLevel < 15 → threshold (l.autoLevel + 1) ≤ a → l'.autoLevel = l.autoLevel + 1) ∧
        (0 < l.autoLevel → (l.autoLevel < 15 → a < threshold (l.autoLevel + 1)) →
          a + s.mgmt.settings.hysteresis < threshold l.autoLevel → l'.autoLevel = l.autoLevel - 1) ∧
        ((l.autoLevel < 15 → a < threshold (l.autoLevel + 1)) →
          (0 < l.autoLevel → threshold l.autoLevel ≤ a + s.mgmt.settings.hysteresis) → l'.autoLevel = l.autoLevel)

/-! ### Management -/

/-- A Configure of one pair sets its setting, clamped to its range, and nothing else; a new Own Platform settles Moved, a new Day
Start reorders the table, a new Sync Source moves the time base, and the present value of each of the three changes nothing (R24,
R36, R171, R188). -/
def Obligations.ConfigureSetsItsSetting : Prop :=
  ∀ (f : FeedFrame) (s : State) (v : Nat) (set : Settings → State), s.TakesRequest f → v ≤ 65535 →
    (∀ x, set x = { s with mgmt := { s.mgmt with settings := x } }) →
    (f.payload = 1 :: b16 v → Answers (.configureZone f) s { s with feed := { s.feed with zone := min v 255 } }
      (s.outcomeIf f .configure (if v ≤ 255 then .done else .adjusted))) ∧
    (f.payload = 2 :: b16 v → Answers (.configureGroup f) s { s with feed := { s.feed with group := min v 255 } }
      (s.outcomeIf f .configure (if v ≤ 255 then .done else .adjusted))) ∧
    (∀ (p : Platform) (code : OutcomeCode), f.payload = 3 :: b16 v →
      p = ⟨max 1 (min (v / 256) 99), match v % 256 with
        | 1 => .a
        | 2 => .b
        | 3 => .c
        | 4 => .d
        | _ => .none⟩ →
      code = (if 1 ≤ v / 256 ∧ v / 256 ≤ 99 ∧ v % 256 ≤ 4 then .done else .adjusted) →
      (p ≠ s.mgmt.settings.ownPlatform → Answers (.configureOwnPlatform f) s
        { (set { s.mgmt.settings with ownPlatform := p }) with board := s.board.newOwnPlatform s.mgmt.settings p }
        (s.outcomeIf f .configure code)) ∧
      (p = s.mgmt.settings.ownPlatform → Answers (.configureOwnPlatform f) s s (s.outcomeIf f .configure code))) ∧
    (f.payload = 4 :: b16 v →
      (min v 1439 ≠ s.mgmt.settings.dayStart → Answers (.configureDayStart f) s
        { (set { s.mgmt.settings with dayStart := min v 1439 }) with
          board := { s.board with table := reorder (min v 1439) s.board.table } }
        (s.outcomeIf f .configure (if v ≤ 1439 then .done else .adjusted))) ∧
      (min v 1439 = s.mgmt.settings.dayStart → Answers (.configureDayStart f) s s
        (s.outcomeIf f .configure (if v ≤ 1439 then .done else .adjusted)))) ∧
    (f.payload = 5 :: b16 v → Answers (.configureOverdueLimit f) s
      (set { s.mgmt.settings with overdueLimit := max 1 (min v 120) })
      (s.outcomeIf f .configure (if 1 ≤ v ∧ v ≤ 120 then .done else .adjusted))) ∧
    (f.payload = 6 :: b16 v → Answers (.configureDelayedLimit f) s
      (set { s.mgmt.settings with delayedLimit := max 1 (min v 240) })
      (s.outcomeIf f .configure (if 1 ≤ v ∧ v ≤ 240 then .done else .adjusted))) ∧
    (f.payload = 7 :: b16 v → Answers (.configureDepartedLinger f) s
      (set { s.mgmt.settings with departedLinger := min v 600 })
      (s.outcomeIf f .configure (if v ≤ 600 then .done else .adjusted))) ∧
    (f.payload = 8 :: b16 v → Answers (.configureMovedLinger f) s
      (set { s.mgmt.settings with movedLinger := min v 30 })
      (s.outcomeIf f .configure (if v ≤ 30 then .done else .adjusted))) ∧
    (f.payload = 9 :: b16 v → Answers (.configureDwell f) s
      (set { s.mgmt.settings with dwell := max 2 (min v 60) })
      (s.outcomeIf f .configure (if 2 ≤ v ∧ v ≤ 60 then .done else .adjusted))) ∧
    (f.payload = 10 :: b16 v → Answers (.configureDwellHoldLimit f) s
      (set { s.mgmt.settings with dwellHoldLimit := min v 60 })
      (s.outcomeIf f .configure (if v ≤ 60 then .done else .adjusted))) ∧
    (f.payload = 11 :: b16 v → Answers (.configureBuildTimeout f) s
      (set { s.mgmt.settings with buildTimeout := max 1 (min v 60) })
      (s.outcomeIf f .configure (if 1 ≤ v ∧ v ≤ 60 then .done else .adjusted))) ∧
    (f.payload = 12 :: b16 v → Answers (.configureFreezeTimeout f) s
      (set { s.mgmt.settings with freezeTimeout := max 1 (min v 255) })
      (s.outcomeIf f .configure (if 1 ≤ v ∧ v ≤ 255 then .done else .adjusted))) ∧
    (f.payload = 13 :: b16 v → Answers (.configureStrictNames f) s
      (set { s.mgmt.settings with strictNames := decide (1 ≤ v) })
      (s.outcomeIf f .configure (if v ≤ 1 then .done else .adjusted))) ∧
    (f.payload = 14 :: b16 v → Answers (.configureFramePeriod f) s
      (set { s.mgmt.settings with framePeriod := if v < 30 then 20 else 40 })
      (s.outcomeIf f .configure (if v = 20 ∨ v = 40 then .done else .adjusted))) ∧
    (f.payload = 15 :: b16 v →
      (v = 0 → s.mgmt.settings.syncSource = .fsync → Answers (.configureSyncSource f) s
        { (set { s.mgmt.settings with syncSource := .internal }) with
          link := { s.link with timeBase := .internal } } (s.outcomeIf f .configure .done)) ∧
      (1 ≤ v → s.mgmt.settings.syncSource = .internal → Answers (.configureSyncSource f) s
        { (set { s.mgmt.settings with syncSource := .fsync }) with
          link := { s.link with timeBase := .acquiring } }
        (s.outcomeIf f .configure (if v ≤ 1 then .done else .adjusted))) ∧
      ((v = 0 ↔ s.mgmt.settings.syncSource = .internal) → Answers (.configureSyncSource f) s s
        (s.outcomeIf f .configure (if v ≤ 1 then .done else .adjusted)))) ∧
    (f.payload = 16 :: b16 v → Answers (.configureAckTimeout f) s
      (set { s.mgmt.settings with ackTimeout := max 1 (min v 255) })
      (s.outcomeIf f .configure (if 1 ≤ v ∧ v ≤ 255 then .done else .adjusted))) ∧
    (f.payload = 17 :: b16 v → Answers (.configureHysteresis f) s
      (set { s.mgmt.settings with hysteresis := min v 32 })
      (s.outcomeIf f .configure (if v ≤ 32 then .done else .adjusted)))

/-- R187: an Event Clear removes the named events, but a level event whose condition holds is pending again; an Event Enable
replaces the enable set; both are DONE. -/
def Obligations.EventsClearAndEnable : Prop :=
  ∀ (f : FeedFrame) (s : State) (mask : Byte), s.TakesRequest f → f.payload = [mask] →
    (∃ t, exec (.eventClear f) s = .next t ∧ t.mgmt.pendingEvents = s.mgmt.pendingEvents &&& ~~~mask ||| s.levels) ∧
    Answers (.eventClear f) s { s with mgmt := { s.mgmt with pendingEvents := s.mgmt.pendingEvents &&& ~~~mask } }
      (s.outcomeIf f .eventClear .done) ∧
    Answers (.eventEnable f) s { s with mgmt := { s.mgmt with enable := mask } } (s.outcomeIf f .eventEnable .done)

/-- R189: Freeze, Unfreeze, and the count of a second event, for which the model takes the row FREEZE_TIMEOUT (log 9). -/
def Obligations.FreezeIsCounted : Prop :=
  (∀ (f : FeedFrame) (s : State), s.TakesRequest f → f.payload = [] →
    Answers (.freeze f) s
      { s with mgmt := { s.mgmt with frozen := true, freezeRemaining := s.mgmt.settings.freezeTimeout } }
      (s.outcomeIf f .freeze .done) ∧
    (s.mgmt.frozen = true → Answers (.unfreeze f) s
      { s with mgmt := { s.mgmt with frozen := false, freezeRemaining := 0 } } (s.outcomeIf f .unfreeze .done)) ∧
    (s.mgmt.frozen = false → Answers (.unfreeze f) s s (s.outcomeIf f .unfreeze .notNow))) ∧
  ∀ s : State, s.inReset = false →
    (s.mgmt.frozen = false → Leaves .freezeTimeout s s) ∧
    (s.mgmt.frozen = true → 2 ≤ s.mgmt.freezeRemaining → Leaves .freezeTimeout s
      { s with mgmt := { s.mgmt with freezeRemaining := s.mgmt.freezeRemaining - 1 } }) ∧
    (s.mgmt.frozen = true → s.mgmt.freezeRemaining ≤ 1 → Leaves .freezeTimeout s
      (({ s with mgmt := { s.mgmt with frozen := false, freezeRemaining := 0 } }).raise .freezeExpired))

/-- A Status Query is answered with the items of R184 laid out as R200 says, its last byte the link wait of a WAITING Standby
(free otherwise: log 19); a Counter Read is answered with every counter, the two that its own arrival counts included (log 16), and
with Clear leaves every counter 0 (R185). -/
def Obligations.StatusAndCountersAreAnswered : Prop :=
  (∀ (f : FeedFrame) (s : State), s.TakesRequest f → f.payload = [] →
    ∃ (t : State) (wait : Byte), exec (.statusQuery f) s = .next t ∧
      t.Matches { s with freeCount := t.freeCount } ∧ (s.link.owner = .waiting → wait = b8 s.link.linkWait) ∧
      t.feed.slot = some (replyBody statusReplyKind (b8 s.feed.address) f.tag
        ([0] ++ serialBytes s.serial ++
          [b8 s.feed.address, b8 s.feed.zone, b8 s.feed.group, if s.straps.role = .primary then 0 else 1,
            b8 s.clock.hours, b8 s.clock.minutes, b8 s.clock.seconds,
            flagByte [s.clock.valid, s.clock.lost, s.mgmt.frozen, s.syncLost, s.panelFault],
            b8 s.board.table.length, b8 s.board.free.length] ++ b16 s.names.table.length ++
          HeadIx.all.flatMap (fun i => [b8 ((if (s.head i).isSome then 128 else 0) + (s.link.heads.get i).state.code),
            b8 (faultByte (s.link.heads.get i).faultCode)]) ++
          [s.mgmt.pendingEvents, s.mgmt.enable, b8 s.mgmt.freezeRemaining, b8 s.link.owner.code, wait]))) ∧
  ∀ (f : FeedFrame) (s : State) (flags : Byte) (own : State), s.TakesRequest f → f.payload = [flags] →
    own = (s.bump .framesAccepted).bump .framesActedOn →
    (flags.getLsbD 0 = false → Answers (.counterRead f) s s
      (some (replyBody counterReplyKind (b8 s.feed.address) f.tag ([0, 40] ++ own.counters.toList.flatMap b16)))) ∧
    (flags.getLsbD 0 = true → Answers (.counterReadClear f) s { s with counters := Vector.replicate 40 0 }
        (some (replyBody counterReplyKind (b8 s.feed.address) f.tag ([0, 40] ++ own.counters.toList.flatMap b16))) ∧
      ∃ t, exec (.counterReadClear f) s = .next t ∧ ∀ c, t.counter c = 0)

/-- A Read Back answers the item that its key names and moves the read pointer to it, and a Read Next answers an item above the
pointer (R190); the items are those of the owners (the coding of "defined" in a font item is the model's, log 39), and the bytes without
a value are free (log 19). -/
def Obligations.ReadRequestsAnswerItems : Prop :=
  (∀ (f : FeedFrame) (s : State) (t : ReadTable) (k1 k2 k3 : Byte) (item : ReadItem) (c : Instr), s.TakesRequest f →
    f.payload = [b8 t.code, k1, k2, k3] →
    (t, c) ∈ [(ReadTable.departure, Instr.readBackDeparture f), (.callingList, .readBackCallingList f),
      (.name, .readBackName f), (.font, .readBackFont f), (.glyph, .readBackGlyph f), (.head, .readBackHead f),
      (.field, .readBackField f), (.notice, .readBackNotice f)] →
    badKey t k1.toNat k2.toNat k3.toNat = false →
    (headOfTable t k1.toNat k2.toNat = false ∧ s.itemAt t k1.toNat k2.toNat k3.toNat = some item ∨
      headOfTable t k1.toNat k2.toNat = true ∧ s.itemAfter t none = some item) →
    ∃ (u : State) (l : List Byte), exec c s = .next u ∧ Fits l item.2 ∧
      u.Matches { s with mgmt := { s.mgmt with readPtr := .pos t (some item.1) }, freeCount := u.freeCount } ∧
      u.feed.slot = some (replyBody readReplyKind (b8 s.feed.address) f.tag ([0, b8 t.code] ++ l))) ∧
  (∀ (f : FeedFrame) (s : State) (t : ReadTable) (key : Option (Nat × Nat)) (item : ReadItem), s.TakesRequest f →
    f.payload = [] → s.mgmt.readPtr = .pos t key → s.itemAfter t key = some item →
    ∃ (u : State) (l : List Byte), exec (.readNext f) s = .next u ∧ Fits l item.2 ∧
      u.Matches { s with mgmt := { s.mgmt with readPtr := .pos t (some item.1) }, freeCount := u.freeCount } ∧
      u.feed.slot = some (replyBody readReplyKind (b8 s.feed.address) f.tag ([0, b8 t.code] ++ l))) ∧
  (∀ (s : State) (t : ReadTable) (k : Nat × Nat) (item : ReadItem), s.itemAfter t (some k) = some item →
    keyLt k item.1 = true) ∧
  ∀ (s : State) (key : Option (Nat × Nat)) (item : ReadItem), s.BoardSound → s.itemAfter .departure key = some item →
    ∃ e ∈ s.board.table, item = (e.key s.mgmt.settings.dayStart, given (departureContent s.board.table e)) ∧
      ∀ x ∈ s.board.table, (∀ k ∈ key, keyLt k (x.key s.mgmt.settings.dayStart) = true) →
        x = e ∨ keyLt item.1 (x.key s.mgmt.settings.dayStart) = true

/-- An Address Assign whose search area holds the marker run and the serial three times is answered whether or not an outcome was
asked for: an address of 1..120 is taken, another is refused; without a match nothing happens (R191). -/
def Obligations.AddressAssignTakesAddress : Prop :=
  ∀ (f : FeedFrame) (s : State) (a : Byte) (area : List Byte), s.TakesRequest f → f.payload = a :: area →
    (∀ before after, area = before ++ [0xA5, 0xA5, 0xA5, 0xA5] ++ serialBytes s.serial ++ serialBytes s.serial ++
        serialBytes s.serial ++ after → 0xA5 ∉ before → area.length ≤ 80 →
      (1 ≤ a.toNat → a.toNat ≤ 120 → Answers (.addressAssign f) s { s with feed := { s.feed with address := a.toNat } }
        (some (replyBody outcomeReplyKind a f.tag [Kind.addressAssign.code, b8 OutcomeCode.done.code]))) ∧
      (a.toNat = 0 ∨ 120 < a.toNat → Answers (.addressAssign f) s s
        (some (replyBody outcomeReplyKind (b8 s.feed.address) f.tag
          [Kind.addressAssign.code, b8 OutcomeCode.malformed.code])))) ∧
    (80 < area.length ∨ area.length < 22 → Answers (.addressAssign f) s s none)

/-- A Restart without Want Outcome is carried out at its arrival, where it leaves the receiver in HUNT (the model's reading, log 38),
and one with it when its reply has been sent (R192): the stores, the layouts and the counters are emptied, the settings take their
defaults, RESTARTED is pending, and identity, clock, straps and ownership are kept (R21, R47, R67, R81, R101, R117, R138, R164,
R182). That a Give Link waiting for the end of a head frame is kept too is the model's choice (log 42). -/
def Obligations.RestartEmptiesTheStores : Prop :=
  (∀ (f : FeedFrame) (s : State), s.TakesRequest f → f.payload = [] →
    (f.flags.getLsbD 0 = false → Leaves (.restart f) s s.restart) ∧
    (f.flags.getLsbD 0 = true → Answers (.restart f) s { s with mgmt := { s.mgmt with restartWaiting := true } }
      (some (s.outcomeFor f .restart .done)))) ∧
  (∀ (s : State) (r : List Byte), s.inReset = false → s.feed.tx = .reply r → s.mgmt.restartWaiting = true →
    ∃ u, Leaves .replySent s u ∧ u = { s.restart with feed := { s.restart.feed with tx := .gap } }) ∧
  ∀ s t : State, t = s.restart →
    t.board.table = [] ∧ t.board.memory = [] ∧ t.board.free.Perm (List.range 160) ∧ t.names.table = [] ∧
      (∀ id, (t.fonts.get id).defined = false) ∧ (∀ c, t.counter c = 0) ∧
      (∀ i, t.head i = none ∧ (t.heads.get i).blank = false ∧ (t.heads.get i).overlayNumber = 0 ∧
        t.notices.get i = none ∧ t.comps.get i = none ∧ t.link.heads.get i = ⟨.unknown, 0, none, none, 8, 0, false⟩ ∧
        (s.sendingTo i = false → t.buffers.get i = ⟨0, 0, .unsent, .idle⟩) ∧
        (s.sendingTo i = true → t.buffers.get i = { s.buffers.get i with back := 0, backState := .idle })) ∧
      t.link.round = none ∧ t.link.pointer = 0 ∧
      t.link.sending = s.link.sending.map (fun x => { x with void := true, clearFront := true }) ∧
      t.link.owner = s.link.owner ∧ t.link.windowMark = s.link.windowMark ∧ t.link.linkWait = s.link.linkWait ∧
      t.link.lreqIn = s.link.lreqIn ∧ t.link.giveWaiting = s.link.giveWaiting ∧ t.link.timeBase = .internal ∧ t.mgmt.settings = Settings.defaults ∧
      t.mgmt.pendingEvents = Event.restarted.mask ∧ t.mgmt.enable = 0xFF ∧ t.mgmt.frozen = false ∧
      t.mgmt.readPtr = .none ∧ t.mgmt.restartWaiting = false ∧ t.feed.rx = .hunt ∧ t.feed.queue = [] ∧
      t.feed.slot = none ∧ t.feed.address = s.feed.address ∧ t.feed.zone = s.feed.zone ∧ t.feed.group = s.feed.group ∧
      t.clock = s.clock ∧ t.serial = s.serial ∧ t.straps = s.straps ∧ t.pending = s.pending

/-! ### Invariants of every step -/

/-- The table stays ordered and within 32 entries, no service is both in the table and in the memory of at most 16 records, and
every block of the pool is in exactly one place (R22, R23, R26, R48). -/
def Obligations.BoardStaysSound : Prop :=
  ∀ s s' : State, s.BoardSound → step s = .next s' → s'.BoardSound

/-- Calling lists stay filled block by block within 48 stops (R49); the clock stays a time of day (R68); the Name Table stays in code
order within 1,024 entries (R82). -/
def Obligations.ListsClockAndNamesStaySound : Prop :=
  ∀ s s' : State, s.ListsSound ∧ s.ClockSound ∧ s.NamesSound → step s = .next s' →
    s'.ListsSound ∧ s'.ClockSound ∧ s'.NamesSound

/-- Font records stay within their ranges (R102, R103), DEFINED heads keep a legal geometry and their fields in index order (R118,
R119, R122), and ticker contexts stay in the order of their fields, one for a field (R151), each within its loop (R153). -/
def Obligations.FontsAndHeadsStaySound : Prop :=
  ∀ s s' : State, s.FontsSound ∧ s.HeadsSound → step s = .next s' → s'.FontsSound ∧ s'.HeadsSound

/-- A composition is in flight only on a DEFINED head with a COMPOSING back (R139, R158), and no swap is left undone (R159). -/
def Obligations.SwapsAreNeverLeft : Prop :=
  ∀ s s' : State, s.CompositionsSound ∧ s.SwapsDone → step s = .next s' → s'.CompositionsSound ∧ s'.SwapsDone

/-- The part sends no head frame while it does not own the Panel Link, and its ownership state stays one of its role's (R177 to
R179); the head states and the thresholds stay within their ranges (R169, R170, R174). -/
def Obligations.OwnershipAndLinkStaySound : Prop :=
  ∀ s s' : State, s.OwnershipSound ∧ s.LinkSound → step s = .next s' → s'.OwnershipSound ∧ s'.LinkSound

/-- Counters stay 16-bit (R19), the Feed Ring Port keeps within its bounds (R3, R15, R16, R18), every setting stays in its range
(R188), the Freeze count is 0 exactly while not frozen (R189), and a level event whose condition holds is pending (R186).
That the receive buffer is empty outside BODY is the model's reading (log 15). -/
def Obligations.BoundsAndLevelsAreKept : Prop :=
  ∀ s s' : State, s.CountersBounded ∧ s.feed.Bounded ∧ s.MgmtSound ∧ s.LevelsHeld → step s = .next s' →
    s'.CountersBounded ∧ s'.feed.Bounded ∧ s'.MgmtSound ∧ s'.LevelsHeld

/-- The state after reset has every one of these invariants. -/
def Obligations.ResetStateIsSound : Prop :=
  State.reset.CountersBounded ∧ State.reset.feed.Bounded ∧ State.reset.BoardSound ∧ State.reset.ListsSound ∧
    State.reset.ClockSound ∧ State.reset.NamesSound ∧ State.reset.FontsSound ∧ State.reset.HeadsSound ∧
    State.reset.CompositionsSound ∧ State.reset.SwapsDone ∧ State.reset.OwnershipSound ∧ State.reset.LinkSound ∧
    State.reset.MgmtSound ∧ State.reset.LevelsHeld

end
end

