-- ==== Sys2Proof/Laws/State.lean ====
section
/-! SUPPORT. What each named update of the state changes, and what it leaves: one lemma for each field. -/

namespace Sys2Proof.Machine

@[simp] theorem State.bumpBy_pending (s : State) (c : Ctr) (n : Nat) : (s.bumpBy c n).pending = s.pending := rfl
@[simp] theorem State.bumpBy_inReset (s : State) (c : Ctr) (n : Nat) : (s.bumpBy c n).inReset = s.inReset := rfl
@[simp] theorem State.bumpBy_straps (s : State) (c : Ctr) (n : Nat) : (s.bumpBy c n).straps = s.straps := rfl
@[simp] theorem State.bumpBy_serial (s : State) (c : Ctr) (n : Nat) : (s.bumpBy c n).serial = s.serial := rfl
@[simp] theorem State.bumpBy_feed (s : State) (c : Ctr) (n : Nat) : (s.bumpBy c n).feed = s.feed := rfl
@[simp] theorem State.bumpBy_board (s : State) (c : Ctr) (n : Nat) : (s.bumpBy c n).board = s.board := rfl
@[simp] theorem State.bumpBy_clock (s : State) (c : Ctr) (n : Nat) : (s.bumpBy c n).clock = s.clock := rfl
@[simp] theorem State.bumpBy_names (s : State) (c : Ctr) (n : Nat) : (s.bumpBy c n).names = s.names := rfl
@[simp] theorem State.bumpBy_fonts (s : State) (c : Ctr) (n : Nat) : (s.bumpBy c n).fonts = s.fonts := rfl
@[simp] theorem State.bumpBy_heads (s : State) (c : Ctr) (n : Nat) : (s.bumpBy c n).heads = s.heads := rfl
@[simp] theorem State.bumpBy_notices (s : State) (c : Ctr) (n : Nat) : (s.bumpBy c n).notices = s.notices := rfl
@[simp] theorem State.bumpBy_comps (s : State) (c : Ctr) (n : Nat) : (s.bumpBy c n).comps = s.comps := rfl
@[simp] theorem State.bumpBy_buffers (s : State) (c : Ctr) (n : Nat) : (s.bumpBy c n).buffers = s.buffers := rfl
@[simp] theorem State.bumpBy_link (s : State) (c : Ctr) (n : Nat) : (s.bumpBy c n).link = s.link := rfl
@[simp] theorem State.bumpBy_mgmt (s : State) (c : Ctr) (n : Nat) : (s.bumpBy c n).mgmt = s.mgmt := rfl
@[simp] theorem State.bumpBy_freeCount (s : State) (c : Ctr) (n : Nat) : (s.bumpBy c n).freeCount = s.freeCount := rfl

@[simp] theorem State.bump_pending (s : State) (c : Ctr) : (s.bump c).pending = s.pending := rfl
@[simp] theorem State.bump_inReset (s : State) (c : Ctr) : (s.bump c).inReset = s.inReset := rfl
@[simp] theorem State.bump_straps (s : State) (c : Ctr) : (s.bump c).straps = s.straps := rfl
@[simp] theorem State.bump_serial (s : State) (c : Ctr) : (s.bump c).serial = s.serial := rfl
@[simp] theorem State.bump_feed (s : State) (c : Ctr) : (s.bump c).feed = s.feed := rfl
@[simp] theorem State.bump_board (s : State) (c : Ctr) : (s.bump c).board = s.board := rfl
@[simp] theorem State.bump_clock (s : State) (c : Ctr) : (s.bump c).clock = s.clock := rfl
@[simp] theorem State.bump_names (s : State) (c : Ctr) : (s.bump c).names = s.names := rfl
@[simp] theorem State.bump_fonts (s : State) (c : Ctr) : (s.bump c).fonts = s.fonts := rfl
@[simp] theorem State.bump_heads (s : State) (c : Ctr) : (s.bump c).heads = s.heads := rfl
@[simp] theorem State.bump_notices (s : State) (c : Ctr) : (s.bump c).notices = s.notices := rfl
@[simp] theorem State.bump_comps (s : State) (c : Ctr) : (s.bump c).comps = s.comps := rfl
@[simp] theorem State.bump_buffers (s : State) (c : Ctr) : (s.bump c).buffers = s.buffers := rfl
@[simp] theorem State.bump_link (s : State) (c : Ctr) : (s.bump c).link = s.link := rfl
@[simp] theorem State.bump_mgmt (s : State) (c : Ctr) : (s.bump c).mgmt = s.mgmt := rfl
@[simp] theorem State.bump_freeCount (s : State) (c : Ctr) : (s.bump c).freeCount = s.freeCount := rfl

@[simp] theorem State.clearCounters_pending (s : State) : (s.clearCounters).pending = s.pending := rfl
@[simp] theorem State.clearCounters_inReset (s : State) : (s.clearCounters).inReset = s.inReset := rfl
@[simp] theorem State.clearCounters_straps (s : State) : (s.clearCounters).straps = s.straps := rfl
@[simp] theorem State.clearCounters_serial (s : State) : (s.clearCounters).serial = s.serial := rfl
@[simp] theorem State.clearCounters_feed (s : State) : (s.clearCounters).feed = s.feed := rfl
@[simp] theorem State.clearCounters_board (s : State) : (s.clearCounters).board = s.board := rfl
@[simp] theorem State.clearCounters_clock (s : State) : (s.clearCounters).clock = s.clock := rfl
@[simp] theorem State.clearCounters_names (s : State) : (s.clearCounters).names = s.names := rfl
@[simp] theorem State.clearCounters_fonts (s : State) : (s.clearCounters).fonts = s.fonts := rfl
@[simp] theorem State.clearCounters_heads (s : State) : (s.clearCounters).heads = s.heads := rfl
@[simp] theorem State.clearCounters_notices (s : State) : (s.clearCounters).notices = s.notices := rfl
@[simp] theorem State.clearCounters_comps (s : State) : (s.clearCounters).comps = s.comps := rfl
@[simp] theorem State.clearCounters_buffers (s : State) : (s.clearCounters).buffers = s.buffers := rfl
@[simp] theorem State.clearCounters_link (s : State) : (s.clearCounters).link = s.link := rfl
@[simp] theorem State.clearCounters_mgmt (s : State) : (s.clearCounters).mgmt = s.mgmt := rfl
@[simp] theorem State.clearCounters_freeCount (s : State) : (s.clearCounters).freeCount = s.freeCount := rfl

@[simp] theorem State.clearFeedCounters_pending (s : State) : (s.clearFeedCounters).pending = s.pending := rfl
@[simp] theorem State.clearFeedCounters_inReset (s : State) : (s.clearFeedCounters).inReset = s.inReset := rfl
@[simp] theorem State.clearFeedCounters_straps (s : State) : (s.clearFeedCounters).straps = s.straps := rfl
@[simp] theorem State.clearFeedCounters_serial (s : State) : (s.clearFeedCounters).serial = s.serial := rfl
@[simp] theorem State.clearFeedCounters_feed (s : State) : (s.clearFeedCounters).feed = s.feed := rfl
@[simp] theorem State.clearFeedCounters_board (s : State) : (s.clearFeedCounters).board = s.board := rfl
@[simp] theorem State.clearFeedCounters_clock (s : State) : (s.clearFeedCounters).clock = s.clock := rfl
@[simp] theorem State.clearFeedCounters_names (s : State) : (s.clearFeedCounters).names = s.names := rfl
@[simp] theorem State.clearFeedCounters_fonts (s : State) : (s.clearFeedCounters).fonts = s.fonts := rfl
@[simp] theorem State.clearFeedCounters_heads (s : State) : (s.clearFeedCounters).heads = s.heads := rfl
@[simp] theorem State.clearFeedCounters_notices (s : State) : (s.clearFeedCounters).notices = s.notices := rfl
@[simp] theorem State.clearFeedCounters_comps (s : State) : (s.clearFeedCounters).comps = s.comps := rfl
@[simp] theorem State.clearFeedCounters_buffers (s : State) : (s.clearFeedCounters).buffers = s.buffers := rfl
@[simp] theorem State.clearFeedCounters_link (s : State) : (s.clearFeedCounters).link = s.link := rfl
@[simp] theorem State.clearFeedCounters_mgmt (s : State) : (s.clearFeedCounters).mgmt = s.mgmt := rfl
@[simp] theorem State.clearFeedCounters_freeCount (s : State) : (s.clearFeedCounters).freeCount = s.freeCount := rfl

@[simp] theorem State.raise_pending (s : State) (e : Event) : (s.raise e).pending = s.pending := rfl
@[simp] theorem State.raise_inReset (s : State) (e : Event) : (s.raise e).inReset = s.inReset := rfl
@[simp] theorem State.raise_straps (s : State) (e : Event) : (s.raise e).straps = s.straps := rfl
@[simp] theorem State.raise_serial (s : State) (e : Event) : (s.raise e).serial = s.serial := rfl
@[simp] theorem State.raise_feed (s : State) (e : Event) : (s.raise e).feed = s.feed := rfl
@[simp] theorem State.raise_counters (s : State) (e : Event) : (s.raise e).counters = s.counters := rfl
@[simp] theorem State.raise_board (s : State) (e : Event) : (s.raise e).board = s.board := rfl
@[simp] theorem State.raise_clock (s : State) (e : Event) : (s.raise e).clock = s.clock := rfl
@[simp] theorem State.raise_names (s : State) (e : Event) : (s.raise e).names = s.names := rfl
@[simp] theorem State.raise_fonts (s : State) (e : Event) : (s.raise e).fonts = s.fonts := rfl
@[simp] theorem State.raise_heads (s : State) (e : Event) : (s.raise e).heads = s.heads := rfl
@[simp] theorem State.raise_notices (s : State) (e : Event) : (s.raise e).notices = s.notices := rfl
@[simp] theorem State.raise_comps (s : State) (e : Event) : (s.raise e).comps = s.comps := rfl
@[simp] theorem State.raise_buffers (s : State) (e : Event) : (s.raise e).buffers = s.buffers := rfl
@[simp] theorem State.raise_link (s : State) (e : Event) : (s.raise e).link = s.link := rfl
@[simp] theorem State.raise_freeCount (s : State) (e : Event) : (s.raise e).freeCount = s.freeCount := rfl
@[simp] theorem State.raise_mgmt_settings (s : State) (e : Event) : (s.raise e).mgmt.settings = s.mgmt.settings := rfl
@[simp] theorem State.raise_mgmt_enable (s : State) (e : Event) : (s.raise e).mgmt.enable = s.mgmt.enable := rfl
@[simp] theorem State.raise_mgmt_frozen (s : State) (e : Event) : (s.raise e).mgmt.frozen = s.mgmt.frozen := rfl
@[simp] theorem State.raise_mgmt_freezeRemaining (s : State) (e : Event) : (s.raise e).mgmt.freezeRemaining = s.mgmt.freezeRemaining := rfl
@[simp] theorem State.raise_mgmt_readPtr (s : State) (e : Event) : (s.raise e).mgmt.readPtr = s.mgmt.readPtr := rfl
@[simp] theorem State.raise_mgmt_restartWaiting (s : State) (e : Event) : (s.raise e).mgmt.restartWaiting = s.mgmt.restartWaiting := rfl

@[simp] theorem State.holdLevels_pending (s : State) : (s.holdLevels).pending = s.pending := rfl
@[simp] theorem State.holdLevels_inReset (s : State) : (s.holdLevels).inReset = s.inReset := rfl
@[simp] theorem State.holdLevels_straps (s : State) : (s.holdLevels).straps = s.straps := rfl
@[simp] theorem State.holdLevels_serial (s : State) : (s.holdLevels).serial = s.serial := rfl
@[simp] theorem State.holdLevels_feed (s : State) : (s.holdLevels).feed = s.feed := rfl
@[simp] theorem State.holdLevels_counters (s : State) : (s.holdLevels).counters = s.counters := rfl
@[simp] theorem State.holdLevels_board (s : State) : (s.holdLevels).board = s.board := rfl
@[simp] theorem State.holdLevels_clock (s : State) : (s.holdLevels).clock = s.clock := rfl
@[simp] theorem State.holdLevels_names (s : State) : (s.holdLevels).names = s.names := rfl
@[simp] theorem State.holdLevels_fonts (s : State) : (s.holdLevels).fonts = s.fonts := rfl
@[simp] theorem State.holdLevels_heads (s : State) : (s.holdLevels).heads = s.heads := rfl
@[simp] theorem State.holdLevels_notices (s : State) : (s.holdLevels).notices = s.notices := rfl
@[simp] theorem State.holdLevels_comps (s : State) : (s.holdLevels).comps = s.comps := rfl
@[simp] theorem State.holdLevels_buffers (s : State) : (s.holdLevels).buffers = s.buffers := rfl
@[simp] theorem State.holdLevels_link (s : State) : (s.holdLevels).link = s.link := rfl
@[simp] theorem State.holdLevels_freeCount (s : State) : (s.holdLevels).freeCount = s.freeCount := rfl
@[simp] theorem State.holdLevels_mgmt_settings (s : State) : (s.holdLevels).mgmt.settings = s.mgmt.settings := rfl
@[simp] theorem State.holdLevels_mgmt_enable (s : State) : (s.holdLevels).mgmt.enable = s.mgmt.enable := rfl
@[simp] theorem State.holdLevels_mgmt_frozen (s : State) : (s.holdLevels).mgmt.frozen = s.mgmt.frozen := rfl
@[simp] theorem State.holdLevels_mgmt_freezeRemaining (s : State) : (s.holdLevels).mgmt.freezeRemaining = s.mgmt.freezeRemaining := rfl
@[simp] theorem State.holdLevels_mgmt_readPtr (s : State) : (s.holdLevels).mgmt.readPtr = s.mgmt.readPtr := rfl
@[simp] theorem State.holdLevels_mgmt_restartWaiting (s : State) : (s.holdLevels).mgmt.restartWaiting = s.mgmt.restartWaiting := rfl

@[simp] theorem State.setHead_pending (s : State) (i : HeadIx) (h : Option Head) : (s.setHead i h).pending = s.pending := rfl
@[simp] theorem State.setHead_inReset (s : State) (i : HeadIx) (h : Option Head) : (s.setHead i h).inReset = s.inReset := rfl
@[simp] theorem State.setHead_straps (s : State) (i : HeadIx) (h : Option Head) : (s.setHead i h).straps = s.straps := rfl
@[simp] theorem State.setHead_serial (s : State) (i : HeadIx) (h : Option Head) : (s.setHead i h).serial = s.serial := rfl
@[simp] theorem State.setHead_feed (s : State) (i : HeadIx) (h : Option Head) : (s.setHead i h).feed = s.feed := rfl
@[simp] theorem State.setHead_counters (s : State) (i : HeadIx) (h : Option Head) : (s.setHead i h).counters = s.counters := rfl
@[simp] theorem State.setHead_board (s : State) (i : HeadIx) (h : Option Head) : (s.setHead i h).board = s.board := rfl
@[simp] theorem State.setHead_clock (s : State) (i : HeadIx) (h : Option Head) : (s.setHead i h).clock = s.clock := rfl
@[simp] theorem State.setHead_names (s : State) (i : HeadIx) (h : Option Head) : (s.setHead i h).names = s.names := rfl
@[simp] theorem State.setHead_fonts (s : State) (i : HeadIx) (h : Option Head) : (s.setHead i h).fonts = s.fonts := rfl
@[simp] theorem State.setHead_notices (s : State) (i : HeadIx) (h : Option Head) : (s.setHead i h).notices = s.notices := rfl
@[simp] theorem State.setHead_comps (s : State) (i : HeadIx) (h : Option Head) : (s.setHead i h).comps = s.comps := rfl
@[simp] theorem State.setHead_buffers (s : State) (i : HeadIx) (h : Option Head) : (s.setHead i h).buffers = s.buffers := rfl
@[simp] theorem State.setHead_link (s : State) (i : HeadIx) (h : Option Head) : (s.setHead i h).link = s.link := rfl
@[simp] theorem State.setHead_mgmt (s : State) (i : HeadIx) (h : Option Head) : (s.setHead i h).mgmt = s.mgmt := rfl
@[simp] theorem State.setHead_freeCount (s : State) (i : HeadIx) (h : Option Head) : (s.setHead i h).freeCount = s.freeCount := rfl

@[simp] theorem State.setLinkHead_pending (s : State) (i : HeadIx) (h : LinkHead) : (s.setLinkHead i h).pending = s.pending := rfl
@[simp] theorem State.setLinkHead_inReset (s : State) (i : HeadIx) (h : LinkHead) : (s.setLinkHead i h).inReset = s.inReset := rfl
@[simp] theorem State.setLinkHead_straps (s : State) (i : HeadIx) (h : LinkHead) : (s.setLinkHead i h).straps = s.straps := rfl
@[simp] theorem State.setLinkHead_serial (s : State) (i : HeadIx) (h : LinkHead) : (s.setLinkHead i h).serial = s.serial := rfl
@[simp] theorem State.setLinkHead_feed (s : State) (i : HeadIx) (h : LinkHead) : (s.setLinkHead i h).feed = s.feed := rfl
@[simp] theorem State.setLinkHead_counters (s : State) (i : HeadIx) (h : LinkHead) : (s.setLinkHead i h).counters = s.counters := rfl
@[simp] theorem State.setLinkHead_board (s : State) (i : HeadIx) (h : LinkHead) : (s.setLinkHead i h).board = s.board := rfl
@[simp] theorem State.setLinkHead_clock (s : State) (i : HeadIx) (h : LinkHead) : (s.setLinkHead i h).clock = s.clock := rfl
@[simp] theorem State.setLinkHead_names (s : State) (i : HeadIx) (h : LinkHead) : (s.setLinkHead i h).names = s.names := rfl
@[simp] theorem State.setLinkHead_fonts (s : State) (i : HeadIx) (h : LinkHead) : (s.setLinkHead i h).fonts = s.fonts := rfl
@[simp] theorem State.setLinkHead_heads (s : State) (i : HeadIx) (h : LinkHead) : (s.setLinkHead i h).heads = s.heads := rfl
@[simp] theorem State.setLinkHead_notices (s : State) (i : HeadIx) (h : LinkHead) : (s.setLinkHead i h).notices = s.notices := rfl
@[simp] theorem State.setLinkHead_comps (s : State) (i : HeadIx) (h : LinkHead) : (s.setLinkHead i h).comps = s.comps := rfl
@[simp] theorem State.setLinkHead_buffers (s : State) (i : HeadIx) (h : LinkHead) : (s.setLinkHead i h).buffers = s.buffers := rfl
@[simp] theorem State.setLinkHead_mgmt (s : State) (i : HeadIx) (h : LinkHead) : (s.setLinkHead i h).mgmt = s.mgmt := rfl
@[simp] theorem State.setLinkHead_freeCount (s : State) (i : HeadIx) (h : LinkHead) : (s.setLinkHead i h).freeCount = s.freeCount := rfl
@[simp] theorem State.setLinkHead_link_round (s : State) (i : HeadIx) (h : LinkHead) : (s.setLinkHead i h).link.round = s.link.round := rfl
@[simp] theorem State.setLinkHead_link_pointer (s : State) (i : HeadIx) (h : LinkHead) : (s.setLinkHead i h).link.pointer = s.link.pointer := rfl
@[simp] theorem State.setLinkHead_link_sending (s : State) (i : HeadIx) (h : LinkHead) : (s.setLinkHead i h).link.sending = s.link.sending := rfl
@[simp] theorem State.setLinkHead_link_thresholds (s : State) (i : HeadIx) (h : LinkHead) : (s.setLinkHead i h).link.thresholds = s.link.thresholds := rfl
@[simp] theorem State.setLinkHead_link_timeBase (s : State) (i : HeadIx) (h : LinkHead) : (s.setLinkHead i h).link.timeBase = s.link.timeBase := rfl
@[simp] theorem State.setLinkHead_link_period (s : State) (i : HeadIx) (h : LinkHead) : (s.setLinkHead i h).link.period = s.link.period := rfl
@[simp] theorem State.setLinkHead_link_owner (s : State) (i : HeadIx) (h : LinkHead) : (s.setLinkHead i h).link.owner = s.link.owner := rfl
@[simp] theorem State.setLinkHead_link_giveWaiting (s : State) (i : HeadIx) (h : LinkHead) : (s.setLinkHead i h).link.giveWaiting = s.link.giveWaiting := rfl
@[simp] theorem State.setLinkHead_link_windowMark (s : State) (i : HeadIx) (h : LinkHead) : (s.setLinkHead i h).link.windowMark = s.link.windowMark := rfl
@[simp] theorem State.setLinkHead_link_linkWait (s : State) (i : HeadIx) (h : LinkHead) : (s.setLinkHead i h).link.linkWait = s.link.linkWait := rfl
@[simp] theorem State.setLinkHead_link_plo (s : State) (i : HeadIx) (h : LinkHead) : (s.setLinkHead i h).link.plo = s.link.plo := rfl
@[simp] theorem State.setLinkHead_link_lreqIn (s : State) (i : HeadIx) (h : LinkHead) : (s.setLinkHead i h).link.lreqIn = s.link.lreqIn := rfl

@[simp] theorem State.setBuffers_pending (s : State) (i : HeadIx) (b : Buffers) : (s.setBuffers i b).pending = s.pending := rfl
@[simp] theorem State.setBuffers_inReset (s : State) (i : HeadIx) (b : Buffers) : (s.setBuffers i b).inReset = s.inReset := rfl
@[simp] theorem State.setBuffers_straps (s : State) (i : HeadIx) (b : Buffers) : (s.setBuffers i b).straps = s.straps := rfl
@[simp] theorem State.setBuffers_serial (s : State) (i : HeadIx) (b : Buffers) : (s.setBuffers i b).serial = s.serial := rfl
@[simp] theorem State.setBuffers_feed (s : State) (i : HeadIx) (b : Buffers) : (s.setBuffers i b).feed = s.feed := rfl
@[simp] theorem State.setBuffers_counters (s : State) (i : HeadIx) (b : Buffers) : (s.setBuffers i b).counters = s.counters := rfl
@[simp] theorem State.setBuffers_board (s : State) (i : HeadIx) (b : Buffers) : (s.setBuffers i b).board = s.board := rfl
@[simp] theorem State.setBuffers_clock (s : State) (i : HeadIx) (b : Buffers) : (s.setBuffers i b).clock = s.clock := rfl
@[simp] theorem State.setBuffers_names (s : State) (i : HeadIx) (b : Buffers) : (s.setBuffers i b).names = s.names := rfl
@[simp] theorem State.setBuffers_fonts (s : State) (i : HeadIx) (b : Buffers) : (s.setBuffers i b).fonts = s.fonts := rfl
@[simp] theorem State.setBuffers_heads (s : State) (i : HeadIx) (b : Buffers) : (s.setBuffers i b).heads = s.heads := rfl
@[simp] theorem State.setBuffers_notices (s : State) (i : HeadIx) (b : Buffers) : (s.setBuffers i b).notices = s.notices := rfl
@[simp] theorem State.setBuffers_comps (s : State) (i : HeadIx) (b : Buffers) : (s.setBuffers i b).comps = s.comps := rfl
@[simp] theorem State.setBuffers_link (s : State) (i : HeadIx) (b : Buffers) : (s.setBuffers i b).link = s.link := rfl
@[simp] theorem State.setBuffers_mgmt (s : State) (i : HeadIx) (b : Buffers) : (s.setBuffers i b).mgmt = s.mgmt := rfl
@[simp] theorem State.setBuffers_freeCount (s : State) (i : HeadIx) (b : Buffers) : (s.setBuffers i b).freeCount = s.freeCount := rfl

@[simp] theorem State.setPlo_pending (s : State) (out : List Sym) : (s.setPlo out).pending = s.pending := rfl
@[simp] theorem State.setPlo_inReset (s : State) (out : List Sym) : (s.setPlo out).inReset = s.inReset := rfl
@[simp] theorem State.setPlo_straps (s : State) (out : List Sym) : (s.setPlo out).straps = s.straps := rfl
@[simp] theorem State.setPlo_serial (s : State) (out : List Sym) : (s.setPlo out).serial = s.serial := rfl
@[simp] theorem State.setPlo_feed (s : State) (out : List Sym) : (s.setPlo out).feed = s.feed := rfl
@[simp] theorem State.setPlo_counters (s : State) (out : List Sym) : (s.setPlo out).counters = s.counters := rfl
@[simp] theorem State.setPlo_board (s : State) (out : List Sym) : (s.setPlo out).board = s.board := rfl
@[simp] theorem State.setPlo_clock (s : State) (out : List Sym) : (s.setPlo out).clock = s.clock := rfl
@[simp] theorem State.setPlo_names (s : State) (out : List Sym) : (s.setPlo out).names = s.names := rfl
@[simp] theorem State.setPlo_fonts (s : State) (out : List Sym) : (s.setPlo out).fonts = s.fonts := rfl
@[simp] theorem State.setPlo_heads (s : State) (out : List Sym) : (s.setPlo out).heads = s.heads := rfl
@[simp] theorem State.setPlo_notices (s : State) (out : List Sym) : (s.setPlo out).notices = s.notices := rfl
@[simp] theorem State.setPlo_comps (s : State) (out : List Sym) : (s.setPlo out).comps = s.comps := rfl
@[simp] theorem State.setPlo_buffers (s : State) (out : List Sym) : (s.setPlo out).buffers = s.buffers := rfl
@[simp] theorem State.setPlo_mgmt (s : State) (out : List Sym) : (s.setPlo out).mgmt = s.mgmt := rfl
@[simp] theorem State.setPlo_freeCount (s : State) (out : List Sym) : (s.setPlo out).freeCount = s.freeCount := rfl
@[simp] theorem State.setPlo_link_heads (s : State) (out : List Sym) : (s.setPlo out).link.heads = s.link.heads := rfl
@[simp] theorem State.setPlo_link_round (s : State) (out : List Sym) : (s.setPlo out).link.round = s.link.round := rfl
@[simp] theorem State.setPlo_link_pointer (s : State) (out : List Sym) : (s.setPlo out).link.pointer = s.link.pointer := rfl
@[simp] theorem State.setPlo_link_sending (s : State) (out : List Sym) : (s.setPlo out).link.sending = s.link.sending := rfl
@[simp] theorem State.setPlo_link_thresholds (s : State) (out : List Sym) : (s.setPlo out).link.thresholds = s.link.thresholds := rfl
@[simp] theorem State.setPlo_link_timeBase (s : State) (out : List Sym) : (s.setPlo out).link.timeBase = s.link.timeBase := rfl
@[simp] theorem State.setPlo_link_period (s : State) (out : List Sym) : (s.setPlo out).link.period = s.link.period := rfl
@[simp] theorem State.setPlo_link_owner (s : State) (out : List Sym) : (s.setPlo out).link.owner = s.link.owner := rfl
@[simp] theorem State.setPlo_link_giveWaiting (s : State) (out : List Sym) : (s.setPlo out).link.giveWaiting = s.link.giveWaiting := rfl
@[simp] theorem State.setPlo_link_windowMark (s : State) (out : List Sym) : (s.setPlo out).link.windowMark = s.link.windowMark := rfl
@[simp] theorem State.setPlo_link_linkWait (s : State) (out : List Sym) : (s.setPlo out).link.linkWait = s.link.linkWait := rfl
@[simp] theorem State.setPlo_link_lreqIn (s : State) (out : List Sym) : (s.setPlo out).link.lreqIn = s.link.lreqIn := rfl

@[simp] theorem State.setSending_pending (s : State) (f : Option HeadFrame) : (s.setSending f).pending = s.pending := rfl
@[simp] theorem State.setSending_inReset (s : State) (f : Option HeadFrame) : (s.setSending f).inReset = s.inReset := rfl
@[simp] theorem State.setSending_straps (s : State) (f : Option HeadFrame) : (s.setSending f).straps = s.straps := rfl
@[simp] theorem State.setSending_serial (s : State) (f : Option HeadFrame) : (s.setSending f).serial = s.serial := rfl
@[simp] theorem State.setSending_feed (s : State) (f : Option HeadFrame) : (s.setSending f).feed = s.feed := rfl
@[simp] theorem State.setSending_counters (s : State) (f : Option HeadFrame) : (s.setSending f).counters = s.counters := rfl
@[simp] theorem State.setSending_board (s : State) (f : Option HeadFrame) : (s.setSending f).board = s.board := rfl
@[simp] theorem State.setSending_clock (s : State) (f : Option HeadFrame) : (s.setSending f).clock = s.clock := rfl
@[simp] theorem State.setSending_names (s : State) (f : Option HeadFrame) : (s.setSending f).names = s.names := rfl
@[simp] theorem State.setSending_fonts (s : State) (f : Option HeadFrame) : (s.setSending f).fonts = s.fonts := rfl
@[simp] theorem State.setSending_heads (s : State) (f : Option HeadFrame) : (s.setSending f).heads = s.heads := rfl
@[simp] theorem State.setSending_notices (s : State) (f : Option HeadFrame) : (s.setSending f).notices = s.notices := rfl
@[simp] theorem State.setSending_comps (s : State) (f : Option HeadFrame) : (s.setSending f).comps = s.comps := rfl
@[simp] theorem State.setSending_buffers (s : State) (f : Option HeadFrame) : (s.setSending f).buffers = s.buffers := rfl
@[simp] theorem State.setSending_mgmt (s : State) (f : Option HeadFrame) : (s.setSending f).mgmt = s.mgmt := rfl
@[simp] theorem State.setSending_freeCount (s : State) (f : Option HeadFrame) : (s.setSending f).freeCount = s.freeCount := rfl
@[simp] theorem State.setSending_link_heads (s : State) (f : Option HeadFrame) : (s.setSending f).link.heads = s.link.heads := rfl
@[simp] theorem State.setSending_link_round (s : State) (f : Option HeadFrame) : (s.setSending f).link.round = s.link.round := rfl
@[simp] theorem State.setSending_link_pointer (s : State) (f : Option HeadFrame) : (s.setSending f).link.pointer = s.link.pointer := rfl
@[simp] theorem State.setSending_link_thresholds (s : State) (f : Option HeadFrame) : (s.setSending f).link.thresholds = s.link.thresholds := rfl
@[simp] theorem State.setSending_link_timeBase (s : State) (f : Option HeadFrame) : (s.setSending f).link.timeBase = s.link.timeBase := rfl
@[simp] theorem State.setSending_link_period (s : State) (f : Option HeadFrame) : (s.setSending f).link.period = s.link.period := rfl
@[simp] theorem State.setSending_link_owner (s : State) (f : Option HeadFrame) : (s.setSending f).link.owner = s.link.owner := rfl
@[simp] theorem State.setSending_link_giveWaiting (s : State) (f : Option HeadFrame) : (s.setSending f).link.giveWaiting = s.link.giveWaiting := rfl
@[simp] theorem State.setSending_link_windowMark (s : State) (f : Option HeadFrame) : (s.setSending f).link.windowMark = s.link.windowMark := rfl
@[simp] theorem State.setSending_link_linkWait (s : State) (f : Option HeadFrame) : (s.setSending f).link.linkWait = s.link.linkWait := rfl
@[simp] theorem State.setSending_link_plo (s : State) (f : Option HeadFrame) : (s.setSending f).link.plo = s.link.plo := rfl
@[simp] theorem State.setSending_link_lreqIn (s : State) (f : Option HeadFrame) : (s.setSending f).link.lreqIn = s.link.lreqIn := rfl

@[simp] theorem State.setLreq_pending (s : State) (level : Bool) : (s.setLreq level).pending = s.pending := rfl
@[simp] theorem State.setLreq_inReset (s : State) (level : Bool) : (s.setLreq level).inReset = s.inReset := rfl
@[simp] theorem State.setLreq_straps (s : State) (level : Bool) : (s.setLreq level).straps = s.straps := rfl
@[simp] theorem State.setLreq_serial (s : State) (level : Bool) : (s.setLreq level).serial = s.serial := rfl
@[simp] theorem State.setLreq_feed (s : State) (level : Bool) : (s.setLreq level).feed = s.feed := rfl
@[simp] theorem State.setLreq_counters (s : State) (level : Bool) : (s.setLreq level).counters = s.counters := rfl
@[simp] theorem State.setLreq_board (s : State) (level : Bool) : (s.setLreq level).board = s.board := rfl
@[simp] theorem State.setLreq_clock (s : State) (level : Bool) : (s.setLreq level).clock = s.clock := rfl
@[simp] theorem State.setLreq_names (s : State) (level : Bool) : (s.setLreq level).names = s.names := rfl
@[simp] theorem State.setLreq_fonts (s : State) (level : Bool) : (s.setLreq level).fonts = s.fonts := rfl
@[simp] theorem State.setLreq_heads (s : State) (level : Bool) : (s.setLreq level).heads = s.heads := rfl
@[simp] theorem State.setLreq_notices (s : State) (level : Bool) : (s.setLreq level).notices = s.notices := rfl
@[simp] theorem State.setLreq_comps (s : State) (level : Bool) : (s.setLreq level).comps = s.comps := rfl
@[simp] theorem State.setLreq_buffers (s : State) (level : Bool) : (s.setLreq level).buffers = s.buffers := rfl
@[simp] theorem State.setLreq_mgmt (s : State) (level : Bool) : (s.setLreq level).mgmt = s.mgmt := rfl
@[simp] theorem State.setLreq_freeCount (s : State) (level : Bool) : (s.setLreq level).freeCount = s.freeCount := rfl
@[simp] theorem State.setLreq_link_heads (s : State) (level : Bool) : (s.setLreq level).link.heads = s.link.heads := rfl
@[simp] theorem State.setLreq_link_round (s : State) (level : Bool) : (s.setLreq level).link.round = s.link.round := rfl
@[simp] theorem State.setLreq_link_pointer (s : State) (level : Bool) : (s.setLreq level).link.pointer = s.link.pointer := rfl
@[simp] theorem State.setLreq_link_sending (s : State) (level : Bool) : (s.setLreq level).link.sending = s.link.sending := rfl
@[simp] theorem State.setLreq_link_thresholds (s : State) (level : Bool) : (s.setLreq level).link.thresholds = s.link.thresholds := rfl
@[simp] theorem State.setLreq_link_timeBase (s : State) (level : Bool) : (s.setLreq level).link.timeBase = s.link.timeBase := rfl
@[simp] theorem State.setLreq_link_period (s : State) (level : Bool) : (s.setLreq level).link.period = s.link.period := rfl
@[simp] theorem State.setLreq_link_owner (s : State) (level : Bool) : (s.setLreq level).link.owner = s.link.owner := rfl
@[simp] theorem State.setLreq_link_giveWaiting (s : State) (level : Bool) : (s.setLreq level).link.giveWaiting = s.link.giveWaiting := rfl
@[simp] theorem State.setLreq_link_windowMark (s : State) (level : Bool) : (s.setLreq level).link.windowMark = s.link.windowMark := rfl
@[simp] theorem State.setLreq_link_linkWait (s : State) (level : Bool) : (s.setLreq level).link.linkWait = s.link.linkWait := rfl
@[simp] theorem State.setLreq_link_plo (s : State) (level : Bool) : (s.setLreq level).link.plo = s.link.plo := rfl

@[simp] theorem State.setTimeBase_pending (s : State) (t : TimeBase) : (s.setTimeBase t).pending = s.pending := rfl
@[simp] theorem State.setTimeBase_inReset (s : State) (t : TimeBase) : (s.setTimeBase t).inReset = s.inReset := rfl
@[simp] theorem State.setTimeBase_straps (s : State) (t : TimeBase) : (s.setTimeBase t).straps = s.straps := rfl
@[simp] theorem State.setTimeBase_serial (s : State) (t : TimeBase) : (s.setTimeBase t).serial = s.serial := rfl
@[simp] theorem State.setTimeBase_feed (s : State) (t : TimeBase) : (s.setTimeBase t).feed = s.feed := rfl
@[simp] theorem State.setTimeBase_counters (s : State) (t : TimeBase) : (s.setTimeBase t).counters = s.counters := rfl
@[simp] theorem State.setTimeBase_board (s : State) (t : TimeBase) : (s.setTimeBase t).board = s.board := rfl
@[simp] theorem State.setTimeBase_clock (s : State) (t : TimeBase) : (s.setTimeBase t).clock = s.clock := rfl
@[simp] theorem State.setTimeBase_names (s : State) (t : TimeBase) : (s.setTimeBase t).names = s.names := rfl
@[simp] theorem State.setTimeBase_fonts (s : State) (t : TimeBase) : (s.setTimeBase t).fonts = s.fonts := rfl
@[simp] theorem State.setTimeBase_heads (s : State) (t : TimeBase) : (s.setTimeBase t).heads = s.heads := rfl
@[simp] theorem State.setTimeBase_notices (s : State) (t : TimeBase) : (s.setTimeBase t).notices = s.notices := rfl
@[simp] theorem State.setTimeBase_comps (s : State) (t : TimeBase) : (s.setTimeBase t).comps = s.comps := rfl
@[simp] theorem State.setTimeBase_buffers (s : State) (t : TimeBase) : (s.setTimeBase t).buffers = s.buffers := rfl
@[simp] theorem State.setTimeBase_mgmt (s : State) (t : TimeBase) : (s.setTimeBase t).mgmt = s.mgmt := rfl
@[simp] theorem State.setTimeBase_freeCount (s : State) (t : TimeBase) : (s.setTimeBase t).freeCount = s.freeCount := rfl
@[simp] theorem State.setTimeBase_link_heads (s : State) (t : TimeBase) : (s.setTimeBase t).link.heads = s.link.heads := rfl
@[simp] theorem State.setTimeBase_link_round (s : State) (t : TimeBase) : (s.setTimeBase t).link.round = s.link.round := rfl
@[simp] theorem State.setTimeBase_link_pointer (s : State) (t : TimeBase) : (s.setTimeBase t).link.pointer = s.link.pointer := rfl
@[simp] theorem State.setTimeBase_link_sending (s : State) (t : TimeBase) : (s.setTimeBase t).link.sending = s.link.sending := rfl
@[simp] theorem State.setTimeBase_link_thresholds (s : State) (t : TimeBase) : (s.setTimeBase t).link.thresholds = s.link.thresholds := rfl
@[simp] theorem State.setTimeBase_link_period (s : State) (t : TimeBase) : (s.setTimeBase t).link.period = s.link.period := rfl
@[simp] theorem State.setTimeBase_link_owner (s : State) (t : TimeBase) : (s.setTimeBase t).link.owner = s.link.owner := rfl
@[simp] theorem State.setTimeBase_link_giveWaiting (s : State) (t : TimeBase) : (s.setTimeBase t).link.giveWaiting = s.link.giveWaiting := rfl
@[simp] theorem State.setTimeBase_link_windowMark (s : State) (t : TimeBase) : (s.setTimeBase t).link.windowMark = s.link.windowMark := rfl
@[simp] theorem State.setTimeBase_link_linkWait (s : State) (t : TimeBase) : (s.setTimeBase t).link.linkWait = s.link.linkWait := rfl
@[simp] theorem State.setTimeBase_link_plo (s : State) (t : TimeBase) : (s.setTimeBase t).link.plo = s.link.plo := rfl
@[simp] theorem State.setTimeBase_link_lreqIn (s : State) (t : TimeBase) : (s.setTimeBase t).link.lreqIn = s.link.lreqIn := rfl

@[simp] theorem State.setComp_pending (s : State) (i : HeadIx) (c : Option Composition) : (s.setComp i c).pending = s.pending := rfl
@[simp] theorem State.setComp_inReset (s : State) (i : HeadIx) (c : Option Composition) : (s.setComp i c).inReset = s.inReset := rfl
@[simp] theorem State.setComp_straps (s : State) (i : HeadIx) (c : Option Composition) : (s.setComp i c).straps = s.straps := rfl
@[simp] theorem State.setComp_serial (s : State) (i : HeadIx) (c : Option Composition) : (s.setComp i c).serial = s.serial := rfl
@[simp] theorem State.setComp_feed (s : State) (i : HeadIx) (c : Option Composition) : (s.setComp i c).feed = s.feed := rfl
@[simp] theorem State.setComp_counters (s : State) (i : HeadIx) (c : Option Composition) : (s.setComp i c).counters = s.counters := rfl
@[simp] theorem State.setComp_board (s : State) (i : HeadIx) (c : Option Composition) : (s.setComp i c).board = s.board := rfl
@[simp] theorem State.setComp_clock (s : State) (i : HeadIx) (c : Option Composition) : (s.setComp i c).clock = s.clock := rfl
@[simp] theorem State.setComp_names (s : State) (i : HeadIx) (c : Option Composition) : (s.setComp i c).names = s.names := rfl
@[simp] theorem State.setComp_fonts (s : State) (i : HeadIx) (c : Option Composition) : (s.setComp i c).fonts = s.fonts := rfl
@[simp] theorem State.setComp_heads (s : State) (i : HeadIx) (c : Option Composition) : (s.setComp i c).heads = s.heads := rfl
@[simp] theorem State.setComp_notices (s : State) (i : HeadIx) (c : Option Composition) : (s.setComp i c).notices = s.notices := rfl
@[simp] theorem State.setComp_buffers (s : State) (i : HeadIx) (c : Option Composition) : (s.setComp i c).buffers = s.buffers := rfl
@[simp] theorem State.setComp_link (s : State) (i : HeadIx) (c : Option Composition) : (s.setComp i c).link = s.link := rfl
@[simp] theorem State.setComp_mgmt (s : State) (i : HeadIx) (c : Option Composition) : (s.setComp i c).mgmt = s.mgmt := rfl
@[simp] theorem State.setComp_freeCount (s : State) (i : HeadIx) (c : Option Composition) : (s.setComp i c).freeCount = s.freeCount := rfl

@[simp] theorem State.setClock_pending (s : State) (c : Clock) : (s.setClock c).pending = s.pending := rfl
@[simp] theorem State.setClock_inReset (s : State) (c : Clock) : (s.setClock c).inReset = s.inReset := rfl
@[simp] theorem State.setClock_straps (s : State) (c : Clock) : (s.setClock c).straps = s.straps := rfl
@[simp] theorem State.setClock_serial (s : State) (c : Clock) : (s.setClock c).serial = s.serial := rfl
@[simp] theorem State.setClock_feed (s : State) (c : Clock) : (s.setClock c).feed = s.feed := rfl
@[simp] theorem State.setClock_counters (s : State) (c : Clock) : (s.setClock c).counters = s.counters := rfl
@[simp] theorem State.setClock_board (s : State) (c : Clock) : (s.setClock c).board = s.board := rfl
@[simp] theorem State.setClock_names (s : State) (c : Clock) : (s.setClock c).names = s.names := rfl
@[simp] theorem State.setClock_fonts (s : State) (c : Clock) : (s.setClock c).fonts = s.fonts := rfl
@[simp] theorem State.setClock_heads (s : State) (c : Clock) : (s.setClock c).heads = s.heads := rfl
@[simp] theorem State.setClock_notices (s : State) (c : Clock) : (s.setClock c).notices = s.notices := rfl
@[simp] theorem State.setClock_comps (s : State) (c : Clock) : (s.setClock c).comps = s.comps := rfl
@[simp] theorem State.setClock_buffers (s : State) (c : Clock) : (s.setClock c).buffers = s.buffers := rfl
@[simp] theorem State.setClock_link (s : State) (c : Clock) : (s.setClock c).link = s.link := rfl
@[simp] theorem State.setClock_mgmt (s : State) (c : Clock) : (s.setClock c).mgmt = s.mgmt := rfl
@[simp] theorem State.setClock_freeCount (s : State) (c : Clock) : (s.setClock c).freeCount = s.freeCount := rfl

@[simp] theorem State.setSettings_pending (s : State) (x : Settings) : (s.setSettings x).pending = s.pending := rfl
@[simp] theorem State.setSettings_inReset (s : State) (x : Settings) : (s.setSettings x).inReset = s.inReset := rfl
@[simp] theorem State.setSettings_straps (s : State) (x : Settings) : (s.setSettings x).straps = s.straps := rfl
@[simp] theorem State.setSettings_serial (s : State) (x : Settings) : (s.setSettings x).serial = s.serial := rfl
@[simp] theorem State.setSettings_feed (s : State) (x : Settings) : (s.setSettings x).feed = s.feed := rfl
@[simp] theorem State.setSettings_counters (s : State) (x : Settings) : (s.setSettings x).counters = s.counters := rfl
@[simp] theorem State.setSettings_board (s : State) (x : Settings) : (s.setSettings x).board = s.board := rfl
@[simp] theorem State.setSettings_clock (s : State) (x : Settings) : (s.setSettings x).clock = s.clock := rfl
@[simp] theorem State.setSettings_names (s : State) (x : Settings) : (s.setSettings x).names = s.names := rfl
@[simp] theorem State.setSettings_fonts (s : State) (x : Settings) : (s.setSettings x).fonts = s.fonts := rfl
@[simp] theorem State.setSettings_heads (s : State) (x : Settings) : (s.setSettings x).heads = s.heads := rfl
@[simp] theorem State.setSettings_notices (s : State) (x : Settings) : (s.setSettings x).notices = s.notices := rfl
@[simp] theorem State.setSettings_comps (s : State) (x : Settings) : (s.setSettings x).comps = s.comps := rfl
@[simp] theorem State.setSettings_buffers (s : State) (x : Settings) : (s.setSettings x).buffers = s.buffers := rfl
@[simp] theorem State.setSettings_link (s : State) (x : Settings) : (s.setSettings x).link = s.link := rfl
@[simp] theorem State.setSettings_freeCount (s : State) (x : Settings) : (s.setSettings x).freeCount = s.freeCount := rfl
@[simp] theorem State.setSettings_mgmt_pendingEvents (s : State) (x : Settings) : (s.setSettings x).mgmt.pendingEvents = s.mgmt.pendingEvents := rfl
@[simp] theorem State.setSettings_mgmt_enable (s : State) (x : Settings) : (s.setSettings x).mgmt.enable = s.mgmt.enable := rfl
@[simp] theorem State.setSettings_mgmt_frozen (s : State) (x : Settings) : (s.setSettings x).mgmt.frozen = s.mgmt.frozen := rfl
@[simp] theorem State.setSettings_mgmt_freezeRemaining (s : State) (x : Settings) : (s.setSettings x).mgmt.freezeRemaining = s.mgmt.freezeRemaining := rfl
@[simp] theorem State.setSettings_mgmt_readPtr (s : State) (x : Settings) : (s.setSettings x).mgmt.readPtr = s.mgmt.readPtr := rfl
@[simp] theorem State.setSettings_mgmt_restartWaiting (s : State) (x : Settings) : (s.setSettings x).mgmt.restartWaiting = s.mgmt.restartWaiting := rfl

@[simp] theorem State.setFeed_pending (s : State) (f : Feed) : (s.setFeed f).pending = s.pending := rfl
@[simp] theorem State.setFeed_inReset (s : State) (f : Feed) : (s.setFeed f).inReset = s.inReset := rfl
@[simp] theorem State.setFeed_straps (s : State) (f : Feed) : (s.setFeed f).straps = s.straps := rfl
@[simp] theorem State.setFeed_serial (s : State) (f : Feed) : (s.setFeed f).serial = s.serial := rfl
@[simp] theorem State.setFeed_counters (s : State) (f : Feed) : (s.setFeed f).counters = s.counters := rfl
@[simp] theorem State.setFeed_board (s : State) (f : Feed) : (s.setFeed f).board = s.board := rfl
@[simp] theorem State.setFeed_clock (s : State) (f : Feed) : (s.setFeed f).clock = s.clock := rfl
@[simp] theorem State.setFeed_names (s : State) (f : Feed) : (s.setFeed f).names = s.names := rfl
@[simp] theorem State.setFeed_fonts (s : State) (f : Feed) : (s.setFeed f).fonts = s.fonts := rfl
@[simp] theorem State.setFeed_heads (s : State) (f : Feed) : (s.setFeed f).heads = s.heads := rfl
@[simp] theorem State.setFeed_notices (s : State) (f : Feed) : (s.setFeed f).notices = s.notices := rfl
@[simp] theorem State.setFeed_comps (s : State) (f : Feed) : (s.setFeed f).comps = s.comps := rfl
@[simp] theorem State.setFeed_buffers (s : State) (f : Feed) : (s.setFeed f).buffers = s.buffers := rfl
@[simp] theorem State.setFeed_link (s : State) (f : Feed) : (s.setFeed f).link = s.link := rfl
@[simp] theorem State.setFeed_mgmt (s : State) (f : Feed) : (s.setFeed f).mgmt = s.mgmt := rfl
@[simp] theorem State.setFeed_freeCount (s : State) (f : Feed) : (s.setFeed f).freeCount = s.freeCount := rfl

@[simp] theorem State.setRx_pending (s : State) (rx : RxState) (buffer : List Byte) : (s.setRx rx buffer).pending = s.pending := rfl
@[simp] theorem State.setRx_inReset (s : State) (rx : RxState) (buffer : List Byte) : (s.setRx rx buffer).inReset = s.inReset := rfl
@[simp] theorem State.setRx_straps (s : State) (rx : RxState) (buffer : List Byte) : (s.setRx rx buffer).straps = s.straps := rfl
@[simp] theorem State.setRx_serial (s : State) (rx : RxState) (buffer : List Byte) : (s.setRx rx buffer).serial = s.serial := rfl
@[simp] theorem State.setRx_counters (s : State) (rx : RxState) (buffer : List Byte) : (s.setRx rx buffer).counters = s.counters := rfl
@[simp] theorem State.setRx_board (s : State) (rx : RxState) (buffer : List Byte) : (s.setRx rx buffer).board = s.board := rfl
@[simp] theorem State.setRx_clock (s : State) (rx : RxState) (buffer : List Byte) : (s.setRx rx buffer).clock = s.clock := rfl
@[simp] theorem State.setRx_names (s : State) (rx : RxState) (buffer : List Byte) : (s.setRx rx buffer).names = s.names := rfl
@[simp] theorem State.setRx_fonts (s : State) (rx : RxState) (buffer : List Byte) : (s.setRx rx buffer).fonts = s.fonts := rfl
@[simp] theorem State.setRx_heads (s : State) (rx : RxState) (buffer : List Byte) : (s.setRx rx buffer).heads = s.heads := rfl
@[simp] theorem State.setRx_notices (s : State) (rx : RxState) (buffer : List Byte) : (s.setRx rx buffer).notices = s.notices := rfl
@[simp] theorem State.setRx_comps (s : State) (rx : RxState) (buffer : List Byte) : (s.setRx rx buffer).comps = s.comps := rfl
@[simp] theorem State.setRx_buffers (s : State) (rx : RxState) (buffer : List Byte) : (s.setRx rx buffer).buffers = s.buffers := rfl
@[simp] theorem State.setRx_link (s : State) (rx : RxState) (buffer : List Byte) : (s.setRx rx buffer).link = s.link := rfl
@[simp] theorem State.setRx_mgmt (s : State) (rx : RxState) (buffer : List Byte) : (s.setRx rx buffer).mgmt = s.mgmt := rfl
@[simp] theorem State.setRx_freeCount (s : State) (rx : RxState) (buffer : List Byte) : (s.setRx rx buffer).freeCount = s.freeCount := rfl
@[simp] theorem State.setRx_feed_queue (s : State) (rx : RxState) (buffer : List Byte) : (s.setRx rx buffer).feed.queue = s.feed.queue := rfl
@[simp] theorem State.setRx_feed_slot (s : State) (rx : RxState) (buffer : List Byte) : (s.setRx rx buffer).feed.slot = s.feed.slot := rfl
@[simp] theorem State.setRx_feed_tx (s : State) (rx : RxState) (buffer : List Byte) : (s.setRx rx buffer).feed.tx = s.feed.tx := rfl
@[simp] theorem State.setRx_feed_replyWait (s : State) (rx : RxState) (buffer : List Byte) : (s.setRx rx buffer).feed.replyWait = s.feed.replyWait := rfl
@[simp] theorem State.setRx_feed_address (s : State) (rx : RxState) (buffer : List Byte) : (s.setRx rx buffer).feed.address = s.feed.address := rfl
@[simp] theorem State.setRx_feed_zone (s : State) (rx : RxState) (buffer : List Byte) : (s.setRx rx buffer).feed.zone = s.feed.zone := rfl
@[simp] theorem State.setRx_feed_group (s : State) (rx : RxState) (buffer : List Byte) : (s.setRx rx buffer).feed.group = s.feed.group := rfl

/-! ### What the updates set -/

@[simp] theorem State.setHead_heads (s : State) (i : HeadIx) (h : Option Head) :
    (s.setHead i h).heads = s.heads.set i { s.heads.get i with head := h } := rfl
@[simp] theorem State.setLinkHead_link_heads (s : State) (i : HeadIx) (h : LinkHead) :
    (s.setLinkHead i h).link.heads = s.link.heads.set i h := rfl
@[simp] theorem State.setBuffers_buffers (s : State) (i : HeadIx) (b : Buffers) :
    (s.setBuffers i b).buffers = s.buffers.set i b := rfl
@[simp] theorem State.setPlo_link_plo (s : State) (out : List Sym) : (s.setPlo out).link.plo = out := rfl
@[simp] theorem State.setSending_link_sending (s : State) (f : Option HeadFrame) :
    (s.setSending f).link.sending = f := rfl
@[simp] theorem State.setLreq_link_lreqIn (s : State) (level : Bool) : (s.setLreq level).link.lreqIn = level := rfl
@[simp] theorem State.setTimeBase_link_timeBase (s : State) (t : TimeBase) : (s.setTimeBase t).link.timeBase = t := rfl
@[simp] theorem State.setComp_comps (s : State) (i : HeadIx) (c : Option Composition) :
    (s.setComp i c).comps = s.comps.set i c := rfl
@[simp] theorem State.setClock_clock (s : State) (c : Clock) : (s.setClock c).clock = c := rfl
@[simp] theorem State.setSettings_mgmt_settings (s : State) (x : Settings) : (s.setSettings x).mgmt.settings = x := rfl
@[simp] theorem State.setFeed_feed (s : State) (f : Feed) : (s.setFeed f).feed = f := rfl
@[simp] theorem State.setRx_feed_rx (s : State) (rx : RxState) (buffer : List Byte) :
    (s.setRx rx buffer).feed.rx = rx := rfl
@[simp] theorem State.setRx_feed_buffer (s : State) (rx : RxState) (buffer : List Byte) :
    (s.setRx rx buffer).feed.buffer = buffer := rfl
@[simp] theorem State.raise_mgmt_pendingEvents (s : State) (e : Event) :
    (s.raise e).mgmt.pendingEvents = s.mgmt.pendingEvents ||| e.mask := rfl
@[simp] theorem State.holdLevels_mgmt_pendingEvents (s : State) :
    s.holdLevels.mgmt.pendingEvents = s.mgmt.pendingEvents ||| s.levels := rfl

/-! ### Conditions that an update leaves -/

@[simp] theorem State.bumpBy_levels (s : State) (c : Ctr) (n : Nat) : (s.bumpBy c n).levels = s.levels := rfl
@[simp] theorem State.bump_levels (s : State) (c : Ctr) : (s.bump c).levels = s.levels := rfl
@[simp] theorem State.setFeed_levels (s : State) (f : Feed) : (s.setFeed f).levels = s.levels := rfl
@[simp] theorem State.setRx_levels (s : State) (rx : RxState) (buffer : List Byte) :
    (s.setRx rx buffer).levels = s.levels := rfl
@[simp] theorem State.holdLevels_levels (s : State) : s.holdLevels.levels = s.levels := rfl
@[simp] theorem State.raise_levels (s : State) (e : Event) : (s.raise e).levels = s.levels := rfl

end Sys2Proof.Machine
end

