-- ==== Sys2Proof/Laws/Bank.lean ====
section
/-! SUPPORT. Reading back what was put: banks of eight, lists by key, head records and counters. -/

namespace Sys2Proof

@[simp] theorem Bank8.get_set_self {α : Type} (b : Bank8 α) (i : HeadIx) (v : α) : (b.set i v).get i = v := by
  fin_cases i <;> rfl

theorem Bank8.get_set_ne {α : Type} (b : Bank8 α) {i j : HeadIx} (v : α) (h : j ≠ i) :
    (b.set i v).get j = b.get j := by
  fin_cases i <;> fin_cases j <;> first | rfl | exact absurd rfl h

theorem Bank8.get_set {α : Type} (b : Bank8 α) (i j : HeadIx) (v : α) :
    (b.set i v).get j = if j = i then v else b.get j := by
  by_cases h : j = i
  · subst h
    simp
  · simp [h, Bank8.get_set_ne b v h]

@[simp] theorem Bank8.get_fill {α : Type} (v : α) (i : HeadIx) : (Bank8.fill v).get i = v := by
  fin_cases i <;> rfl

@[simp] theorem Bank8.get_mapIx {α β : Type} (f : HeadIx → α → β) (b : Bank8 α) (i : HeadIx) :
    (b.mapIx f).get i = f i (b.get i) := by
  fin_cases i <;> rfl

@[simp] theorem Bank8.set_get {α : Type} (b : Bank8 α) (i : HeadIx) : b.set i (b.get i) = b := by
  fin_cases i <;> rfl

theorem Bank8.ext_get {α : Type} {a b : Bank8 α} (h : ∀ i, a.get i = b.get i) : a = b := by
  cases a
  cases b
  simpa [Bank8.get] using And.intro (h 0) ⟨h 1, h 2, h 3, h 4, h 5, h 6, h 7⟩

/-- Two values put at one index: the second stands. -/
theorem Bank8.set_set {α : Type} (b : Bank8 α) (i : HeadIx) (v w : α) : (b.set i v).set i w = b.set i w := by
  apply Bank8.ext_get
  intro j
  rw [Bank8.get_set, Bank8.get_set, Bank8.get_set]
  split <;> rfl

@[simp] theorem HeadIx.mem_all (i : HeadIx) : i ∈ HeadIx.all := by
  fin_cases i <;> simp [HeadIx.all]

namespace Machine

/-! ### Lists by key -/

@[simp] theorem keyedGet_put_self {α : Type} (k : Nat) (v : α) (l : List (Nat × α)) :
    keyedGet k (keyedPut k v l) = some v := by
  induction l with
  | nil => simp [keyedPut, keyedGet]
  | cons p rest ih =>
    obtain ⟨k', v'⟩ := p
    unfold keyedPut
    split
    · simp [keyedGet]
    · split
      · simp [keyedGet]
      · next h => simp [keyedGet, h, ih]

theorem keyedGet_put_ne {α : Type} {k j : Nat} (v : α) (l : List (Nat × α)) (h : j ≠ k) :
    keyedGet j (keyedPut k v l) = keyedGet j l := by
  have hk : ¬ k = j := fun e => h e.symm
  induction l with
  | nil => simp [keyedPut, keyedGet, hk]
  | cons p rest ih =>
    obtain ⟨k', v'⟩ := p
    unfold keyedPut
    split
    · simp [keyedGet, hk]
    · split
      · next hk' =>
        subst hk'
        simp [keyedGet, hk]
      · simp [keyedGet, ih]

@[simp] theorem keyedGet_erase_self {α : Type} (k : Nat) (l : List (Nat × α)) : keyedGet k (keyedErase k l) = none := by
  induction l with
  | nil => rfl
  | cons p rest ih =>
    obtain ⟨k', v'⟩ := p
    by_cases h : k' = k
    · simpa [keyedErase, h] using ih
    · simpa [keyedErase, h, keyedGet] using ih

theorem keyedGet_erase_ne {α : Type} {k j : Nat} (l : List (Nat × α)) (h : j ≠ k) :
    keyedGet j (keyedErase k l) = keyedGet j l := by
  induction l with
  | nil => rfl
  | cons p rest ih =>
    obtain ⟨k', v'⟩ := p
    by_cases hk : k' = k
    · have hj : ¬ k = j := fun e => h e.symm
      simpa [keyedErase, hk, keyedGet, hj] using ih
    · by_cases hj : k' = j
      · simp [keyedErase, keyedGet, hj, h]
      · simpa [keyedErase, hk, keyedGet, hj] using ih

/-! ### Head records -/

@[simp] theorem State.setHead_head_self (s : State) (i : HeadIx) (h : Option Head) : (s.setHead i h).head i = h := by
  simp [State.head]

theorem State.setHead_head_ne (s : State) {i j : HeadIx} (h : Option Head) (hj : j ≠ i) :
    (s.setHead i h).head j = s.head j := by
  simp [State.head, Bank8.get_set_ne _ _ hj]

theorem State.onHead_none {s : State} {i : HeadIx} (f : Head → Head) (h : s.head i = none) : s.onHead i f = s := by
  simp [State.onHead, h]

theorem State.onHead_some {s : State} {i : HeadIx} {x : Head} (f : Head → Head) (h : s.head i = some x) :
    s.onHead i f = s.setHead i (some (f x)) := by
  simp [State.onHead, h]

/-! ### Counters -/

theorem Ctr.index_injective {a b : Ctr} (h : a.index = b.index) : a = b := by
  cases a <;> cases b <;> first | rfl | exact absurd h (by decide)

@[simp] theorem State.counter_bumpBy_self (s : State) (c : Ctr) (n : Nat) :
    (s.bumpBy c n).counter c = min (s.counter c + n) Config.counterMax := by
  simp [State.counter, State.bumpBy]

theorem State.counter_bumpBy_ne (s : State) {c d : Ctr} (n : Nat) (h : d ≠ c) :
    (s.bumpBy c n).counter d = s.counter d := by
  have hi : c.index.val ≠ d.index.val := fun e => h (Ctr.index_injective (Fin.ext e.symm))
  simp [State.counter, State.bumpBy, hi]

@[simp] theorem State.counter_bump_self (s : State) (c : Ctr) :
    (s.bump c).counter c = min (s.counter c + 1) Config.counterMax := s.counter_bumpBy_self c 1

theorem State.counter_bump_ne (s : State) {c d : Ctr} (h : d ≠ c) : (s.bump c).counter d = s.counter d :=
  s.counter_bumpBy_ne 1 h

end Machine

end Sys2Proof
end

