-- ==== Sys2Proof/Laws/Shared.lean ====
section
/-! SUPPORT. One lemma for each shared operation: what it can do. -/

namespace Sys2Proof.Machine

/-! ### Taking a command -/

theorem live_running {s : State} (effect : State → State) (h : s.inReset = false) :
    live s effect = .next (effect s).holdLevels := by
  simp [live, h]

theorem live_held {s : State} (effect : State → State) (h : s.inReset = true) : live s effect = .next s := by
  simp [live, h]

/-- A command answers a next state, which is the effect with the levels held, or the state itself while RSTN is low. -/
theorem live_next {s t : State} {effect : State → State} (h : live s effect = .next t) :
    (s.inReset = false ∧ t = (effect s).holdLevels) ∨ (s.inReset = true ∧ t = s) := by
  cases hr : s.inReset
  · rw [live_running effect hr] at h
    injection h with h
    exact Or.inl ⟨rfl, h.symm⟩
  · rw [live_held effect hr] at h
    injection h with h
    exact Or.inr ⟨rfl, h.symm⟩

theorem holdLevels_of_held {s : State} (h : s.LevelsHeld) : s.holdLevels = s := by
  unfold State.holdLevels
  rw [h]

/-! ### An operation for each head -/

/-- A property that the operation keeps at each head is kept over the eight heads. -/
theorem forHeads_keeps {P : State → Prop} {f : HeadIx → State → State} (hf : ∀ i s, P s → P (f i s)) {s : State}
    (h : P s) : P (s.forHeads f) := by
  unfold State.forHeads
  generalize HeadIx.all = l
  induction l generalizing s with
  | nil => exact h
  | cons i rest ih => exact ih (hf i s h)

/-! ### The Frame Store -/

/-- The swap rule exchanges the buffers or leaves the state (R159). -/
theorem swapIfReady_cases (s : State) (i : HeadIx) :
    s.swapIfReady i = s ∨ s.swapIfReady i = s.setBuffers i (s.buffers.get i).swapped := by
  unfold State.swapIfReady
  split
  · exact Or.inr rfl
  · exact Or.inl rfl

/-- After the swap rule the head is not left ready to swap (R159). -/
theorem swapIfReady_done (s : State) (i : HeadIx) : ((s.swapIfReady i).buffers.get i).backState ≠ .complete ∨
    (((s.swapIfReady i).buffers.get i).frontState ≠ .sent ∧ (s.swapIfReady i).sendable i = true) ∨
      (s.swapIfReady i).sendingTo i = true := by
  unfold State.swapIfReady
  split
  · simp [Buffers.swapped]
  · next h =>
    cases h1 : s.sendingTo i
    · cases h2 : s.sendable i
      · exact Or.inl fun hc => h ⟨hc, Or.inr h2, h1⟩
      · by_cases hs : (s.buffers.get i).frontState = .sent
        · exact Or.inl fun hc => h ⟨hc, Or.inl hs, h1⟩
        · exact Or.inr (Or.inl ⟨hs, rfl⟩)
    · exact Or.inr (Or.inr rfl)

/-- The swap rule touches one head's buffers and nothing else (R159). -/
theorem swapIfReady_frame (s : State) (i : HeadIx) : s.swapIfReady i = { s with buffers := (s.swapIfReady i).buffers } ∧
    ∀ j, j ≠ i → (s.swapIfReady i).buffers.get j = s.buffers.get j := by
  rcases swapIfReady_cases s i with e | e <;> rw [e]
  · exact ⟨rfl, fun _ _ => rfl⟩
  · exact ⟨rfl, fun j hj => Bank8.get_set_ne _ _ hj⟩

/-- Abandoning leaves everything but the composition and the back's state (R142). -/
theorem abandon_cases (s : State) (i : HeadIx) :
    (s.comps.get i = none ∧ s.abandon i = s) ∨
      s.abandon i = { s with comps := s.comps.set i none,
                             buffers := s.buffers.set i { s.buffers.get i with backState := .idle } } := by
  unfold State.abandon
  cases h : s.comps.get i
  · exact Or.inl ⟨rfl, rfl⟩
  · exact Or.inr rfl

/-! ### The row snapshot -/

/-- The copy of an entry leaves nothing of its R22 fields out but the open build, of which it keeps the context (R42, R62, R140). -/
theorem ofEntry_fields (e : Entry) : { (RowCopy.ofEntry e).entry with build := e.build } = e ∧
    (RowCopy.ofEntry e).entry.build = none ∧ (RowCopy.ofEntry e).build = e.build.map BuildCopy.ofBuild ∧
    (RowCopy.ofEntry e).stops = e.list.map (fun l => chainStops l.chain) :=
  ⟨rfl, rfl, rfl, rfl⟩

/-- Two builds that differ in their stop records alone have the same copy (R62). -/
theorem ofBuild_stops_free {b : Build} {chain : List Block} (hlen : chainLength chain = chainLength b.chain)
    (hid : chain.map Block.id = b.chain.map Block.id) :
    BuildCopy.ofBuild { b with chain := chain } = BuildCopy.ofBuild b := by
  simp [BuildCopy.ofBuild, hlen, hid]

/-! ### The receiver -/

/-- Data bytes that fit join the body (R2, R3). -/
theorem foldl_rxData (body : List Byte) : ∀ s : State, s.feed.rx = .body →
    s.feed.buffer.length + body.length ≤ Config.maxBody →
    body.foldl State.rxData s = s.setRx .body (s.feed.buffer ++ body) := by
  induction body with
  | nil =>
    intro s hrx _
    simp [State.setRx, ← hrx]
  | cons b rest ih =>
    intro s hrx hlen
    simp only [List.length_cons] at hlen
    have hb : s.feed.buffer.length < Config.maxBody := by omega
    have hstep : s.rxData b = s.setRx .body (s.feed.buffer ++ [b]) := by
      simp [State.rxData, hrx, hb]
    rw [List.foldl_cons, hstep, ih _ rfl (by simpa using by omega)]
    simp [State.setRx]

/-- A frame that arrives at a receiver in WAIT reaches the arrival event with its body (R2, R4). -/
theorem receive_wait {s : State} {body : List Byte} (hrx : s.feed.rx = .wait) (hlen : body.length ≤ Config.maxBody) :
    s.receive body = (s.setRx .wait []).arrive body := by
  have hsync : s.rxSync = s.setRx .body [] := by
    simp [State.rxSync, hrx]
  have hfold : body.foldl State.rxData (s.setRx .body []) = s.setRx .body body := by
    rw [foldl_rxData body _ rfl (by simpa using hlen)]
    simp [State.setRx]
  unfold State.receive
  rw [hsync, hfold]
  simp [State.rxEnd, State.setRx]

/-- A frame that arrives during the hunt is ignored (R2). -/
theorem receive_hunt {s : State} {body : List Byte} (hrx : s.feed.rx = .hunt) : s.receive body = s := by
  have hsync : s.rxSync = s := by
    simp [State.rxSync, hrx]
  have hdata : ∀ l : List Byte, l.foldl State.rxData s = s := by
    intro l
    induction l with
    | nil => rfl
    | cons b rest ih =>
      have hb : s.rxData b = s := by
        simp [State.rxData, hrx]
      rw [List.foldl_cons, hb, ih]
  unfold State.receive
  rw [hsync, hdata]
  simp [State.rxEnd, hrx]

/-! ### The out-port -/

/-- A selection changes only what FDO is doing and the reply-wait count (R16). -/
theorem select_frame (f : Feed) :
    f.select.rx = f.rx ∧ f.select.buffer = f.buffer ∧ f.select.queue = f.queue ∧ f.select.slot = f.slot ∧
      f.select.address = f.address ∧ f.select.zone = f.zone ∧ f.select.group = f.group := by
  unfold Feed.select
  split
  · split
    · split <;> exact ⟨rfl, rfl, rfl, rfl, rfl, rfl, rfl⟩
    · exact ⟨rfl, rfl, rfl, rfl, rfl, rfl, rfl⟩
    · exact ⟨rfl, rfl, rfl, rfl, rfl, rfl, rfl⟩
    · exact ⟨rfl, rfl, rfl, rfl, rfl, rfl, rfl⟩
  all_goals exact ⟨rfl, rfl, rfl, rfl, rfl, rfl, rfl⟩

/-- Forwarding counts one of three counters, and otherwise changes the feed port alone (R13, R15). -/
theorem forward_cases (s : State) (body : List Byte) (h : Header) :
    s.forward body h = s.bump .expired ∨ s.forward body h = s.bump .forwardOverrun ∨
      s.forward body h =
        (s.setFeed { s.feed with queue := s.feed.queue ++ [forwardBody body] }.select).bump .framesForwarded := by
  unfold State.forward State.enqueue
  split
  · exact Or.inl rfl
  · split
    · exact Or.inr (Or.inr rfl)
    · exact Or.inr (Or.inl rfl)

/-- A reply enters an empty slot, and is dropped and counted at a full one (R14). -/
theorem offerReply_cases (s : State) (tag : Byte) (r : Reply) :
    (s.feed.slot = none ∧ s.offerReply tag r =
        s.setFeed { s.feed with slot := some (replyBody r.1 (b8 s.feed.address) tag r.2) }.select) ∨
      (s.feed.slot.isSome = true ∧ s.offerReply tag r = s.bump .replyBusy) := by
  unfold State.offerReply
  cases h : s.feed.slot
  · exact Or.inl ⟨rfl, rfl⟩
  · exact Or.inr ⟨rfl, rfl⟩

/-! ### The board -/

/-- The entry found is in the table and has the service id. -/
theorem findEntry_some {t : List Entry} {id : Nat} {e : Entry} (h : findEntry t id = some e) : e ∈ t ∧ e.id = id := by
  unfold findEntry at h
  exact ⟨List.mem_of_find?_eq_some h, by simpa using List.find?_some h⟩

/-- A change in place keeps the services when it keeps each entry's id. -/
theorem updateEntry_ids {id : Nat} {f : Entry → Entry} (hf : ∀ e, (f e).id = e.id) (t : List Entry) :
    (updateEntry id f t).map Entry.id = t.map Entry.id := by
  simp only [updateEntry, List.map_map]
  refine List.map_congr_left fun e _ => ?_
  by_cases h : e.id = id <;> simp [h, hf]

/-- An entry placed at its key's position joins the entries there are. -/
theorem insertEntry_perm (d : Nat) (e : Entry) (t : List Entry) : (insertEntry d e t).Perm (e :: t) := by
  induction t with
  | nil => exact List.Perm.refl _
  | cons x xs ih =>
    unfold insertEntry
    split
    · exact List.Perm.refl _
    · exact (ih.cons x).trans (List.Perm.swap e x xs)

/-- A table ordered anew holds the same entries. -/
theorem reorder_perm (d : Nat) (t : List Entry) : (reorder d t).Perm t := by
  induction t with
  | nil => exact List.Perm.refl _
  | cons x xs ih => exact (insertEntry_perm d x (reorder d xs)).trans (ih.cons x)

/-- The Removal Memory keeps within its 16 records (R26). -/
theorem remember_length (mem : List Removal) (r : Removal) (h : mem.length ≤ Config.maxRecords) :
    (remember mem r).length ≤ Config.maxRecords := by
  unfold remember
  split
  · simp [Config.maxRecords] at *
    omega
  · simp [Config.maxRecords] at *
    omega

/-! ### Glyph strings -/

/-- A word written high byte first after some bytes is read back there. -/
theorem u16_append (l r : List Byte) {n : Nat} (h : n ≤ 65535) : u16 (l ++ (b16 n ++ r)) l.length = n := by
  simp [u16, u8, b16, b8, List.getD_eq_getElem?_getD]
  omega

/-- The coding of an item that a word spells is that word (R84, R194). -/
theorem Item.code_ofCode {n : Nat} {x : Item} (h : Item.ofCode n = some x) : x.code = n ∧ n ≤ 65535 := by
  unfold Item.ofCode at h
  repeat' split at h
  all_goals cases h
  all_goals
    refine ⟨?_, by omega⟩
    simp only [Item.code]
  all_goals omega

/-- A glyph string is read back from its bytes, wherever they stand (R84, R194). -/
theorem itemsAt_itemBytes (xs : List Item) : ∀ l r : List Byte, (∀ x ∈ xs, Item.ofCode x.code = some x) →
    itemsAt (l ++ (itemBytes xs ++ r)) l.length xs.length = some xs := by
  induction xs with
  | nil => exact fun _ _ _ => rfl
  | cons x xs ih =>
    intro l r h
    have hx := h x (by simp)
    have e1 := u16_append l (itemBytes xs ++ r) (Item.code_ofCode hx).2
    have e2 := ih (l ++ b16 x.code) r (fun y hy => h y (by simp [hy]))
    have e : l ++ (itemBytes (x :: xs) ++ r) = l ++ (b16 x.code ++ (itemBytes xs ++ r)) := by simp [itemBytes]
    rw [List.length_append, show (b16 x.code).length = 2 from rfl, List.append_assoc] at e2
    rw [e, List.length_cons, itemsAt, e1, hx, e2]

/-! ### Expansion -/

/-- A glyph emitted takes one place of the room, so glyphs and room together keep their sum (R95). -/
theorem emit_room (w : Walk) (g : Nat) : (w.emit g).out.length + (w.emit g).room = w.out.length + w.room := by
  unfold Walk.emit
  split
  · rfl
  · split
    · rfl
    · simp
      omega

theorem emitAll_room (gs : List Nat) : ∀ w : Walk, (w.emitAll gs).out.length + (w.emitAll gs).room = w.out.length + w.room := by
  induction gs with
  | nil => exact fun _ => rfl
  | cons g rest ih =>
    intro w
    have h := ih (w.emit g)
    simpa [Walk.emitAll, emit_room] using h

/-- Glyphs that find room are all emitted (R95). -/
theorem emitAll_fits (gs : List Nat) : ∀ w : Walk, w.cut = false → gs.length ≤ w.room →
    w.emitAll gs = { w with out := w.out ++ gs, room := w.room - gs.length } := by
  induction gs with
  | nil =>
    intro w _ _
    simp [Walk.emitAll]
  | cons g rest ih =>
    intro w h hr
    simp at hr
    have e : w.emit g = { w with out := w.out ++ [g], room := w.room - 1 } := by
      unfold Walk.emit
      rw [h, if_neg (by simp), if_neg (by omega)]
    have hrest := ih { w with out := w.out ++ [g], room := w.room - 1 } h (by dsimp only; omega)
    show (w.emit g).emitAll rest = _
    rw [e, hrest]
    simp
    omega

/-- Emitting does not end a strict walk (R94, R95). -/
theorem emitAll_strict (gs : List Nat) : ∀ w : Walk, (w.emitAll gs).strict = w.strict := by
  induction gs with
  | nil => exact fun _ => rfl
  | cons g rest ih =>
    intro w
    have e : (w.emit g).strict = w.strict := by
      unfold Walk.emit
      split
      · rfl
      · split <;> rfl
    exact (ih (w.emit g)).trans e

/-- Glyph items are taken by emitting their glyphs (R91). -/
theorem foldl_takeItem_glyphs (t : List NameEntry) (strict : Bool) (descend : Option (List Item → Walk → Walk))
    (gs : List Nat) : ∀ w : Walk, w.strict = false →
    (gs.map Item.glyph).foldl (takeItem t strict descend) w = w.emitAll gs := by
  induction gs with
  | nil => exact fun _ _ => rfl
  | cons g rest ih =>
    intro w h
    have e : takeItem t strict descend w (.glyph g) = w.emit g := by
      unfold takeItem Walk.stopped
      rw [h]
      by_cases hc : w.cut = true
      · simp [hc, Walk.emit]
      · simp [hc]
    have hs : (w.emit g).strict = false := (emitAll_strict [g] w).trans h
    show (rest.map Item.glyph).foldl (takeItem t strict descend) (takeItem t strict descend w (.glyph g)) = _
    rw [e, ih _ hs]
    rfl

/-! ### Tickers -/

/-- A context that goes on after an advance is within its loop (R153). -/
theorem Ticker.advance_within {k k' : Ticker} {v : Nat} (h : (k.advance v).1 = some k') (hl : 0 < k.loop) : k'.Within := by
  unfold Ticker.advance at h
  split at h
  · next hlt =>
    injection h with h
    subst h
    exact hlt
  · split at h
    · exact absurd h (by simp)
    · injection h with h
      subst h
      exact Nat.mod_lt _ (by omega)

/-! ### Brightness -/

/-- A brightness step moves the level by at most one (R175). -/
theorem stepLevel_close (t : List Nat) (hy level ambient : Nat) :
    stepLevel t hy level ambient ≤ level + 1 ∧ level ≤ stepLevel t hy level ambient + 1 := by
  unfold stepLevel
  split
  · exact ⟨by omega, by omega⟩
  · split
    · exact ⟨by omega, by omega⟩
    · exact ⟨by omega, by omega⟩

/-! ### The end of a head frame -/

/-- The swap rule over a list of heads, of a part that does not own the link and sends nothing, leaves none of their backs COMPLETE
(R159). -/
theorem foldl_swapIfReady (l : List HeadIx) : ∀ s : State, s.link.sending = none → s.ownsLink = false →
    l.foldl (fun s i => s.swapIfReady i) s =
      { s with buffers := (l.foldl (fun s i => s.swapIfReady i) s).buffers } ∧
    ∀ i, i ∈ l ∨ (s.buffers.get i).backState ≠ .complete →
      ((l.foldl (fun s i => s.swapIfReady i) s).buffers.get i).backState ≠ .complete := by
  induction l with
  | nil => exact fun s _ _ => ⟨rfl, fun i h => h.resolve_left (by simp)⟩
  | cons a l ih =>
    intro s h1 h2
    obtain ⟨q1, q2⟩ := swapIfReady_frame s a
    have hlink : (s.swapIfReady a).link = s.link := by rw [q1]
    obtain ⟨e1, e2⟩ := ih (s.swapIfReady a) (by rw [hlink]; exact h1) (by unfold State.ownsLink; rw [hlink]; exact h2)
    refine ⟨?_, fun i hi => e2 i ?_⟩
    · simp only [List.foldl_cons]
      rw [e1]
      generalize (l.foldl (fun s i => s.swapIfReady i) (s.swapIfReady a)).buffers = z
      rw [q1]
    · by_cases ha : i = a
      · subst ha
        rcases swapIfReady_done s i with hd | ⟨_, hd⟩ | hd
        · exact Or.inr hd
        · unfold State.ownsLink at h2
          unfold State.sendable State.ownsLink at hd
          rw [hlink, h2] at hd
          simp at hd
        · unfold State.sendingTo at hd
          rw [hlink, h1] at hd
          simp at hd
      · rcases hi with hi | hi
        · exact Or.inl (by simpa [ha] using hi)
        · exact Or.inr (by rw [q2 _ ha]; exact hi)

/-- A part that stops owning the link keeps everything but the ownership, the round, what the pair carries and the buffers, and no
back is left COMPLETE (R159, R177, R179). -/
theorem loseLink_spec {s : State} {o : Ownership} (ho : o = .granted ∨ o = .idle) (hs : s.link.sending = none) :
    (s.loseLink o).link = { s.link with owner := o, giveWaiting := false, round := none, plo := [] } ∧
    s.loseLink o = { s with link := (s.loseLink o).link, buffers := (s.loseLink o).buffers } ∧
    ∀ i, ((s.loseLink o).buffers.get i).backState ≠ .complete := by
  have h := foldl_swapIfReady HeadIx.all
    { s with link := { s.link with owner := o, giveWaiting := false, round := none, plo := [] } } hs
    (by rcases ho with rfl | rfl <;> rfl)
  have e : s.loseLink o = HeadIx.all.foldl (fun s i => s.swapIfReady i)
    { s with link := { s.link with owner := o, giveWaiting := false, round := none, plo := [] } } := rfl
  rw [e]
  exact ⟨by rw [h.1], by rw [h.1], fun i => h.2 i (Or.inl (by simp))⟩

/-- A head frame that begins changes nothing of what a head's answers left, nor the buffers (R166). -/
theorem beginFrame_frame (s : State) (i : HeadIx) (h : Head) (j : HeadIx) :
    (s.beginFrame i h).link.heads.get j =
      { s.link.heads.get j with
        frameNumber := ((s.beginFrame i h).link.heads.get j).frameNumber
        probeDue := ((s.beginFrame i h).link.heads.get j).probeDue } ∧
    (s.beginFrame i h).buffers = s.buffers ∧
    ∀ c, c ≠ .frameRepeats → (s.beginFrame i h).counter c = s.counter c := by
  unfold State.beginFrame
  dsimp only
  by_cases hj : j = i
  · subst hj
    split
    · exact ⟨by simp [State.setPlo, State.setSending], rfl, fun c hc => by rw [State.counter_bump_ne _ hc]; rfl⟩
    · exact ⟨by simp [State.setPlo, State.setSending], rfl, fun _ _ => rfl⟩
  · split
    · exact ⟨by simp [State.setPlo, State.setSending, Bank8.get_set_ne _ _ hj], rfl,
        fun c hc => by rw [State.counter_bump_ne _ hc]; rfl⟩
    · exact ⟨by simp [State.setPlo, State.setSending, Bank8.get_set_ne _ _ hj], rfl, fun _ _ => rfl⟩

/-- The same of the next head of a round (R172). -/
theorem nextOfRound_frame (l : List HeadIx) : ∀ (s : State) (j : HeadIx),
    (s.nextOfRound l).link.heads.get j =
      { s.link.heads.get j with
        frameNumber := ((s.nextOfRound l).link.heads.get j).frameNumber
        probeDue := ((s.nextOfRound l).link.heads.get j).probeDue } ∧
    (s.nextOfRound l).buffers = s.buffers ∧
    ∀ c, c ≠ .frameRepeats → (s.nextOfRound l).counter c = s.counter c := by
  induction l with
  | nil => exact fun s j => ⟨rfl, rfl, fun _ _ => rfl⟩
  | cons i l ih =>
    intro s j
    unfold State.nextOfRound
    cases s.head i with
    | none => exact ih s j
    | some h => exact beginFrame_frame { s with link := { s.link with round := some l } } i h j

/-! ### Answers on the return pair -/

/-- A group outside an answer that begins none is passed over (log 40). -/
theorem answersIn_skip {g : BitVec 5} (rest : List (BitVec 5)) (ha : Sym.ofGroup g ≠ some .ack)
    (hn : Sym.ofGroup g ≠ some .nak) : answersIn none (g :: rest) = answersIn none rest := by
  rw [answersIn]
  split <;> simp_all

/-- The group of a symbol spells that symbol (R202). -/
theorem ofGroup_group : ∀ x : Sym, Sym.ofGroup x.group = some x
  | .idle | .sor | .eor | .eof | .ack | .nak => by decide
  | .nibble v => by revert v; decide

/-- A data nibble within an answer is read (R168). -/
theorem answersIn_nibble (ack : Bool) (ns : List (BitVec 4)) (v : BitVec 4) (rest : List (BitVec 5)) :
    answersIn (some (ack, ns)) ((Sym.nibble v).group :: rest) =
      match Answer.ofNibbles ack (ns ++ [v]) with
      | some a => some a :: answersIn none rest
      | none => answersIn (some (ack, ns ++ [v])) rest := by
  rw [answersIn, ofGroup_group] <;> rfl

/-- A byte is the byte of its two nibbles (R165). -/
theorem byteOfNibbles_nibbles : ∀ b : Byte, byteOfNibbles ((b >>> 4).setWidth 4) (b.setWidth 4) = b := by
  decide

/-- An ACK or NAK symbol and two status bytes are read as one answer (R168, R202). -/
theorem answersIn_answer (ack : Bool) (hd x : Byte) (rest : List (BitVec 5)) :
    answersIn none (([if ack then Sym.ack else Sym.nak] ++ nibbles hd ++ nibbles x).map Sym.group ++ rest) =
      some (if ack then .ack hd x else .nak hd x) :: answersIn none rest := by
  have h : answersIn none (([if ack then Sym.ack else Sym.nak] ++ nibbles hd ++ nibbles x).map Sym.group ++ rest) =
      answersIn (some (ack, [])) ((nibbles hd ++ nibbles x).map Sym.group ++ rest) := by
    cases ack <;> (rw [answersIn.eq_def]; rfl)
  rw [h]
  simp only [nibbles, List.cons_append, List.nil_append, List.map_cons, List.map_nil, answersIn_nibble, Answer.ofNibbles,
    byteOfNibbles_nibbles]

/-- The nibbles of an answer that is not yet complete are kept (R168). -/
theorem answersIn_short (ack : Bool) (rest : List (BitVec 5)) : ∀ ms ns : List (BitVec 4), ns.length + ms.length < 4 →
    answersIn (some (ack, ns)) ((ms.map Sym.nibble).map Sym.group ++ rest) = answersIn (some (ack, ns ++ ms)) rest
  | [], ns, _ => by simp
  | v :: ms, ns, h => by
    have hn : Answer.ofNibbles ack (ns ++ [v]) = none := by
      unfold Answer.ofNibbles
      split
      · next hl =>
        have hlen := congrArg List.length hl
        simp at hlen h
        omega
      · rfl
    simp only [List.map_cons, List.cons_append, answersIn_nibble, hn]
    rw [answersIn_short ack rest ms (ns ++ [v]) (by simp at *; omega)]
    simp

/-- A group that is no data nibble breaks the answer being read, and is then taken for itself (R168; log 40). -/
theorem answersIn_break (a : Bool × List (BitVec 4)) {g : BitVec 5} (rest : List (BitVec 5))
    (hg : ∀ v, Sym.ofGroup g ≠ some (.nibble v)) : answersIn (some a) (g :: rest) = none :: answersIn none (g :: rest) := by
  rw [answersIn, answersIn]
  split
  · next v h => exact absurd h (hg v)
  all_goals rfl

/-- The end of the run ends the answer being read (log 40). -/
theorem answersIn_end (a : Bool × List (BitVec 4)) : answersIn (some a) [] = [none] := rfl

end Sys2Proof.Machine
end

