-- ==== Sys2Proof/Laws/Heads.lean ====
section
/-! SUPPORT. The heads: an operation done for each head index, page states and ticker contexts, painting, compositions,
overlays. -/

namespace Sys2Proof.Machine

/-! ### An operation for each head -/

/-- Two states agree but for the heads' records, compositions and buffers, and the counters. -/
def State.HeadsOnly (s t : State) : Prop :=
  t = { s with heads := t.heads, comps := t.comps, buffers := t.buffers, counters := t.counters }

/-- An operation for a head index that leaves the other indices, and everything but heads and counters. -/
def LocalToHead (f : HeadIx → State → State) : Prop :=
  ∀ (i : HeadIx) (s : State), s.HeadsOnly (f i s) ∧ ∀ j, j ≠ i → s.SameAt (f i s) j

theorem State.HeadsOnly.refl (s : State) : s.HeadsOnly s := rfl

theorem State.HeadsOnly.trans {a b c : State} (h : a.HeadsOnly b) (g : b.HeadsOnly c) : a.HeadsOnly c := by
  unfold State.HeadsOnly at *
  rw [g, h]

/-- What an index keeps through two changes. -/
theorem SameAt.trans {a b c : State} {i : HeadIx} (h : a.SameAt b i) (g : b.SameAt c i) : a.SameAt c i :=
  ⟨g.1.trans h.1, g.2.1.trans h.2.1, g.2.2.trans h.2.2⟩

/-- Indices of a list without repetition, each met once. -/
theorem foldl_local {f : HeadIx → State → State} (hf : LocalToHead f) (l : List HeadIx) : ∀ s : State, l.Nodup →
    s.HeadsOnly (l.foldl (fun s i => f i s) s) ∧
    (∀ i, i ∉ l → s.SameAt (l.foldl (fun s i => f i s) s) i) ∧
    ∀ i ∈ l, ∃ u, s.HeadsOnly u ∧ s.SameAt u i ∧ (f i u).SameAt (l.foldl (fun s i => f i s) s) i := by
  induction l with
  | nil => exact fun s _ => ⟨rfl, fun _ _ => ⟨rfl, rfl, rfl⟩, fun i hi => absurd hi (List.not_mem_nil)⟩
  | cons a l ih =>
    intro s hn
    obtain ⟨ha, hl⟩ := List.nodup_cons.1 hn
    obtain ⟨h1, h2⟩ := hf a s
    obtain ⟨g1, g2, g3⟩ := ih (f a s) hl
    refine ⟨h1.trans g1, fun i hi => ?_, fun i hi => ?_⟩
    · rw [List.mem_cons, not_or] at hi
      exact SameAt.trans (h2 i hi.1) (g2 i hi.2)
    · rcases List.mem_cons.1 hi with rfl | hi
      · exact ⟨s, rfl, ⟨rfl, rfl, rfl⟩, g2 i ha⟩
      · obtain ⟨u, e1, e2, e3⟩ := g3 i hi
        exact ⟨u, h1.trans e1, SameAt.trans (h2 i (fun e => ha (e ▸ hi))) e2, e3⟩

theorem HeadIx.nodup_all : HeadIx.all.Nodup := by decide

/-- Each index is met once, in a state that differs from the first at other indices and in counters only. -/
theorem forHeads_local {f : HeadIx → State → State} (hf : LocalToHead f) (s : State) :
    s.HeadsOnly (s.forHeads f) ∧
    ∀ i, ∃ u, s.HeadsOnly u ∧ s.SameAt u i ∧ (f i u).SameAt (s.forHeads f) i :=
  let h := foldl_local hf HeadIx.all s HeadIx.nodup_all
  ⟨h.1, fun i => h.2.2 i (HeadIx.mem_all i)⟩

/-- A counter that the operation increases by one where `p` holds counts the indices where it holds at first. -/
theorem foldl_count {f : HeadIx → State → State} (hf : LocalToHead f) {c : Ctr} {p : State → HeadIx → Bool}
    (hp : ∀ s u i, s.HeadsOnly u → s.SameAt u i → p u i = p s i)
    (hb : ∀ i s, (f i s).counter c = if p s i then min (s.counter c + 1) Config.counterMax else s.counter c)
    (l : List HeadIx) : ∀ s : State, l.Nodup → (l.foldl (fun s i => f i s) s).counter c =
      if (l.filter (p s)).length = 0 then s.counter c
      else min (s.counter c + (l.filter (p s)).length) Config.counterMax := by
  induction l with
  | nil => exact fun s _ => rfl
  | cons a l ih =>
    intro s hn
    obtain ⟨ha, hl⟩ := List.nodup_cons.1 hn
    have e : l.filter (p (f a s)) = l.filter (p s) :=
      List.filter_congr fun i hi => hp _ _ _ (hf a s).1 ((hf a s).2 i (fun e => ha (e ▸ hi)))
    rw [List.foldl_cons, ih _ hl, e, hb, List.filter_cons]
    by_cases hps : p s a = true
    · rw [if_pos hps, if_pos hps, List.length_cons, if_neg (by omega : ¬ _ + 1 = 0)]
      split
      · next h0 => rw [h0]
      · omega
    · rw [if_neg hps, if_neg hps]

/-- A counter that each index increases by at most one counts the indices where the condition held at first. -/
theorem forHeads_count {f : HeadIx → State → State} (hf : LocalToHead f) {c : Ctr} {p : State → HeadIx → Bool}
    (hp : ∀ s u i, s.HeadsOnly u → s.SameAt u i → p u i = p s i)
    (hb : ∀ i s, (f i s).counter c = if p s i then min (s.counter c + 1) Config.counterMax else s.counter c)
    (s : State) : (s.forHeads f).counter c =
      if (HeadIx.all.filter (p s)).length = 0 then s.counter c
      else min (s.counter c + (HeadIx.all.filter (p s)).length) Config.counterMax :=
  foldl_count hf hp hb HeadIx.all s HeadIx.nodup_all

/-! ### Holds -/

/-- What leaving the hold set does to a page state (R127). -/
def PageState.leave (count dwell : Nat) (p : PageState) (i : Nat) : PageState :=
  if p.phase = .hold ∧ i ∈ p.holdSet then
    if p.holdSet.filter (fun j => j != i) = [] then p.advanced count dwell
    else { p with holdSet := p.holdSet.filter (fun j => j != i) }
  else p

/-- A field leaves the hold of a head that shows its pages (R127). -/
theorem leaveHold_pages {h : Head} {p : PageState} (hm : h.mode = .pages p) (dwell n i : Nat) :
    h.leaveHold dwell n i = { h with mode := .pages (p.leave (h.pageCount n) dwell i) } := by
  unfold Head.leaveHold PageState.leave
  rw [hm]
  dsimp only
  split
  · split
    · unfold Head.advancePage Head.onPages; rw [hm]
    · rfl
  · rw [← hm]

/-- Under an overlay nothing leaves a hold. -/
theorem leaveHold_overlay {h : Head} {slot : HeadIx} {sh : Shadow} (hm : h.mode = .overlay slot sh) (dwell n i : Nat) :
    h.leaveHold dwell n i = h := by
  unfold Head.leaveHold
  rw [hm]

/-- In DWELL nothing leaves the hold. -/
theorem leave_dwell {p : PageState} (hp : p.phase = .dwell) (count dwell i : Nat) : p.leave count dwell i = p := by
  unfold PageState.leave
  rw [if_neg]
  rintro ⟨h, _⟩
  rw [hp] at h
  cases h

/-- In DWELL no report changes the page state. -/
theorem foldl_leave_dwell {p : PageState} (hp : p.phase = .dwell) (count dwell : Nat) (l : List Nat) :
    l.foldl (PageState.leave count dwell) p = p := by
  induction l with
  | nil => rfl
  | cons a l ih => rw [List.foldl_cons, leave_dwell hp, ih]

/-- The hold set without the fields reported, and the page advanced when that empties it (R127). -/
theorem foldl_leave (count dwell : Nat) (l : List Nat) : ∀ (p : PageState) (kept : List Nat), p.phase = .hold →
    kept = p.holdSet.filter (fun j => !decide (j ∈ l)) →
    l.foldl (PageState.leave count dwell) p =
      if kept = p.holdSet then p else if kept = [] then p.advanced count dwell else { p with holdSet := kept } := by
  induction l with
  | nil =>
    intro p kept _ hk
    have : kept = p.holdSet := by rw [hk]; simp
    rw [if_pos this]; rfl
  | cons a l ih =>
    intro p kept hp hk
    rw [List.foldl_cons]
    have hk2 : kept = (p.holdSet.filter (fun j => j != a)).filter (fun j => !decide (j ∈ l)) := by
      rw [hk, List.filter_filter]
      apply List.filter_congr
      intro x _
      by_cases h1 : x = a <;> by_cases h2 : x ∈ l <;> simp [h1, h2]
    by_cases ha : a ∈ p.holdSet
    · have hne : kept ≠ p.holdSet := by
        intro e
        rw [hk] at e
        have : a ∈ p.holdSet.filter (fun j => !decide (j ∈ a :: l)) := by rw [e]; exact ha
        simp at this
      rw [if_neg hne]
      have e1 : p.leave count dwell a = if p.holdSet.filter (fun j => j != a) = [] then p.advanced count dwell
          else { p with holdSet := p.holdSet.filter (fun j => j != a) } := by
        unfold PageState.leave
        rw [if_pos ⟨hp, ha⟩]
      rw [e1]
      by_cases h0 : p.holdSet.filter (fun j => j != a) = []
      · rw [if_pos h0, foldl_leave_dwell (p := p.advanced count dwell) rfl count dwell l]
        rw [h0, List.filter_nil] at hk2
        rw [if_pos hk2]
      · rw [if_neg h0]
        refine (ih { p with holdSet := p.holdSet.filter (fun j => j != a) } kept hp hk2).trans ?_
        dsimp only
        by_cases h1 : kept = p.holdSet.filter (fun j => j != a)
        · rw [if_pos h1, if_neg (h1 ▸ h0), h1]
        · rw [if_neg h1]; rfl
    · have e : p.leave count dwell a = p := by
        unfold PageState.leave
        rw [if_neg]
        exact fun h => ha h.2
      rw [e]
      apply ih _ _ hp
      rw [hk2]
      congr 1
      rw [List.filter_eq_self]
      intro x hx
      simp only [bne_iff_ne, ne_eq]
      rintro rfl
      exact ha hx

/-! ### Tickers at a frame event -/

/-- The ticker of a field wraps at this frame event (R153). -/
def Head.wraps (h : Head) (idx : Nat) : Bool :=
  (keyedGet idx h.tickers).any (fun k => decide (16 * k.loop ≤ k.pos + h.speedOf idx))

/-- A context's advance reports its wrap (R153). -/
theorem advance_snd (k : Ticker) (v : Nat) : (k.advance v).2 = decide (16 * k.loop ≤ k.pos + v) := by
  unfold Ticker.advance
  split
  · next h => simp; omega
  · next h =>
    split <;> simp <;> omega

/-- One context of a head that shows its pages advanced. -/
theorem advanceTicker_spec {h : Head} {p : PageState} (hm : h.mode = .pages p) (dwell n idx : Nat) :
    ∃ l, h.advanceTicker dwell n idx = { h with
        tickers := l
        mode := .pages (if h.wraps idx then p.leave (h.pageCount n) dwell idx else p) } ∧
      keyedGet idx l = (keyedGet idx h.tickers).bind (fun k => (k.advance (h.speedOf idx)).1) ∧
      ∀ j, j ≠ idx → keyedGet j l = keyedGet j h.tickers := by
  unfold Head.advanceTicker Head.wraps
  cases hk : keyedGet idx h.tickers with
  | none => 
    refine ⟨h.tickers, ?_, by rw [hk]; rfl, fun _ _ => rfl⟩
    simp only [Option.any_none, Bool.false_eq_true, if_false]
    rw [← hm]
  | some k =>
    dsimp only
    simp only [Option.any_some, Option.bind_some, ← advance_snd]
    cases ha : k.advance (h.speedOf idx) with
    | mk a b =>
      dsimp only
      cases a with
      | none =>
        refine ⟨keyedErase idx h.tickers, ?_, keyedGet_erase_self _ _, fun j hj => keyedGet_erase_ne _ hj⟩
        cases b
        · simp only [Bool.false_eq_true, if_false]; rw [← hm]
        · simp only [if_true]
          exact leaveHold_pages (h := { h with tickers := keyedErase idx h.tickers }) hm dwell n idx
      | some k' =>
        refine ⟨keyedPut idx k' h.tickers, ?_, keyedGet_put_self _ _ _, fun j hj => keyedGet_put_ne _ _ hj⟩
        cases b
        · simp only [Bool.false_eq_true, if_false]; rw [← hm]
        · simp only [if_true]
          exact leaveHold_pages (h := { h with tickers := keyedPut idx k' h.tickers }) hm dwell n idx

/-- The contexts of a list of fields advanced, and the wraps reported (R127, R153). -/
theorem foldl_advanceTicker (dwell n : Nat) (l : List Nat) : ∀ (h : Head) (p : PageState), h.mode = .pages p → l.Nodup →
    ∃ ts, l.foldl (fun h idx => h.advanceTicker dwell n idx) h = { h with
        tickers := ts
        mode := .pages ((l.filter h.wraps).foldl (PageState.leave (h.pageCount n) dwell) p) } ∧
      (∀ j ∈ l, keyedGet j ts = (keyedGet j h.tickers).bind (fun k => (k.advance (h.speedOf j)).1)) ∧
      ∀ j, j ∉ l → keyedGet j ts = keyedGet j h.tickers := by
  induction l with
  | nil => exact fun h p hm _ => ⟨h.tickers, by simp [← hm], by simp, fun _ _ => rfl⟩
  | cons a l ih =>
    intro h p hm hn
    obtain ⟨ha, hl⟩ := List.nodup_cons.1 hn
    obtain ⟨t1, e1, e2, e3⟩ := advanceTicker_spec hm dwell n a
    rw [List.foldl_cons, e1]
    obtain ⟨t2, g1, g2, g3⟩ := ih { h with tickers := t1, mode := .pages (if h.wraps a then
        p.leave (h.pageCount n) dwell a else p) } _ rfl hl
    refine ⟨t2, ?_, fun j hj => ?_, fun j hj => ?_⟩
    · rw [g1]
      have ew : l.filter (Head.wraps { h with tickers := t1, mode := .pages (if h.wraps a then
          p.leave (h.pageCount n) dwell a else p) }) =
          l.filter h.wraps := by
        apply List.filter_congr
        intro x hx
        unfold Head.wraps
        dsimp only
        rw [e3 x (fun e => ha (e ▸ hx))]
        rfl
      rw [ew, List.filter_cons]
      cases h.wraps a
      · simp only [Bool.false_eq_true, if_false]; rfl
      · simp only [if_true, List.foldl_cons]; rfl
    · rcases List.mem_cons.1 hj with rfl | hj
      · rw [g3 _ ha, e2]
      · rw [g2 j hj]
        dsimp only
        rw [e3 j (fun e => ha (e ▸ hj))]
        rfl
    · rw [List.mem_cons, not_or] at hj
      rw [g3 j hj.2, e3 j hj.1]

/-- A key that is not held. -/
theorem keyedGet_none_iff {α : Type} (l : List (Nat × α)) (k : Nat) : keyedGet k l = none ↔ k ∉ l.map Prod.fst := by
  induction l with
  | nil => simp [keyedGet]
  | cons a l ih =>
    obtain ⟨k', v⟩ := a
    unfold keyedGet
    by_cases e : k' = k
    · simp [e]
    · rw [if_neg e, ih]; simp [Ne.symm e]

/-- A list in key order has one value for a key. -/
theorem keys_nodup {α : Type} {l : List (Nat × α)} (h : l.Pairwise (fun a b => a.1 < b.1)) : (l.map Prod.fst).Nodup :=
  List.pairwise_map.2 (h.imp (fun hab => by omega))

/-- The contexts of a head that shows its pages advanced (R127, R153). -/
theorem advanceTickers_pages {h : Head} {p : PageState} (hm : h.mode = .pages p)
    (hs : h.tickers.Pairwise (fun a b => a.1 < b.1)) (dwell n : Nat) :
    ∃ ts p', h.advanceTickers dwell n = { h with tickers := ts, mode := .pages p' } ∧
      (∀ j, keyedGet j ts = (keyedGet j h.tickers).bind (fun k => (k.advance (h.speedOf j)).1)) ∧
      (p.phase = .dwell → p' = p) ∧
      (p.phase = .hold → ∀ kept, kept = p.holdSet.filter (fun j => !h.wraps j) → p' =
        if kept = p.holdSet then p else if kept = [] then p.advanced (h.pageCount n) dwell else { p with holdSet :=
            kept }) := by
  obtain ⟨ts, e1, e2, e3⟩ := foldl_advanceTicker dwell n (h.tickers.map Prod.fst) h p hm (keys_nodup hs)
  refine ⟨ts, ((h.tickers.map Prod.fst).filter h.wraps).foldl (PageState.leave (h.pageCount n) dwell) p, ?_, fun j => ?_,
    fun hp => foldl_leave_dwell hp _ _ _, fun hp kept hk => foldl_leave _ _ _ _ _ hp ?_⟩
  · unfold Head.advanceTickers; rw [hm]; exact e1
  · by_cases hj : j ∈ h.tickers.map Prod.fst
    · exact e2 j hj
    · rw [e3 j hj, (keyedGet_none_iff _ _).2 hj]; rfl
  · rw [hk]
    apply List.filter_congr
    intro x _
    congr 1
    cases hw : h.wraps x
    · simp [hw]
    · have : x ∈ h.tickers.map Prod.fst := by
        by_contra hc
        unfold Head.wraps at hw
        rw [(keyedGet_none_iff _ _).2 hc] at hw
        cases hw
      simp only [List.mem_filter, hw, and_true]
      exact (decide_eq_true this).symm

/-- The contexts of a head advanced change its page state and its contexts only, and no page of a head in DWELL. -/
theorem advanceTickers_frame (h : Head) (dwell n : Nat) :
    (∀ p, h.mode = .pages p → ∃ ts p', h.advanceTickers dwell n = { h with tickers := ts, mode := .pages p' } ∧
      (p.phase = .dwell → p' = p)) ∧
    ∀ slot shadow, h.mode = .overlay slot shadow →
      h.advanceTickers dwell n = { h with overlayTicker := h.overlayTicker.bind (fun k => (k.advance 16).1) } := by
  refine ⟨fun p hm => ?_, fun slot shadow hm => ?_⟩
  · unfold Head.advanceTickers
    rw [hm]
    dsimp only
    generalize h.tickers.map Prod.fst = l
    induction l generalizing h p with
    | nil => exact ⟨h.tickers, p, by rw [← hm]; rfl, fun _ => rfl⟩
    | cons a l ih =>
      obtain ⟨t1, e1, _, _⟩ := advanceTicker_spec hm dwell n a
      rw [List.foldl_cons, e1]
      obtain ⟨t2, p2, g1, g2⟩ := ih { h with tickers := t1, mode := .pages (if h.wraps a then
          p.leave (h.pageCount n) dwell a else p) } _ rfl
      refine ⟨t2, p2, by rw [g1], fun hp => ?_⟩
      rw [leave_dwell hp, ite_self] at g2
      exact g2 hp
  · unfold Head.advanceTickers
    rw [hm]

/-! ### Pixels -/

theorem foldl_or_getLsbD (f : Nat → Pixels) (l : List Nat) : ∀ (m : Pixels) (i : Nat),
    (l.foldl (fun m r => m ||| f r) m).getLsbD i = (m.getLsbD i || l.any (fun r => (f r).getLsbD i)) := by
  induction l with
  | nil => simp
  | cons a l ih =>
    intro m i
    rw [List.foldl_cons, ih, BitVec.getLsbD_or, List.any_cons, Bool.or_assoc]

/-- The pixels of a rectangle. -/
theorem rectMask_pixel {x0 x1 y0 y1 x y : Nat} (hx : x < 256) (hy : y < 32) (hx1 : x1 ≤ 256) :
    (rectMask x0 x1 y0 y1).getLsbD (256 * y + x) = decide (x0 ≤ x ∧ x < x1 ∧ y0 ≤ y ∧ y < y1) := by
  unfold rectMask
  rw [foldl_or_getLsbD]
  have hrow : ∀ r, (BitVec.ofNat 8192 (2 ^ (x1 - x0) - 1) <<< ((y0 + r) * 256 + x0)).getLsbD (256 * y + x) =
      decide (y = y0 + r ∧ x0 ≤ x ∧ x < x1) := by
    intro r
    rw [BitVec.getLsbD_shiftLeft, BitVec.getLsbD_ofNat, Nat.testBit_two_pow_sub_one]
    rw [Bool.eq_iff_iff]
    simp only [Bool.and_eq_true, decide_eq_true_eq, Bool.not_eq_true', decide_eq_false_iff_not]
    constructor
    · rintro ⟨⟨_, h2⟩, _, h3⟩
      have : y = y0 + r := by omega
      omega
    · rintro ⟨rfl, h2, h3⟩
      omega
  rw [show (0 : Pixels).getLsbD (256 * y + x) = false from BitVec.getLsbD_zero, Bool.false_or, Bool.eq_iff_iff,
    List.any_eq_true, decide_eq_true_eq]
  constructor
  · rintro ⟨r, hr, h⟩
    rw [hrow, decide_eq_true_eq] at h
    rw [List.mem_range] at hr
    omega
  · rintro ⟨h1, h2, h3, h4⟩
    refine ⟨y - y0, List.mem_range.2 (by omega), ?_⟩
    rw [hrow, decide_eq_true_eq]
    omega

/-! ### Keyed lists and the ticker context of a painted field -/

/-- Reading a filtered keyed list. -/
theorem keyedGet_filter (p : Nat → Bool) (l : List (Nat × Ticker)) (idx : Nat) :
    keyedGet idx (l.filter (fun t => p t.1)) = if p idx then keyedGet idx l else none := by
  induction l with
  | nil => simp [keyedGet]
  | cons a l ih =>
    obtain ⟨k, v⟩ := a
    have e : keyedGet idx ((k, v) :: l) = if k = idx then some v else keyedGet idx l := by conv => lhs; unfold keyedGet
    by_cases hk : p k
    · rw [List.filter_cons_of_pos (by exact hk)]
      have e2 : keyedGet idx ((k, v) :: l.filter (fun t => p t.1)) = if k = idx then some v else
          keyedGet idx (l.filter (fun t => p t.1)) := by conv => lhs; unfold keyedGet
      rw [e2, e, ih]
      by_cases h : k = idx
      · subst h; simp [hk]
      · simp [h]
    · rw [List.filter_cons_of_neg (by exact hk), ih, e]
      by_cases h : k = idx
      · subst h; simp [hk]
      · simp [h]

/-- Reading a keyed list from which a key was erased. -/
theorem keyedGet_erase (idx j : Nat) (l : List (Nat × Ticker)) : keyedGet j (keyedErase idx l) = if j = idx then
    none else keyedGet j l := by
  have : keyedErase idx l = l.filter (fun t => (fun k => k != idx) t.1) := rfl
  rw [this, keyedGet_filter (fun k => k != idx)]
  by_cases h : j = idx <;> simp [h]

/-- The next field painted (R141). -/
theorem keyedAfter_next {α : Type} {l : List (Nat × α)} {o : Option Nat} {x : Nat × α} (hs : l.Pairwise (fun a b => a.1 < b.1))
    (hx : x ∈ l) (ho : ∀ p ∈ o, p < x.1) (hmin : ∀ y ∈ l, (∀ p ∈ o, p < y.1) → x.1 ≤ y.1) :
    keyedAfter o l = some x := by
  unfold keyedAfter
  generalize hQ : (fun p : Nat × α => match o with | none => true | some b => decide (b < p.1)) = Q
  have hP : ∀ y : Nat × α, Q y = true ↔ ∀ p ∈ o, p < y.1 := by
    intro y; rw [← hQ]; cases o <;> simp
  clear hQ
  induction l with
  | nil => cases hx
  | cons a l ih =>
    obtain ⟨h1, h2⟩ := List.pairwise_cons.1 hs
    by_cases ha : Q a = true
    · rw [List.find?_cons_of_pos ha]
      have hle := hmin a (List.mem_cons_self ..) ((hP a).1 ha)
      rcases List.mem_cons.1 hx with e | e
      · rw [e]
      · have := h1 x e; omega
    · rw [List.find?_cons_of_neg ha]
      refine ih h2 ?_ fun y hy => hmin y (List.mem_cons_of_mem _ hy)
      rcases List.mem_cons.1 hx with e | e
      · subst e; exact absurd ((hP x).2 ho) ha
      · exact e

/-- No key above a bound is held. -/
theorem keyedAfter_isNone {α : Type} (l : List (Nat × α)) (b : Nat) : (keyedAfter (some b) l).isNone = true ↔ ∀ y ∈ l,
    y.1 ≤ b := by
  unfold keyedAfter
  rw [Option.isNone_iff_eq_none, List.find?_eq_none]
  simp

/-- A painting's effect on a head's contexts and its hold (R127, R156). -/
theorem applyTicker_spec (dwell n idx : Nat) (h : Head) (c : TickerChange) : ∃ (ts : List (Nat × Ticker)) (m : HeadMode),
    h.applyTicker dwell n idx c = { h with tickers := ts, mode := m } ∧
    (keyedGet idx ts = match c with
      | .keep => keyedGet idx h.tickers
      | .discard => none
      | .update k | .restart k => some k) ∧
    (∀ j, j ≠ idx → keyedGet j ts = keyedGet j h.tickers) ∧
    ∀ gone : Bool, (gone = true ↔ c = .discard ∨ ∃ k, c = .restart k) → ∀ p, h.mode = .pages p →
      m = .pages (if gone then p.leave (h.pageCount n) dwell idx else p) := by
  have L : ∀ h' : Head, (∃ ts, h' = { h with tickers := ts }) → ∃ m, h'.leaveHold dwell n idx = { h' with mode := m } ∧
      ∀ p, h.mode = .pages p → m = .pages (p.leave (h.pageCount n) dwell idx) := by
    rintro _ ⟨ts, rfl⟩
    obtain ⟨md, hm⟩ : ∃ md, h.mode = md := ⟨_, rfl⟩
    cases md with
    | pages p =>
      rw [leaveHold_pages (p := p) (by exact hm)]
      exact ⟨_, rfl, fun q e => by rw [hm] at e; cases e; rfl⟩
    | overlay slot sh =>
      rw [leaveHold_overlay (slot := slot) (sh := sh) (by exact hm)]
      exact ⟨_, rfl, fun q e => by rw [hm] at e; cases e⟩
  cases c with
  | keep =>
    refine ⟨h.tickers, h.mode, rfl, rfl, fun _ _ => rfl, fun gone hg p hp => ?_⟩
    have : gone = false := by rw [Bool.eq_false_iff]; intro e; rcases hg.1 e with h | ⟨k, h⟩ <;> cases h
    rw [this, hp]; rfl
  | discard =>
    obtain ⟨m, e, f⟩ := L { h with tickers := keyedErase idx h.tickers } ⟨_, rfl⟩
    refine ⟨keyedErase idx h.tickers, m, e, by rw [keyedGet_erase, if_pos rfl], fun j hj => by rw [keyedGet_erase,
        if_neg hj], fun gone hg p hp => ?_⟩
    rw [hg.2 (Or.inl rfl), if_pos rfl]; exact f p hp
  | update k =>
    refine ⟨keyedPut idx k h.tickers, h.mode, rfl, keyedGet_put_self _ _ _, fun j hj => keyedGet_put_ne _ _ hj,
        fun gone hg p hp => ?_⟩
    have : gone = false := by rw [Bool.eq_false_iff]; intro e; rcases hg.1 e with h | ⟨k, h⟩ <;> cases h
    rw [this, hp]; rfl
  | restart k =>
    obtain ⟨m, e, f⟩ := L { h with tickers := keyedPut idx k h.tickers } ⟨_, rfl⟩
    refine ⟨keyedPut idx k h.tickers, m, e, keyedGet_put_self _ _ _, fun j hj => keyedGet_put_ne _ _ hj,
        fun gone hg p hp => ?_⟩
    rw [hg.2 (Or.inr ⟨k, rfl⟩), if_pos rfl]; exact f p hp

/-! ### Truncation (R148) -/

/-- A text without its trailing spaces (R148). -/
theorem dropSpaces_spec (l : List Nat) : ∃ kept spaces, l = kept ++ List.replicate spaces 0x20 ∧
    kept.getLast? ≠ some 0x20 ∧ dropSpaces l = kept := by
  refine ⟨dropSpaces l, (l.reverse.takeWhile (fun g => g == 0x20)).length, ?_, ?_, rfl⟩
  · have h1 : l.reverse.takeWhile (fun g => g == 0x20) =
      List.replicate (l.reverse.takeWhile (fun g => g == 0x20)).length 0x20 := by
      rw [List.eq_replicate_iff]
      refine ⟨rfl, fun b hb => ?_⟩
      have := List.mem_takeWhile_imp hb
      simpa using this
    have h2 : l.reverse = l.reverse.takeWhile (fun g => g == 0x20) ++ l.reverse.dropWhile (fun g => g == 0x20) :=
        (List.takeWhile_append_dropWhile).symm
    have h3 : l = (l.reverse.dropWhile (fun g => g == 0x20)).reverse ++ (l.reverse.takeWhile (fun g => g == 0x20)).reverse := by
      rw [← List.reverse_append, ← h2, List.reverse_reverse]
    unfold dropSpaces
    refine h3.trans ?_
    congr 1
    conv => lhs; rw [h1]
    rw [List.reverse_replicate]
  · unfold dropSpaces
    rw [List.getLast?_reverse]
    intro h
    have := List.head?_dropWhile_not (fun g => g == 0x20) l.reverse
    rw [h] at this
    simp at this

/-- The greatest index below a bound that satisfies a property which 0 satisfies. -/
theorem foldl_range_greatest (P : Nat → Prop) [DecidablePred P] (hP : P 0) (N : Nat) (hN : 0 < N) : ∀ n, n =
    (List.range N).foldl (fun best k => if P k then k else best) 0 →
    n < N ∧ P n ∧ ∀ m, n < m → m < N → ¬ P m := by
  intro n hn
  induction N generalizing n with
  | zero => omega
  | succ N ih =>
    rw [List.range_succ, List.foldl_append] at hn
    simp only [List.foldl_cons, List.foldl_nil] at hn
    by_cases h0 : N = 0
    · subst h0
      simp at hn
      subst hn
      exact ⟨by omega, hP, fun m a b => by omega⟩
    · obtain ⟨a, b, c⟩ := ih (by omega) _ rfl
      by_cases hp : P N
      · rw [if_pos hp] at hn; subst hn
        exact ⟨by omega, hp, fun m a b => by omega⟩
      · rw [if_neg hp] at hn; rw [← hn] at a b c
        refine ⟨by omega, b, fun m h1 h2 => ?_⟩
        by_cases e : m = N
        · rw [e]; exact hp
        · exact c m h1 (by omega)

/-! ### Counters of a painting -/

theorem tally_frame (l : List (Ctr × Nat)) : ∀ s : State, s.tally l = { s with counters := (s.tally l).counters } := by
  induction l with
  | nil => exact fun s => rfl
  | cons a l ih =>
    intro s
    show (s.bumpBy a.1 a.2).tally l = { s with counters := ((s.bumpBy a.1 a.2).tally l).counters }
    rw [ih]
    rfl

/-- What tallies add depends on the counters only. -/
theorem tally_counters (l : List (Ctr × Nat)) : ∀ a b : State, a.counters = b.counters →
    (a.tally l).counters = (b.tally l).counters := by
  induction l with
  | nil => exact fun a b h => h
  | cons x l ih =>
    intro a b h
    refine ih _ _ ?_
    unfold State.bumpBy
    dsimp only
    rw [h]

/-- The counters of a painting count, whatever else it changes. -/
theorem tallied (u s : State) (l : List (Ctr × Nat)) (c : Ctr) (n : Nat) (h : u.counters = s.counters) :
    (u.tally l).bumpBy c n = { u with counters := ((s.tally l).bumpBy c n).counters } := by
  have e := tally_counters l u s h
  rw [tally_frame l u]
  unfold State.bumpBy
  dsimp only
  rw [e]

/-- A counter that no tally names is kept. -/
theorem tally_counter (l : List (Ctr × Nat)) (c : Ctr) (hc : ∀ p ∈ l, p.1 ≠ c) : ∀ s : State,
    (s.tally l).counter c = s.counter c := by
  induction l with
  | nil => exact fun s => rfl
  | cons a l ih =>
    intro s
    show ((s.bumpBy a.1 a.2).tally l).counter c = s.counter c
    rw [ih (fun p hp => hc p (List.mem_cons_of_mem _ hp)),
        State.counter_bumpBy_ne _ _ (Ne.symm (hc a (List.mem_cons_self ..)))]

/-- The counters of an expansion (R99). -/
abbrev expansionCounters : List Ctr := [.missingNames, .missingReferences, .depthFallbacks, .strictFallbacks, .textsCut]

/-- The counters of a free string's expansion (R99). -/
theorem expandFree_counts (t : List NameEntry) (strict : Bool) (room : Nat) (items : List Item) :
    ∀ p ∈ (expandFree t strict room items).counts, p.1 ∈ expansionCounters := by
  intro p hp
  unfold expandFree Walk.deliver at hp
  simp only [List.mem_cons, List.not_mem_nil, or_false] at hp
  rcases hp with rfl | rfl | rfl | rfl <;> simp [expansionCounters]

/-- The counters of a name's expansion (R99). -/
theorem expandName_counts (t : List NameEntry) (strict : Bool) (mode : Selector) (room code : Nat) :
    ∀ p ∈ (expandName t strict mode room code).counts, p.1 ∈ expansionCounters := by
  intro p hp
  unfold expandName at hp
  split at hp
  · unfold expandAbsent at hp
    simp only [List.mem_cons, List.not_mem_nil, or_false] at hp
    rcases hp with rfl | rfl <;> simp [expansionCounters]
  · dsimp only at hp
    split at hp <;> unfold Walk.deliver at hp <;> simp only [List.mem_cons, List.not_mem_nil, or_false] at hp <;>
      rcases hp with rfl | rfl | rfl | rfl <;> simp [expansionCounters]

/-- Glyphs count nothing. -/
theorem addGlyphs_tallies (gs : List Nat) : ∀ t : Text, (gs.foldl Text.addGlyph t).tallies = t.tallies := by
  induction gs with
  | nil => exact fun _ => rfl
  | cons g gs ih =>
    intro t
    rw [List.foldl_cons, ih]
    unfold Text.addGlyph
    split
    · rfl
    · split <;> rfl

/-- The counters of a piece are those of expansions (R99). -/
theorem addPiece_tallies (names : List NameEntry) (strict : Bool) (mode : Selector) (t : Text) (p : Piece)
    (h : ∀ q ∈ t.tallies, q.1 ∈ expansionCounters) :
    ∀ q ∈ (t.addPiece names strict mode p).tallies, q.1 ∈ expansionCounters := by
  unfold Text.addPiece
  split
  · exact h
  · split
    · rw [addGlyphs_tallies]; exact h
    · intro q hq
      rcases List.mem_append.1 hq with hq | hq
      · exact h q hq
      · exact expandName_counts _ _ _ _ _ q hq
    · intro q hq
      rcases List.mem_append.1 hq with hq | hq
      · exact h q hq
      · exact expandFree_counts _ _ _ _ q hq

/-- The counters of a text are those of expansions (R99). -/
theorem buildText_tallies (names : List NameEntry) (strict : Bool) (mode : Selector) (limit : Nat) (pieces : List Piece) :
    ∀ q ∈ (buildText names strict mode limit pieces).tallies, q.1 ∈ expansionCounters := by
  unfold buildText
  suffices H : ∀ t : Text, (∀ q ∈ t.tallies, q.1 ∈ expansionCounters) →
      ∀ q ∈ (pieces.foldl (Text.addPiece names strict mode) t).tallies, q.1 ∈ expansionCounters from
    H _ (by intro q hq; cases hq)
  induction pieces with
  | nil => exact fun t h => h
  | cons p ps ih => exact fun t h => ih _ (addPiece_tallies _ _ _ _ _ h)

/-! ### Completion -/

/-- Whether the buffers of a head that is COMPLETE may swap (R159). -/
def State.maySwap (s : State) (i : HeadIx) : Bool :=
  (decide ((s.buffers.get i).frontState = .sent) || !s.sendable i) && !s.sendingTo i

/-- A completion: no composition, and the buffers COMPLETE or swapped (R141, R159). -/
theorem completeComp_spec (s : State) (i : HeadIx) : s.completeComp i = { s with
    comps := s.comps.set i none
    buffers := s.buffers.set i ((s.buffers.get i).completed (s.buffers.get i).back (s.maySwap i)) } := by
  unfold State.completeComp State.swapIfReady
  have e1 : (State.setBuffers (s.setComp i none) i { s.buffers.get i with backState := .complete }).buffers.get i =
      { s.buffers.get i with backState := .complete } := Bank8.get_set_self _ _ _
  have e2 : (State.setBuffers (s.setComp i none) i { s.buffers.get i with backState := .complete }).sendable i =
    s.sendable i := rfl
  have e3 : (State.setBuffers (s.setComp i none) i { s.buffers.get i with backState := .complete }).sendingTo i =
    s.sendingTo i := rfl
  rw [e1, e2, e3]
  unfold Buffers.completed
  by_cases h : s.maySwap i = true
  · rw [if_pos h, if_pos]
    · show { s with comps := _, buffers := (s.buffers.set i _).set i _ } = _
      congr 1
      apply Bank8.ext_get
      intro j
      rw [Bank8.get_set, Bank8.get_set, Bank8.get_set]
      split <;> rfl
    · unfold State.maySwap at h
      simp only [Bool.and_eq_true, Bool.or_eq_true, decide_eq_true_eq, Bool.not_eq_true'] at h
      exact ⟨rfl, h.1, h.2⟩
  · rw [if_neg h, if_neg]
    · rfl
    · rintro ⟨_, h1, h2⟩
      apply h
      unfold State.maySwap
      simp only [Bool.and_eq_true, Bool.or_eq_true, decide_eq_true_eq, Bool.not_eq_true']
      exact ⟨h1, h2⟩

/-! ### Operations for a head that are local -/

theorem setHead_local (s : State) (i : HeadIx) (h : Option Head) :
    s.HeadsOnly (s.setHead i h) ∧ ∀ j, j ≠ i → s.SameAt (s.setHead i h) j :=
  ⟨rfl, fun _ hj => ⟨Bank8.get_set_ne _ _ hj, rfl, rfl⟩⟩

/-- The contexts of a head advanced touch its index only. -/
theorem advanceHead_local : LocalToHead State.advanceHead := by
  intro i s
  unfold State.advanceHead State.onHead
  split
  · exact setHead_local s i _
  · exact ⟨rfl, fun _ _ => ⟨rfl, rfl, rfl⟩⟩

/-- What painting an overlay does (R155). -/
theorem paintOverlay_spec (s : State) (i : HeadIx) (h : Head) (slot : HeadIx) (number : Nat) :
    ∃ (k : Option Ticker) (px : Pixels) (t : State), s.paintOverlay i h slot number = { s with
        heads := s.heads.set i { s.heads.get i with head := some { h with overlayTicker := k } }
        buffers := s.buffers.set i { s.buffers.get i with back := px }
        counters := t.counters } ∧
      (∀ c, c ∉ Ctr.missingGlyphs :: expansionCounters → t.counter c = s.counter c) ∧
      ((s.fonts.get h.overlayFont).defined = false → k = none ∧ px = (s.buffers.get i).back) ∧
      ((s.fonts.get h.overlayFont).defined = true → ∀ text,
        text = buildText s.names.table s.mgmt.settings.strictNames .full 640 (freePiece (match s.notices.get slot with
          | some n => n.text
          | none => [])) →
        k = overlayContext s.fonts h number text ∧
        px = (Clip.ofRect 0 h.overlayRow h.width (s.fonts.get h.overlayFont).height h.width h.height).draw s.fonts
          h.overlayFont h.width (s.buffers.get i).back (match k with
            | some k => k.choice.drawing
            | none => Drawing.nothing)) := by
  unfold State.paintOverlay
  by_cases hd : (s.fonts.get h.overlayFont).defined = false
  · rw [if_pos hd]
    refine ⟨none, (s.buffers.get i).back, s, ?_, fun _ _ => rfl, fun _ => ⟨rfl, rfl⟩, fun e => ?_⟩
    · have : s.buffers.set i { s.buffers.get i with back := (s.buffers.get i).back } = s.buffers := Bank8.set_get _ _
      rw [this]; rfl
    · rw [hd] at e; cases e
  · rw [if_neg hd]
    dsimp only
    generalize hT : buildText s.names.table s.mgmt.settings.strictNames .full 640 (freePiece (match s.notices.get slot with
          | some n => n.text
          | none => [])) = text
    generalize hk : overlayContext s.fonts h number text = k
    generalize hpx : Clip.draw _ _ _ _ _ _ = px
    refine ⟨k, px, _, tallied ((s.setHead i (some { h with overlayTicker := k })).setBack i px) s _ _ _ rfl, fun c hc => ?_,
      fun e => absurd e hd, fun _ t ht => ?_⟩
    · simp only [List.mem_cons, not_or] at hc
      rw [State.counter_bumpBy_ne _ _ hc.1]
      apply tally_counter
      intro p hp e
      have := buildText_tallies s.names.table s.mgmt.settings.strictNames .full 640 (freePiece (match s.notices.get slot with
          | some n => n.text
          | none => [])) p (by rw [hT]; exact hp)
      rw [e] at this
      simp only [expansionCounters, List.mem_cons, List.not_mem_nil, or_false] at this
      tauto
    · rw [ht]
      exact ⟨hk.symm, by cases k <;> exact hpx.symm⟩

/-! ### Composition starts (R125, R140, R141) -/

theorem bump_local (s : State) (i : HeadIx) (c : Ctr) : s.HeadsOnly (s.bump c) ∧ ∀ j, j ≠ i → s.SameAt (s.bump c) j :=
  ⟨rfl, fun _ _ => ⟨rfl, rfl, rfl⟩⟩

/-- What the start of a composition does to a head that shows its pages (R125, R140, R141). -/
theorem startComp_pages (s : State) (i : HeadIx) {h : Head} {p p' : PageState} {dark : Pixels} (hm : h.mode = .pages p)
    (hp : p' = if p.page < h.pageCount s.entryCount then p else { p with page := 0 })
    (hd : dark = (s.buffers.get i).back &&& ~~~ rectMask 0 h.width 0 h.height) :
    s.startComp i h = { s with
      heads := s.heads.set i { s.heads.get i with head := some { h with mode := .pages p' } }
      comps := s.comps.set i (if h.fields = [] then none else
        some ⟨s.snapshot (.slots h.topSlot (rowsOf s.board.table h.topSlot p'.page)), none⟩)
      buffers := s.buffers.set i (if h.fields = [] then (s.buffers.get i).completed dark (s.maySwap i)
        else { s.buffers.get i with back := dark, backState := .composing }) } := by
  have ec : h.checkPage s.entryCount = { h with mode := .pages p' } := by
    unfold Head.checkPage Head.onPages
    rw [hm, hp]
  have er : s.rowsFor i { h with mode := .pages p' } = .slots h.topSlot (rowsOf s.board.table h.topSlot p'.page) := rfl
  unfold State.startComp
  dsimp only
  rw [ec, er]
  dsimp only [State.snapshot]
  by_cases hf : h.fields = []
  · rw [if_pos hf, if_pos hf, if_pos hf, completeComp_spec]
    dsimp only [State.setComp, State.setBuffers, State.setHead]
    rw [Bank8.get_set_self]
    congr 1
    · apply Bank8.ext_get
      intro j
      rw [Bank8.get_set, Bank8.get_set, Bank8.get_set]
      split <;> rfl
    · apply Bank8.ext_get
      intro j
      rw [Bank8.get_set, Bank8.get_set, Bank8.get_set]
      split
      · unfold State.maySwap
        dsimp only
        rw [Bank8.get_set_self]
        unfold Buffers.completed Buffers.composing
        rw [hd]
        rfl
      · rfl
  · rw [if_neg hf, if_neg hf, if_neg hf]
    rw [hd]
    rfl

/-- What the start of a composition does to a head under an overlay (R140, R141, R155; log 22). -/
theorem startComp_overlay (s : State) (i : HeadIx) {h : Head} {slot : HeadIx} {shadow : Shadow} {dark : Pixels}
    (hm : h.mode = .overlay slot shadow)
    (hd : dark = (s.buffers.get i).back &&& ~~~ rectMask 0 h.width 0 h.height) :
    ∃ (k : Option Ticker) (px : Pixels) (t : State), s.startComp i h = { s with
        heads := s.heads.set i { s.heads.get i with head := some { h with overlayTicker := k } }
        comps := s.comps.set i none
        buffers := s.buffers.set i ((s.buffers.get i).completed px (s.maySwap i))
        counters := t.counters } ∧
      (∀ c, c ∉ Ctr.missingGlyphs :: expansionCounters → t.counter c = s.counter c) ∧
      ((s.fonts.get h.overlayFont).defined = false → k = none ∧ px = dark) ∧
      ((s.fonts.get h.overlayFont).defined = true → ∀ text,
        text = buildText s.names.table s.mgmt.settings.strictNames .full 640 (freePiece (match s.notices.get slot with
          | some n => n.text
          | none => [])) →
        k = overlayContext s.fonts h (s.heads.get i).overlayNumber text ∧
        px = (Clip.ofRect 0 h.overlayRow h.width (s.fonts.get h.overlayFont).height h.width h.height).draw s.fonts
          h.overlayFont h.width dark (match k with
            | some k => k.choice.drawing
            | none => Drawing.nothing)) := by
  have ec : h.checkPage s.entryCount = h := by
    unfold Head.checkPage Head.onPages
    rw [hm]
  have er : s.rowsFor i h = .overlay slot (s.heads.get i).overlayNumber := by
    unfold State.rowsFor
    rw [hm]
  generalize hs : ((s.setHead i (some h)).setBuffers i ((s.buffers.get i).composing h)).setComp i
    (some ⟨s.snapshot (.overlay slot (s.heads.get i).overlayNumber), none⟩) = s'
  obtain ⟨k, px, t, e1, e2, e3, e4⟩ := paintOverlay_spec s' i h slot (s.heads.get i).overlayNumber
  have hb : (s'.buffers.get i).back = dark := by
    rw [← hs, hd]
    dsimp only [State.setComp, State.setBuffers, State.setHead]
    rw [Bank8.get_set_self]
    rfl
  have hst : s.startComp i h = (s'.paintOverlay i h slot (s.heads.get i).overlayNumber).completeComp i := by
    unfold State.startComp
    dsimp only
    rw [ec, er]
    dsimp only [State.snapshot] at hs ⊢
    rw [hs]
  refine ⟨k, px, t, ?_, fun c hc => ?_, fun hf => ?_, fun hf text ht => ?_⟩
  · rw [hst, completeComp_spec, e1, ← hs]
    dsimp only [State.setComp, State.setBuffers, State.setHead]
    simp only [Bank8.get_set_self, Bank8.set_set]
    congr 2
    unfold State.maySwap
    dsimp only
    simp only [Bank8.get_set_self]
    unfold Buffers.completed Buffers.composing
    rfl
  · rw [e2 c hc, ← hs]; rfl
  · have := e3 (by rw [← hs]; exact hf)
    rw [hb] at this
    exact this
  · have := e4 (by rw [← hs]; exact hf) text (by rw [ht, ← hs]; rfl)
    rw [hb] at this
    rw [← hs] at this
    exact this

/-- A head's share of a frame event's compositions. -/
theorem composeHead_local : LocalToHead State.composeHead := by
  intro i s
  unfold State.composeHead
  cases hh : s.head i with
  | none => exact ⟨rfl, fun _ _ => ⟨rfl, rfl, rfl⟩⟩
  | some h =>
    dsimp only
    cases hc : s.comps.get i with
    | some c => exact bump_local s i _
    | none =>
      dsimp only
      cases hm : h.mode with
      | pages p =>
        rw [startComp_pages s i hm rfl rfl]
        exact ⟨rfl, fun _ hj => ⟨Bank8.get_set_ne _ _ hj, Bank8.get_set_ne _ _ hj, Bank8.get_set_ne _ _ hj⟩⟩
      | overlay slot shadow =>
        obtain ⟨k, px, t, e, _⟩ := startComp_overlay s i hm rfl
        rw [e]
        exact ⟨rfl, fun _ hj => ⟨Bank8.get_set_ne _ _ hj, Bank8.get_set_ne _ _ hj, Bank8.get_set_ne _ _ hj⟩⟩

/-- The counters of a composition start (R99, R111, R162). -/
theorem composeHead_counter (s : State) (i : HeadIx) (c : Ctr) (hc : c ∉ Ctr.missingGlyphs :: expansionCounters) :
    (s.composeHead i).counter c =
      if c = .composeLag ∧ ((s.head i).isSome && (s.comps.get i).isSome) = true then min (s.counter c + 1) Config.counterMax
      else s.counter c := by
  unfold State.composeHead
  cases hh : s.head i with
  | none => simp
  | some h =>
    dsimp only
    cases hk : s.comps.get i with
    | some k =>
      by_cases e : c = .composeLag
      · subst e; simp
      · simp [e, State.counter_bump_ne s e]
    | none =>
      simp only [Option.isSome_none, Bool.and_false, Bool.false_eq_true, and_false, if_false]
      cases hm : h.mode with
      | pages p => rw [startComp_pages s i hm rfl rfl]; rfl
      | overlay slot shadow =>
        obtain ⟨k, px, t, e, e2, _⟩ := startComp_overlay s i hm rfl
        rw [e]
        exact e2 c hc

/-! ### The compositions of a frame event -/

/-- Where each head index stands when its composition starts at a frame event. -/
theorem frameCompose_at {s : State} (hz : s.mgmt.frozen = false) (i : HeadIx) : ∃ v, s.HeadsOnly v ∧
    v.heads.get i = (match s.head i with
      | some h => { s.heads.get i with head := some (h.advanceTickers s.mgmt.settings.dwell s.entryCount) }
      | none => s.heads.get i) ∧
    v.comps.get i = s.comps.get i ∧ v.buffers.get i = s.buffers.get i ∧
    (v.composeHead i).SameAt s.frameCompose i := by
  obtain ⟨a1, a2⟩ := forHeads_local advanceHead_local s
  obtain ⟨b1, b2⟩ := forHeads_local composeHead_local (s.forHeads State.advanceHead)
  obtain ⟨u, u1, u2, u3⟩ := a2 i
  obtain ⟨v, v1, v2, v3⟩ := b2 i
  refine ⟨v, a1.trans v1, ?_, ?_, ?_, ?_⟩
  · rw [v2.1, u3.1]
    have hu : u.head i = s.head i := by unfold State.head; rw [u2.1]
    have hset : u.mgmt = s.mgmt ∧ u.board = s.board := by unfold State.HeadsOnly at u1; rw [u1]; exact ⟨rfl, rfl⟩
    unfold State.advanceHead State.onHead
    rw [hu]
    cases s.head i with
    | none => exact u2.1
    | some h =>
      dsimp only [State.setHead, State.entryCount]
      rw [Bank8.get_set_self, u2.1, hset.1, hset.2]
  · rw [v2.2.1, u3.2.1, ← u2.2.1]
    unfold State.advanceHead State.onHead
    split <;> rfl
  · rw [v2.2.2, u3.2.2, ← u2.2.2]
    unfold State.advanceHead State.onHead
    split <;> rfl
  · unfold State.frameCompose
    rw [if_neg (by rw [hz]; exact Bool.false_ne_true)]
    exact v3

/-- The contexts of a head advanced count nothing. -/
theorem advanceHead_counter (i : HeadIx) (s : State) : (s.advanceHead i).counters = s.counters := by
  unfold State.advanceHead State.onHead
  split <;> rfl

/-- The contexts of all heads advanced count nothing. -/
theorem advanceHeads_counters (s : State) : (s.forHeads State.advanceHead).counters = s.counters :=
  forHeads_keeps (P := fun t => t.counters = s.counters) (fun i t h => (advanceHead_counter i t).trans h) rfl

/-- The compositions of a frame event change heads, compositions, buffers and counters, and nothing while frozen (R161). -/
theorem frameCompose_frame (s : State) : s.HeadsOnly s.frameCompose ∧
    (∀ c, c ∉ [Ctr.composeLag, .missingGlyphs, .missingNames, .missingReferences, .depthFallbacks, .strictFallbacks,
        .textsCut] →
      s.frameCompose.counter c = s.counter c) ∧
    (s.mgmt.frozen = true → s.frameCompose = s) := by
  unfold State.frameCompose
  by_cases hz : s.mgmt.frozen = true
  · rw [if_pos hz]
    exact ⟨rfl, fun _ _ => rfl, fun _ => rfl⟩
  · rw [if_neg hz]
    refine ⟨(forHeads_local advanceHead_local s).1.trans (forHeads_local composeHead_local _).1, fun c hc => ?_,
        fun h => absurd h hz⟩
    have h0 : (s.forHeads State.advanceHead).counter c = s.counter c := by
      unfold State.counter; rw [advanceHeads_counters]
    have hc2 : c ∉ Ctr.missingGlyphs :: expansionCounters := fun h => hc (List.mem_cons_of_mem _ h)
    have hc1 : c ≠ .composeLag := fun h => hc (by rw [h]; exact List.mem_cons_self ..)
    refine forHeads_keeps (P := fun t => t.counter c = s.counter c) (fun i t h => ?_) h0
    rw [composeHead_counter t i c hc2, if_neg (fun e => hc1 e.1)]
    exact h

/-- Compose Lag counts the heads skipped (R139, R162). -/
theorem frameCompose_lag {s : State} (hz : s.mgmt.frozen = false) {n : Nat}
    (hn : n = (HeadIx.all.filter (fun i => (s.head i).isSome && (s.comps.get i).isSome)).length) :
    s.frameCompose.counter .composeLag =
      if n = 0 then s.counter .composeLag else min (s.counter .composeLag + n) 65535 := by
  have hp : ∀ (a u : State) (i : HeadIx), a.HeadsOnly u → a.SameAt u i →
      ((u.head i).isSome && (u.comps.get i).isSome) = ((a.head i).isSome && (a.comps.get i).isSome) := by
    intro a u i _ h
    unfold State.head
    rw [h.1, h.2.1]
  have e := forHeads_count composeHead_local (c := .composeLag)
    (p := fun t i => (t.head i).isSome && (t.comps.get i).isSome) hp
    (fun i t => by rw [composeHead_counter t i _ (by decide)]; simp) (s.forHeads State.advanceHead)
  have hfil : HeadIx.all.filter (fun i => ((s.forHeads State.advanceHead).head i).isSome &&
      ((s.forHeads State.advanceHead).comps.get i).isSome) =
      HeadIx.all.filter (fun i => (s.head i).isSome && (s.comps.get i).isSome) := by
    apply List.filter_congr
    intro i _
    obtain ⟨u, u1, u2, u3⟩ := (forHeads_local advanceHead_local s).2 i
    have hu : u.head i = s.head i := by unfold State.head; rw [u2.1]
    have e1 : ((s.forHeads State.advanceHead).head i).isSome = (s.head i).isSome := by
      have : (s.forHeads State.advanceHead).head i = ((u.advanceHead i)).head i := by unfold State.head; rw [u3.1]
      rw [this]
      unfold State.advanceHead State.onHead
      rw [hu]
      cases hh : s.head i with
      | none => dsimp only; rw [hu, hh]
      | some h => dsimp only; rw [State.setHead_head_self]; rfl
    have e2 : (s.forHeads State.advanceHead).comps.get i = s.comps.get i := by
      rw [u3.2.1, ← u2.2.1]
      unfold State.advanceHead State.onHead
      split <;> rfl
    rw [e1, e2]
  have h0 : (s.forHeads State.advanceHead).counter .composeLag = s.counter .composeLag := by
    unfold State.counter; rw [advanceHeads_counters]
  unfold State.frameCompose
  rw [if_neg (by rw [hz]; exact Bool.false_ne_true), e, hfil, ← hn, h0]
  rfl

/-! ### Overlays and notices (R130 to R132) -/

/-- The head, composition and buffers of an index after its composition is abandoned. -/
theorem abandon_at (s : State) (i : HeadIx) : s.HeadsOnly (s.abandon i) ∧ (s.abandon i).counters = s.counters ∧
    (∀ j, j ≠ i → s.SameAt (s.abandon i) j) ∧ (s.abandon i).heads = s.heads ∧ s.AbandonedAt (s.abandon i) i := by
  unfold State.abandon
  cases h : s.comps.get i with
  | none => refine ⟨rfl, rfl, fun j _ => ⟨rfl, rfl, rfl⟩, rfl, h, ?_⟩; rw [h]; rfl
  | some c =>
    refine ⟨rfl, rfl, fun j hj => ⟨rfl, Bank8.get_set_ne _ _ hj, Bank8.get_set_ne _ _ hj⟩, rfl,
        Bank8.get_set_self _ _ _, ?_⟩
    rw [h]; exact Bank8.get_set_self _ _ _

/-- The overlay that shows a slot on a head ends (R132, R142). -/
theorem releaseHead_at (s : State) (slot i : HeadIx) : s.HeadsOnly (s.releaseHead slot i) ∧
    (s.releaseHead slot i).counters = s.counters ∧ (∀ j, j ≠ i → s.SameAt (s.releaseHead slot i) j) ∧
    (∀ h, s.head i = some h → h.overlaySlot = some slot → s.AbandonedAt (s.releaseHead slot i) i ∧
      (s.releaseHead slot i).heads.get i =
        { s.heads.get i with head := some (h.endOverlay s.mgmt.settings.dwell s.entryCount) }) ∧
    ((∀ h, s.head i = some h → h.overlaySlot ≠ some slot) → s.SameAt (s.releaseHead slot i) i) := by
  unfold State.releaseHead
  cases hi : s.head i with
  | none => exact ⟨rfl, rfl, fun j _ => ⟨rfl, rfl, rfl⟩, fun h e => (by cases e), fun _ => ⟨rfl, rfl, rfl⟩⟩
  | some h =>
    dsimp only
    by_cases ho : h.overlaySlot = some slot
    · rw [if_pos ho]
      obtain ⟨a1, a2, a3, a4, a5⟩ := abandon_at (s.setHead i (some (h.endOverlay s.mgmt.settings.dwell s.entryCount))) i
      refine ⟨?_, a2, fun j hj => ?_, fun h' e _ => ?_, fun hn => absurd ho (hn h rfl)⟩
      · unfold State.HeadsOnly at *; rw [a1]; rfl
      · have := a3 j hj
        exact ⟨this.1.trans (Bank8.get_set_ne _ _ hj), this.2⟩
      · cases e
        exact ⟨a5, by rw [a4]; exact Bank8.get_set_self _ _ _⟩
    · rw [if_neg ho]
      exact ⟨rfl, rfl, fun j _ => ⟨rfl, rfl, rfl⟩, fun h' e hs => absurd hs (by cases e; exact ho), fun _ => ⟨rfl,
          rfl, rfl⟩⟩

/-- An OVERLAY notice takes a head (R131, R136, R142). -/
theorem takeHead_at (s : State) (i slot : HeadIx) (h : Head) : s.HeadsOnly (s.takeHead i slot h) ∧
    (s.takeHead i slot h).counters =
      (if h.overlaySlot.any (fun old => old != slot) then s.bump .overlaysReplaced else s).counters ∧
    (∀ j, j ≠ i → s.SameAt (s.takeHead i slot h) j) ∧
    (s.takeHead i slot h).heads.get i = { s.heads.get i with
      head := some (h.startOverlay slot)
      overlayNumber := ((s.heads.get i).overlayNumber + 1) % 256 } ∧
    (h.overlaySlot = none → s.AbandonedAt (s.takeHead i slot h) i) ∧
    (h.overlaySlot ≠ none → (s.takeHead i slot h).comps.get i = s.comps.get i ∧
      (s.takeHead i slot h).buffers.get i = s.buffers.get i) := by
  unfold State.takeHead
  have e : ((s.setHead i (some (h.startOverlay slot))).nextOverlayNumber i) = { s with
      heads := s.heads.set i { s.heads.get i with
        head := some (h.startOverlay slot)
        overlayNumber := ((s.heads.get i).overlayNumber + 1) % 256 } } := by
    unfold State.nextOverlayNumber State.setHead
    dsimp only
    rw [Bank8.get_set_self, Bank8.set_set]
    rfl
  dsimp only
  rw [e]
  have g : ∀ (v : HeadEntry) (j : HeadIx), j ≠ i → (s.heads.set i v).get j = s.heads.get j :=
      fun v j hj => Bank8.get_set_ne _ _ hj
  cases ho : h.overlaySlot with
  | none =>
    dsimp only
    obtain ⟨a1, a2, a3, a4, a5⟩ := abandon_at { s with heads := s.heads.set i { s.heads.get i with
      head := some (h.startOverlay slot)
      overlayNumber := ((s.heads.get i).overlayNumber + 1) % 256 } } i
    refine ⟨?_, a2, fun j hj => ⟨(a3 j hj).1.trans (g _ j hj), (a3 j hj).2⟩,
        by rw [a4]; exact Bank8.get_set_self _ _ _, fun _ => a5, fun hn => absurd rfl hn⟩
    unfold State.HeadsOnly at *; rw [a1]
  | some old =>
    dsimp only [Option.any]
    by_cases hs : old = slot
    · rw [if_pos hs, if_neg (by simp [hs])]
      exact ⟨rfl, rfl, fun j hj => ⟨g _ j hj, rfl, rfl⟩, Bank8.get_set_self _ _ _, fun hn => (by cases hn),
          fun _ => ⟨rfl, rfl⟩⟩
    · rw [if_neg hs, if_pos (by simp [hs])]
      exact ⟨rfl, rfl, fun j hj => ⟨g _ j hj, rfl, rfl⟩, Bank8.get_set_self _ _ _, fun hn => (by cases hn),
          fun _ => ⟨rfl, rfl⟩⟩

/-- What a notice just put does to a head (R131, R132). -/
structure NoticeAt (slot : HeadIx) (n : Notice) (s t : State) (i : HeadIx) : Prop where
  undef : s.head i = none → s.SameAt t i
  take : ∀ h, s.head i = some h → n.priority = .overlay ∧ n.mask.getLsbD i.val = true →
    t.heads.get i = { s.heads.get i with
      head := some (h.startOverlay slot)
      overlayNumber := ((s.heads.get i).overlayNumber + 1) % 256 } ∧
    (h.overlaySlot = none → s.AbandonedAt t i) ∧
    (h.overlaySlot ≠ none → t.comps.get i = s.comps.get i ∧ t.buffers.get i = s.buffers.get i)
  free : ∀ h, s.head i = some h → ¬ (n.priority = .overlay ∧ n.mask.getLsbD i.val = true) →
    (h.overlaySlot = some slot → s.AbandonedAt t i ∧
      t.heads.get i = { s.heads.get i with head := some (h.endOverlay s.mgmt.settings.dwell s.entryCount) }) ∧
    (h.overlaySlot ≠ some slot → s.SameAt t i)

/-- What a notice just put does at one index, and what it counts (R131, R132, R136). -/
theorem noticeOnHead_spec (slot : HeadIx) (n : Notice) (i : HeadIx) (s : State) :
    s.HeadsOnly (State.noticeOnHead slot n i s) ∧ (∀ j, j ≠ i → s.SameAt (State.noticeOnHead slot n i s) j) ∧
    (State.noticeOnHead slot n i s).counters = (if n.priority = .overlay ∧ n.mask.getLsbD i.val = true ∧
      (s.head i).any (fun h => h.overlaySlot.any (fun old => old != slot)) = true then s.bump .overlaysReplaced else
          s).counters ∧
    NoticeAt slot n s (State.noticeOnHead slot n i s) i := by
  unfold State.noticeOnHead
  cases hi : s.head i with
  | none =>
    refine ⟨rfl, fun j _ => ⟨rfl, rfl, rfl⟩, ?_, ⟨fun _ => ⟨rfl, rfl, rfl⟩, fun h e => (by rw [hi] at e; cases e),
        fun h e => by rw [hi] at e; cases e⟩⟩
    rw [if_neg (by simp)]
  | some h =>
    dsimp only
    by_cases hc : n.priority = .overlay ∧ n.mask.getLsbD i.val = true
    · rw [if_pos (by exact hc)]
      obtain ⟨a1, a2, a3, a4, a5, a6⟩ := takeHead_at s i slot h
      refine ⟨a1, a3, ?_, ⟨fun e => (by rw [hi] at e; cases e), fun h' e _ => ?_, fun h' e hn => absurd hc hn⟩⟩
      · rw [a2]
        by_cases hx : h.overlaySlot.any (fun old => old != slot) = true
        · rw [if_pos hx, if_pos ⟨hc.1, hc.2, hx⟩]
        · rw [if_neg hx, if_neg (fun h => hx h.2.2)]
      · rw [hi] at e; cases e
        exact ⟨a4, a5, a6⟩
    · rw [if_neg (by exact hc)]
      obtain ⟨a1, a2, a3, a4, a5⟩ := releaseHead_at s slot i
      refine ⟨a1, a3, ?_, ⟨fun e => (by rw [hi] at e; cases e), fun h' e hn => absurd hn hc,
          fun h' e _ => ⟨fun ho => a4 h' e ho, fun ho => a5 fun h2 e2 => (by rw [e2] at e; cases e; exact ho)⟩⟩⟩
      rw [a2, if_neg (fun h => hc ⟨h.1, h.2.1⟩)]

/-- What a notice does at an index depends on that index alone. -/
theorem NoticeAt.of_same {slot : HeadIx} {n : Notice} {s u v t : State} {i : HeadIx} (h : NoticeAt slot n u v i)
    (ho : s.HeadsOnly u) (hs : s.SameAt u i) (hv : v.SameAt t i) : NoticeAt slot n s t i := by
  have eh : u.head i = s.head i := by unfold State.head; rw [hs.1]
  have em : u.mgmt.settings.dwell = s.mgmt.settings.dwell ∧ u.entryCount = s.entryCount := by
    unfold State.HeadsOnly at ho; rw [ho]; exact ⟨rfl, rfl⟩
  obtain ⟨s1, s2, s3⟩ := hs
  obtain ⟨v1, v2, v3⟩ := hv
  refine ⟨fun e => ?_, fun h0 e hc => ?_, fun h0 e hc => ?_⟩
  · obtain ⟨a, b, c⟩ := h.undef (eh.trans e)
    exact ⟨v1.trans (a.trans s1), v2.trans (b.trans s2), v3.trans (c.trans s3)⟩
  · obtain ⟨a, b, c⟩ := h.take h0 (eh.trans e) hc
    refine ⟨by rw [v1, a, s1], fun hx => ?_, fun hx => ?_⟩
    · obtain ⟨p, q⟩ := b hx
      exact ⟨v2.trans p, by rw [v3, q, s2, s3]⟩
    · obtain ⟨p, q⟩ := c hx
      exact ⟨v2.trans (p.trans s2), v3.trans (q.trans s3)⟩
  · obtain ⟨a, b⟩ := h.free h0 (eh.trans e) hc
    refine ⟨fun hx => ?_, fun hx => ?_⟩
    · obtain ⟨⟨p, q⟩, r⟩ := a hx
      exact ⟨⟨v2.trans p, by rw [v3, q, s2, s3]⟩, by rw [v1, r, s1, em.1, em.2]⟩
    · obtain ⟨p, q, r⟩ := b hx
      exact ⟨v1.trans (p.trans s1), v2.trans (q.trans s2), v3.trans (r.trans s3)⟩

/-- A state is settled by what `NoticeAt` says of it. -/
theorem NoticeAt.unique {slot : HeadIx} {n : Notice} {s t u : State} {i : HeadIx} (h : NoticeAt slot n s t i)
    (g : NoticeAt slot n s u i) : t.SameAt u i := by
  cases hi : s.head i with
  | none =>
    obtain ⟨a, b, c⟩ := h.undef hi
    obtain ⟨x, y, z⟩ := g.undef hi
    exact ⟨x.trans a.symm, y.trans b.symm, z.trans c.symm⟩
  | some h0 =>
    by_cases hc : n.priority = .overlay ∧ n.mask.getLsbD i.val = true
    · obtain ⟨a, b, c⟩ := h.take h0 hi hc
      obtain ⟨x, y, z⟩ := g.take h0 hi hc
      by_cases ho : h0.overlaySlot = none
      · exact ⟨x.trans a.symm, (y ho).1.trans (b ho).1.symm, (y ho).2.trans (b ho).2.symm⟩
      · exact ⟨x.trans a.symm, (z ho).1.trans (c ho).1.symm, (z ho).2.trans (c ho).2.symm⟩
    · obtain ⟨a, b⟩ := h.free h0 hi hc
      obtain ⟨x, y⟩ := g.free h0 hi hc
      by_cases ho : h0.overlaySlot = some slot
      · exact ⟨(x ho).2.trans (a ho).2.symm, (x ho).1.1.trans (a ho).1.1.symm, (x ho).1.2.trans (a ho).1.2.symm⟩
      · obtain ⟨p, q, r⟩ := b ho
        obtain ⟨p2, q2, r2⟩ := y ho
        exact ⟨p2.trans p.symm, q2.trans q.symm, r2.trans r.symm⟩

/-- A notice just put acts on each index by itself. -/
theorem noticeOnHead_local (slot : HeadIx) (n : Notice) : LocalToHead (State.noticeOnHead slot n) := fun i s =>
  ⟨(noticeOnHead_spec slot n i s).1, (noticeOnHead_spec slot n i s).2.1⟩

/-- A notice just put acts on every head (R131, R132, R136). -/
theorem forHeads_notice (slot : HeadIx) (n : Notice) (s : State) :
    s.HeadsOnly (s.forHeads (State.noticeOnHead slot n)) ∧
    (∀ i, NoticeAt slot n s (s.forHeads (State.noticeOnHead slot n)) i) ∧
    (∀ c, c ≠ .overlaysReplaced → (s.forHeads (State.noticeOnHead slot n)).counter c = s.counter c) ∧
    ∀ k, k = (HeadIx.all.filter (fun i => decide (n.priority = .overlay ∧ n.mask.getLsbD i.val = true ∧
      (s.head i).any (fun h => h.overlaySlot.any (fun old => old != slot)) = true))).length →
      (s.forHeads (State.noticeOnHead slot n)).counter .overlaysReplaced =
        if k = 0 then s.counter .overlaysReplaced else min (s.counter .overlaysReplaced + k) 65535 := by
  obtain ⟨a, b⟩ := forHeads_local (noticeOnHead_local slot n) s
  refine ⟨a, fun i => ?_, fun c hc => ?_, fun k hk => ?_⟩
  · obtain ⟨u, h1, h2, h3⟩ := b i
    exact (noticeOnHead_spec slot n i u).2.2.2.of_same h1 h2 h3
  · exact forHeads_keeps (P := fun t => t.counter c = s.counter c) (fun i t ht => by
      rw [← ht]
      show (State.noticeOnHead slot n i t).counters[c.index] = _
      rw [(noticeOnHead_spec slot n i t).2.2.1]
      split
      · exact State.counter_bump_ne _ hc
      · rfl) rfl
  · rw [hk]
    refine forHeads_count (noticeOnHead_local slot n) (c := .overlaysReplaced) (p := fun s i => decide (n.priority =
        .overlay ∧ n.mask.getLsbD i.val = true ∧
      (s.head i).any (fun h => h.overlaySlot.any (fun old => old != slot)) = true)) (fun s u i _ h => ?_) (fun i t => ?_) s
    · have : u.head i = s.head i := by unfold State.head; rw [h.1]
      rw [this]
    · show (State.noticeOnHead slot n i t).counters[_] = _
      rw [(noticeOnHead_spec slot n i t).2.2.1]
      simp only [decide_eq_true_eq]
      split
      · exact State.counter_bump_self _ _
      · rfl

end Sys2Proof.Machine
end

