-- ==== Sys2Proof/Laws/Rounds.lean ====
section
/-! SUPPORT. The Panel Link: a round begins and ends, and a head frame ends. -/

namespace Sys2Proof.Machine

/-- A head frame begins (R160, R166, R170, R174). -/
theorem beginFrame_spec (s : State) (i : HeadIx) (h : Head) (rest : List HeadIx) (f : HeadFrame)
    (hf : f = (s.link.heads.get i).frameTo (s.heads.get i).blank i h) :
    ({ s with link := { s.link with round := some rest } } : State).beginFrame i h = { s with
      link := s.link.begun f rest
      counters := (if (s.buffers.get i).frontState = .sent then s.bump .frameRepeats else s).counters } := by
  unfold State.beginFrame Link.begun
  rw [hf]
  dsimp only [State.setLinkHead, State.setSending, State.setPlo]
  split <;> rfl

/-- A head frame begun leaves every head's state (R169). -/
theorem begun_heads (k : Link) (f : HeadFrame) (rest : List HeadIx) (j : HeadIx) :
    ((k.begun f rest).heads.get j).state = (k.heads.get j).state := by
  unfold Link.begun
  dsimp only
  rw [Bank8.get_set]
  split
  · next h => rw [h]
  · rfl

/-- The round in progress ends (R173). -/
theorem endRound_spec (s : State) : s.endRound = { s with
    link := { s.link with
      round := none
      pointer := match s.link.round with
        | some (j :: _) => j
        | some [] | none => s.link.pointer }
    counters := (match s.link.round with
      | some (_ :: rest) => s.bumpBy .frameOverruns (rest.length + 1)
      | some [] | none => s).counters } := by
  unfold State.endRound
  cases hr : s.link.round with
  | none => dsimp only; rw [← hr]
  | some l =>
    cases l with
    | nil => rfl
    | cons a l => rfl

/-- The heads due, from the pointer on (R172). -/
def State.dueFrom (s : State) (p : HeadIx) : List HeadIx :=
  (HeadIx.all.map (fun j => p + j)).filter (fun j => (s.head j).isSome &&
    (decide ((s.link.heads.get j).state ≠ .absent) || (s.link.heads.get j).probeDue))

/-- A round begins at a frame event (R172, R173). -/
theorem beginRound_spec (s : State) (p : HeadIx) (due : List HeadIx) (k : Link) (c : State)
    (hp : p = (match s.link.round with
      | some (j :: _) => j
      | some [] | none => s.link.pointer))
    (hd : due = s.dueFrom p) (hk : k = { s.link with pointer := p })
    (hc : c = (match s.link.round with
      | some (_ :: rest) => s.bumpBy .frameOverruns (rest.length + 1)
      | some [] | none => s)) :
    (∀ x, s.link.sending = some x → s.beginRound =
      { s with link := { k with round := if due = [] then none else some due }, counters := c.counters }) ∧
    (s.link.sending = none → due = [] → s.beginRound =
      { s with link := { k with round := none, plo := [] }, counters := c.counters }) ∧
    ∀ i rest h, s.link.sending = none → due = i :: rest → s.head i = some h → s.beginRound = { s with
      link := k.begun ((s.link.heads.get i).frameTo (s.heads.get i).blank i h) rest
      counters := (if (s.buffers.get i).frontState = .sent then c.bump .frameRepeats else c).counters } := by
  have e := endRound_spec s
  rw [← hp, ← hc] at e
  have ed : (wrapFrom s.endRound.link.pointer).filter s.endRound.dueInRound = due := by
    rw [hd, e]
    rfl
  unfold State.beginRound
  dsimp only
  rw [ed]
  refine ⟨fun x hx => ?_, fun hx h0 => ?_, fun i rest h hx h0 hh => ?_⟩
  · have : s.endRound.link.sending = some x := by rw [e]; exact hx
    rw [this]
    dsimp only
    rw [e, hk]
    by_cases h0 : due = []
    · simp only [h0, if_true, hx]
    · simp only [h0, if_false, hx]
  · have : s.endRound.link.sending = none := by rw [e]; exact hx
    rw [this, h0]
    dsimp only
    unfold State.nextOfRound
    rw [e, hk]
  · have : s.endRound.link.sending = none := by rw [e]; exact hx
    rw [this, h0]
    dsimp only
    unfold State.nextOfRound
    have hh' : s.endRound.head i = some h := by rw [e]; exact hh
    rw [hh']
    dsimp only
    rw [beginFrame_spec _ i h rest _ rfl, e, hk]
    dsimp only
    congr 1
    · split <;> rfl

/-- The Panel Link's part of a frame event changes the link and its counters only. -/
theorem frameRound_frame (s : State) : s.frameRound = { s with link := s.frameRound.link, counters :=
    s.frameRound.counters } ∧
    (∀ c, c ≠ .frameOverruns → c ≠ .frameRepeats → s.frameRound.counter c = s.counter c) ∧
    (∀ j, (s.frameRound.link.heads.get j).state = (s.link.heads.get j).state) ∧
    s.frameRound.link.owner = s.link.owner ∧
    (∀ x, s.link.sending = some x → s.frameRound.link.sending = some x) := by
  unfold State.frameRound
  by_cases hr : s.roundsRun = true
  · rw [if_pos hr]
    obtain ⟨h1, h2, h3⟩ := beginRound_spec s _ _ _ _ rfl rfl rfl rfl
    have hcount : ∀ c : Ctr, c ≠ .frameOverruns → (match s.link.round with
      | some (_ :: rest) => s.bumpBy .frameOverruns (rest.length + 1)
      | some [] | none => s).counter c = s.counter c := by
      intro c hc
      cases s.link.round with
      | none => rfl
      | some l =>
        cases l with
        | nil => rfl
        | cons a l => exact State.counter_bumpBy_ne s _ hc
    cases hx : s.link.sending with
    | some x =>
      rw [h1 x hx]
      exact ⟨rfl, fun c hc _ => hcount c hc, fun _ => rfl, rfl, fun y hy => by rw [← hy]; exact hx⟩
    | none =>
      cases hd : s.dueFrom (match s.link.round with
        | some (j :: _) => j
        | some [] | none => s.link.pointer) with
      | nil =>
        rw [h2 hx hd]
        exact ⟨rfl, fun c hc _ => hcount c hc, fun _ => rfl, rfl, fun y hy => by cases hy⟩
      | cons i rest =>
        have hi : i ∈ s.dueFrom (match s.link.round with
          | some (j :: _) => j
          | some [] | none => s.link.pointer) := by rw [hd]; exact List.mem_cons_self ..
        unfold State.dueFrom at hi
        rw [List.mem_filter, Bool.and_eq_true] at hi
        obtain ⟨h, hh⟩ := Option.isSome_iff_exists.1 hi.2.1
        rw [h3 i rest h hx hd hh]
        refine ⟨rfl, fun c hc hc2 => ?_, fun j => begun_heads _ _ _ j, rfl, fun y hy => by cases hy⟩
        split
        · exact (State.counter_bump_ne _ hc2).trans (hcount c hc)
        · exact hcount c hc
  · rw [if_neg hr]
    exact ⟨rfl, fun _ _ _ => rfl, fun _ => rfl, rfl, fun _ h => h⟩

/-! ### The Composer's part -/

/-! ### The end of a head frame (R168, R172) -/

/-- The end of a head frame, before the round or the ownership goes on. -/
theorem endFrame_spec (s : State) (x : HeadFrame) (e : FrameEnd) (k : Link) (b : Buffers)
    (hk : k = { s.link with
      sending := none
      heads := s.link.heads.set x.head
        (if x.void then s.link.heads.get x.head else (s.link.heads.get x.head).after e) })
    (hb : b = (s.buffers.get x.head).afterFrame x.clearFront) : s.endFrame x e = ({ s with
      link := k
      counters := (s.bumpOpt e.counter).counters
      buffers := s.buffers.set x.head (if b.backState = BackState.complete ∧
        (b.frontState = FrontState.sent ∨ ({ s with link := k } : State).sendable x.head = false) then b.swapped else
            b) }).afterFrame := by
  unfold State.endFrame
  have e1 : s.bumpOpt e.counter = { s with counters := (s.bumpOpt e.counter).counters } := by cases e <;> rfl
  have e2 : ((if x.void then s.bumpOpt e.counter else (s.bumpOpt e.counter).setLinkHead x.head
      (((s.bumpOpt e.counter).link.heads.get x.head).after e)).setSending none) =
      { s with link := k, counters := (s.bumpOpt e.counter).counters } := by
    rw [hk]
    cases hv : x.void
    · rw [if_neg Bool.false_ne_true]
      rw [e1]; rfl
    · rw [if_pos rfl, if_pos rfl]
      have : s.link.heads.set x.head (s.link.heads.get x.head) = s.link.heads := Bank8.set_get _ _
      rw [this, e1]; rfl
  have e3 : (if x.void then s.bumpOpt e.counter else (s.bumpOpt e.counter).setLinkHead x.head
      (((s.bumpOpt e.counter).link.heads.get x.head).after e)).buffers = s.buffers := by
    split <;> (show (s.bumpOpt e.counter).buffers = _; rw [e1])
  dsimp only
  rw [e3, e2, ← hb]
  unfold State.swapIfReady
  have hs : ({ s with link := k, counters := (s.bumpOpt e.counter).counters } : State).sendingTo x.head = false := by
    rw [hk]; rfl
  have hg : (({ s with link := k, counters :=
      (s.bumpOpt e.counter).counters } : State).setBuffers x.head b).buffers.get x.head = b :=
    Bank8.get_set_self _ _ _
  simp only [hg]
  by_cases hc : b.backState = .complete ∧ (b.frontState = .sent ∨ ({ s with link := k } : State).sendable x.head = false)
  · rw [if_pos hc, if_pos ⟨hc.1, hc.2, hs⟩]
    dsimp only [State.setBuffers]
    rw [Bank8.set_set]
  · rw [if_neg hc, if_neg (fun h => hc ⟨h.1, h.2.1⟩)]
    rfl

/-- The head that a round begins next, those no longer DEFINED passed over (R172). -/
theorem nextOfRound_dropped (s : State) (dropped rest : List HeadIx) (h : ∀ j ∈ dropped, s.head j = none) :
    s.nextOfRound (dropped ++ rest) = s.nextOfRound rest := by
  induction dropped with
  | nil => rfl
  | cons a l ih =>
    rw [List.cons_append]
    conv => lhs; unfold State.nextOfRound
    rw [h a (List.mem_cons_self ..)]
    exact ih (fun j hj => h j (List.mem_cons_of_mem _ hj))

end Sys2Proof.Machine
end

