-- ==== Sys2Proof/Tests/Slice0.lean ====
section
/-! SUPPORT. Tests: ill-formed terms that the checks refuse, the spec's worked examples, and for every statement with hypotheses a
state and operands that meet them. -/

namespace Sys2Proof.Tests

open Sys2Proof Sys2Proof.Machine

set_option Elab.async false

/-! ### Small states, frames and results -/

/-- A unit at address 7 between frames, with a serial of its own. -/
def unit : State :=
  { State.reset with
    serial := 0x00000000A1B2
    feed := { State.reset.feed with rx := .wait, address := 7 } }

/-- A frame to the unit, with Want Outcome unless said otherwise. -/
def to7 (p : List Byte) (flags : Byte := 1) : FeedFrame := ⟨63, [], 7, 254, flags, 9, p⟩

/-- A frame to every unit. -/
def toAll (p : List Byte) : FeedFrame := ⟨63, [], 255, 254, 0, 9, p⟩

/-- The next state of a command. -/
def run (c : Instr) (s : State) : State :=
  match exec c s with
  | .next t => t
  | .fault _ => s
  | .refused _ => s

/-- The outcome code of the reply in the slot. -/
def outcome (s : State) : Option Nat := s.feed.slot.map (fun r => u8 r 8)

/-- A service at the unit's platform. -/
def svc (id sched : Nat) : Entry :=
  ⟨id, 10, sched, none, .scheduled, ⟨1, .none⟩, false, 100, 0, 8, none, none, none, none, false, false⟩

/-- The unit with a table. -/
def withTable (t : List Entry) : State := { unit with board := { unit.board with table := t } }

/-- A stop at a station. -/
def stop (station : Nat) : Stop := ⟨station, .normal, none⟩

/-- A service with a complete list of three stops in block 0. -/
def listed : Entry := { svc 700 600 with list := some ⟨4, [⟨0, [stop 1, stop 2, stop 3]⟩]⟩ }

/-- A service with an open build of revision 5 that expects part 1. -/
def building : Entry := { svc 701 610 with build := some ⟨5, 1, [⟨1, [stop 4]⟩], false, 5⟩ }

/-- The unit with both services and the other blocks free. -/
def boarded : State := { unit with board := ⟨[listed, building], [⟨900, 3⟩], (List.range 160).drop 2⟩ }

/-! ### Ill-formed terms -/

theorem test_wf_hop_zero : (Instr.departurePut { to7 [] with hop := 0 }).wf = false := by decide +kernel
theorem test_wf_hop_above : (Instr.stops { to7 [] with hop := 64 }).wf = false := by decide +kernel
theorem test_wf_three_scope_pairs :
    (Instr.freeze { to7 [] with scope := [⟨.zone, 1⟩, ⟨.group, 2⟩, ⟨.zone, 3⟩] }).wf = false := by decide +kernel
theorem test_wf_payload_above : (Instr.namePut (to7 (List.replicate 241 0))).wf = false := by decide +kernel
theorem test_wf_notice_put_has_append : (Instr.noticePut (to7 [0, 2])).wf = false := by decide +kernel
theorem test_wf_notice_append_lacks_append : (Instr.noticeAppend (to7 [0, 0])).wf = false := by decide +kernel
theorem test_wf_counter_read_has_clear : (Instr.counterRead (to7 [1])).wf = false := by decide +kernel
theorem test_wf_counter_read_clear_lacks_clear : (Instr.counterReadClear (to7 [0])).wf = false := by decide +kernel
theorem test_wf_configure_other_setting : (Instr.configureDwell (to7 [8, 0, 1])).wf = false := by decide +kernel
theorem test_wf_configure_no_pair : (Instr.configureZone (to7 [1, 0])).wf = false := by decide +kernel
theorem test_wf_read_back_other_table : (Instr.readBackName (to7 [2, 0, 1, 0])).wf = false := by decide +kernel
theorem test_wf_ack_head_above : (Instr.ackReceived 8 0).wf = false := by decide +kernel
theorem test_wf_nak_head_above : (Instr.nakReceived 8 1).wf = false := by decide +kernel
theorem test_wf_nak_code_zero : (Instr.nakReceived 0 0).wf = false := by decide +kernel
theorem test_wf_nak_code_above : (Instr.nakReceived 0 5).wf = false := by decide +kernel
theorem test_wf_groups_spell_ack : (Instr.answerNotWellFormed [5, 16, 17, 18, 19]).wf = false := by decide +kernel
theorem test_wf_groups_spell_nak : (Instr.answerNotWellFormed [6, 16, 17, 16, 20]).wf = false := by decide +kernel
theorem test_wf_boundaries :
    (Instr.departurePut { to7 (List.replicate 240 0) with hop := 1, scope := [⟨.zone, 1⟩, ⟨.group, 2⟩] }).wf = true ∧
      (Instr.answerNotWellFormed [6, 16, 17, 16, 21]).wf = true ∧
      (Instr.configureHysteresis (to7 [1, 0, 3, 17, 0, 4])).wf = true ∧ (Instr.nakReceived 7 4).wf = true := by decide +kernel

/-! ### Resets (1.8, R20, R66) -/

/-- The unit held in reset. -/
def down : State := run .hardReset unit

theorem test_hard_reset : down.inReset = true ∧ down.feed.rx = .hunt ∧ down.driving = false := by decide +kernel
theorem test_hard_reset_end :
    let t := run (.hardResetEnd ⟨9, .standby, .pulse, .twoMbit⟩) down
    t.inReset = false ∧ t.feed.address = 9 ∧ t.link.owner = .idle ∧ t.mgmt.pendingEvents = 0x80 ∧ t.alertLow = true := by
  decide +kernel

theorem test_meets_StepRunsFrontCommand :
    ({ unit with pending := [.activity, .hardReset] }).pending = .activity :: [.hardReset] ∧ unit.pending = [] :=
  ⟨rfl, rfl⟩
theorem test_step_takes_front :
    step { unit with pending := [.activity, .hardReset] } = exec .activity { unit with pending := [.hardReset] } := rfl
theorem test_meets_EveryCommandCompletes : ∀ x, Instr.activity ≠ .hardResetEnd x := fun _ h => by cases h
theorem test_meets_HardResetHoldsThePart :
    down.inReset = true ∧ Instr.activity ≠ .hardReset ∧ (∀ x, Instr.activity ≠ .hardResetEnd x) ∧
      Instr.activity ≠ .lreqAsserted ∧ Instr.activity ≠ .lreqReleased :=
  ⟨by decide +kernel, by decide, fun _ h => (by cases h), by decide, by decide⟩
theorem test_meets_HardResetEnd : down.inReset = true := by decide +kernel

/-! ### The feed ring (01) -/

/-- The unit in BODY with a buffer. -/
def inBody (b : List Byte) : State := { unit with feed := { unit.feed with rx := .body, buffer := b } }

/-- The unit in HUNT. -/
def hunting : State := { unit with feed := { unit.feed with rx := .hunt } }

/-- A Names Clear for another unit, as its sender makes it. -/
def elsewhere : FeedFrame := { to7 [] with dest := 8, flags := 0 }

/-- The word example of 1.3: the check word and its change with the hop. -/
theorem test_check_word :
    checkWord [0x03, 0x12, 0xF5, 0x40, 0x1A, 0x07] = 0xEDA5 ∧ checkWord [0x02, 0x12, 0xF5, 0x40, 0x1A, 0x07] = 0xEEA5 := by
  decide +kernel
theorem test_idle_marker : (run .idleMarker hunting).feed.rx = .wait := by decide +kernel
theorem test_sync_marker : (run .syncMarker (inBody [1, 2])).counter .symbolErrors = 1 := by decide +kernel
theorem test_data_byte : (run (.dataByte 7) (inBody [1])).feed.buffer = [1, 7] := by decide +kernel
theorem test_data_byte_oversize :
    (run (.dataByte 7) (inBody (List.replicate 256 0))).counter .oversize = 1 := by decide +kernel
theorem test_invalid_character : (run .invalidCharacter (inBody [1])).feed.rx = .hunt := by decide +kernel
theorem test_frame_arrival : (run .frameArrival (inBody [1, 2, 3])).counter .runt = 1 := by decide +kernel
theorem test_frame_arrival_forwards :
    (run .frameArrival (inBody (frameBody 0x32 elsewhere))).feed.tx =
      .forward (frameBody 0x32 { elsewhere with hop := 62 }) true := by decide +kernel
theorem test_forwarded_frame_sent :
    (run .forwardedFrameSent (run (.namesClear elsewhere) unit)).feed.tx = .gap := by decide +kernel
theorem test_idle_gap_end : (run .idleGapEnd { unit with feed := { unit.feed with tx := .gap } }).feed.tx = .free := by
  decide +kernel
theorem test_reply_sent : (run .replySent (run (.namesClear (to7 [])) unit)).counter .repliesSent = 1 := by decide +kernel

theorem test_meets_ReceiverFollowsTable :
    (hunting.inReset = false ∧ hunting.feed.rx = .hunt) ∧ (unit.inReset = false ∧ unit.feed.rx = .wait) ∧
      ∀ n ∈ [0, 255], (inBody (List.replicate n 0)).inReset = false ∧ (inBody (List.replicate n 0)).feed.rx = .body ∧
        (inBody (List.replicate n 0)).feed.buffer.length < 256 := by decide +kernel
theorem test_meets_LengthGuardAborts :
    (inBody (List.replicate 256 0)).inReset = false ∧ (inBody (List.replicate 256 0)).feed.rx = .body ∧
      (inBody (List.replicate 256 0)).feed.buffer.length = 256 := by decide +kernel

/-- A body that passes the check word but has Hop 0, and one whose scope pairs leave no header. -/
def badBodies : List (List Byte) :=
  [withCheck [0, 0x32, 7, 254, 0, 9, 0], withCheck [5, 0xF5, 1, 0xF6, 2, 0x32, 7], withCheck [5, 0x32, 7, 254, 0, 9, 1]]

theorem test_meets_ArrivalTestsInOrder :
    (∀ n ∈ [0, 8], (inBody (List.replicate n 0)).feed.buffer.length < 9) ∧
      (9 ≤ (List.replicate 9 (1 : Byte)).length ∧ onesAdd (checkSum 0 ((List.replicate 9 (1 : Byte)).take 7))
        (u16 (List.replicate 9 1) 7) ≠ 0xFFFF) ∧
      (∀ b ∈ badBodies, 9 ≤ b.length ∧ onesAdd (checkSum 0 (b.take (b.length - 2))) (u16 b (b.length - 2)) = 0xFFFF ∧
        ∀ h ∈ parseBody b, h.hop.toNat = 0 ∨ 63 < h.hop.toNat ∨ h.length.toNat ≠ h.payload.length ∨ 240 < h.length.toNat) ∧
      ∀ b ∈ [frameBody 0x32 (to7 []), frameBody 0x30 { to7 (List.replicate 240 5) with scope := [⟨.zone, 1⟩, ⟨.group, 2⟩] }],
        9 ≤ b.length ∧ b.length ≤ 256 ∧
          onesAdd (checkSum 0 (b.take (b.length - 2))) (u16 b (b.length - 2)) = 0xFFFF ∧
          ∃ h ∈ parseBody b, 1 ≤ h.hop.toNat ∧ h.hop.toNat ≤ 63 ∧ h.length.toNat = h.payload.length ∧
            h.length.toNat ≤ 240 := by decide +kernel

/-- A frame with two scope pairs that the unit is in, and one whose single pair and one payload byte leave no second pair. -/
def marked (n : Nat) : FeedFrame := { to7 (List.replicate n 0) with scope := [⟨.zone, 0⟩, ⟨.group, 0⟩].take (2 - n % 2) }

theorem test_meets_FrameBodyReadsBack :
    (∀ f ∈ [to7 [], { to7 (List.replicate 240 0xA5) with hop := 1, scope := [⟨.zone, 0xF5⟩, ⟨.group, 0xF6⟩] }],
      f.wf = true ∧ (0x10 : Byte) ≠ 0xF5 ∧ (0x10 : Byte) ≠ 0xF6) ∧
    ((marked 0).wf = true ∧ (marked 0).scope.length = 2) ∧
    ((marked 1).wf = true ∧ (marked 1).scope.length = 1 ∧ (marked 1).payload.length < 2) ∧
    (parseBody (frameBody 0xF5 (marked 0))).map Header.kind = some 0xF5 := by decide +kernel
theorem test_meets_FrameCommandIsItsLine :
    (Instr.stops (to7 [])).frame = some (.stops, to7 []) ∧ (run .idleMarker unit).LevelsHeld := by decide +kernel
theorem test_meets_DataFrameIsHandedOver :
    (Instr.timeSet (to7 [1, 2, 3])).frame = some (.timeSet, to7 [1, 2, 3]) ∧ Kind.timeSet.isData = true ∧
      unit.TakesData (to7 [1, 2, 3]) ∧ unit.TakesData (toAll [1, 2, 3]) := by decide +kernel
theorem test_meets_RequestIsHandedOver :
    (Instr.freeze (to7 [])).frame = some (.freeze, to7 []) ∧ Kind.freeze.isData = false ∧ unit.TakesRequest (to7 []) ∧
      (Instr.addressAssign (toAll [9])).frame = some (.addressAssign, toAll [9]) ∧ unit.Takes (toAll [9]) ∧
      unit.feed.slot = none ∧ (toAll [9]).dest = 255 ∧ unit.feed.address ≤ 120 ∧
      ({ unit with feed := { unit.feed with address := 0 } }).Takes { to7 [9] with dest := 0 } := by decide +kernel

/-- The unit without a drop address. -/
def unaddressed : State := { unit with feed := { unit.feed with address := 0 } }

/-- A full Forward Queue. -/
def crowded : State := { unit with feed := { unit.feed with queue := List.replicate 4 [1] } }

theorem test_meets_FrameForOthersIsForwarded :
    (Instr.namesClear elsewhere).frame = some (.namesClear, elsewhere) ∧ unit.Listens ∧ crowded.Listens ∧
      elsewhere.wf = true ∧ ({ elsewhere with hop := 1 }).wf = true ∧
      (¬ unit.IsOwn elsewhere ∧ elsewhere.dest ≠ 255 ∧
        ¬ (Kind.namesClear = .addressAssign ∧ elsewhere.dest = 0 ∧ unit.feed.address = 0)) ∧
      (let f : FeedFrame := { to7 [] with dest := 0 };
        unaddressed.Listens ∧ f.wf = true ∧ ¬ unaddressed.IsOwn f ∧ f.dest ≠ 255 ∧
          ¬ (Kind.freeze = .addressAssign ∧ f.dest = 0 ∧ unaddressed.feed.address = 0)) ∧
      ({ to7 [] with scope := [⟨.zone, 9⟩] } : FeedFrame).scope.all unit.feed.matchesPair = false ∧
      (to7 [] 2).flags.getLsbD 1 = true ∧ unit.feed.queue.length < 4 ∧ 4 ≤ crowded.feed.queue.length := by decide +kernel
theorem test_meets_RequestsAreTurnedAway :
    (let s := { unit with feed := { unit.feed with slot := some [1] } };
      s.Takes (to7 []) ∧ s.IsOwn (to7 []) ∧ s.feed.slot = some [1]) ∧
    (Kind.freeze.isData = false ∧ Kind.freeze ≠ .addressAssign ∧ unit.Takes (toAll []) ∧ (toAll []).dest = 255) ∧
    ((inBody (frameBody 0x13 (to7 []))).feed.buffer = frameBody 0x13 (to7 []) ∧ (to7 []).wf = true ∧
      Kind.ofCode 0x13 = none ∧ (to7 []).flags.getLsbD 1 = false ∧ (inBody (frameBody 0x13 (to7 []))).IsOwn (to7 [])) ∧
    (∀ n ∈ [0, 1], ∀ k ∈ [(0xF5 : Byte), 0xF6], (marked n).wf = true ∧
      ((marked n).scope.length = 2 ∨ (marked n).scope.length = 1 ∧ (marked n).payload.length < 2) ∧ Kind.ofCode k = none ∧
      (marked n).flags.getLsbD 1 = false ∧ (marked n).scope.all unit.feed.matchesPair = true) := by decide +kernel
theorem test_unknown_kind :
    ∀ b ∈ [frameBody 0x13 (to7 []), frameBody 0xF5 (marked 0), frameBody 0xF6 (marked 1)],
      outcome (run .frameArrival (inBody b)) = some 7 := by decide +kernel

/-- The unit in an Idle gap, with a slot, a queue and a reply-wait count. -/
def gap (slot : Option (List Byte)) (queue : List (List Byte)) (wait : Nat) : State :=
  { unit with feed := { unit.feed with tx := .gap, slot := slot, queue := queue, replyWait := wait } }

theorem test_meets_OutPortSendsInTurn :
    (∀ s ∈ [gap none [] 0, gap none [[1]] 0, gap (some [2]) [] 0, gap (some [2]) [[1], [3]] 4, gap (some [2]) [[1]] 3],
      s.inReset = false ∧ s.feed.tx = .gap) ∧
    (run (.namesClear elsewhere) unit).feed.tx = .forward (frameBody 0x32 { elsewhere with hop := 62 }) true ∧
    (let s := run (.namesClear (to7 [])) unit;
      s.inReset = false ∧ s.feed.tx = .reply (unit.outcomeFor (to7 []) .namesClear .done) ∧
        s.mgmt.restartWaiting = false) := by decide +kernel

/-! ### Departures (02) -/

/-- A Departure Put's payload. -/
def putOf (id rev sched : Nat) (status : Status := .scheduled) (platform cars : Nat := 1) : List Byte :=
  b16 id ++ [b8 rev] ++ b16 sched ++ optBytes (some 700) ++ [b8 status.code, b8 platform, 0] ++ b16 100 ++ b16 0 ++ [b8 cars]

/-- The values of such a Put. -/
def putData (id rev sched : Nat) (status : Status := .scheduled) (platform cars : Nat := 1) : PutData :=
  ⟨id, rev, sched, if status = .scheduled then none else some 700, status, ⟨platform, .none⟩, 100, 0, min cars 24,
    decide (24 < cars)⟩

/-- A table of 32 services, one minute apart, with one of another shape at a place. -/
def full (e : Entry) : State :=
  withTable ((List.range 10).map (fun k => svc (k + 1) (300 + k)) ++ e ::
    (List.range 21).map (fun k => svc (k + 50) (400 + k)))

/-- A DEPARTED service with 41 s left. -/
def leaving : Entry := { svc 45 350 with status := .departed, departedLinger := some 41 }

/-- Order times with Day Start 120 (2.2). -/
theorem test_order_time : orderTime 120 125 = 5 ∧ orderTime 120 1430 = 1310 ∧ orderTime 120 15 = 1335 := by decide +kernel
/-- The comparisons of R25. -/
theorem test_newer :
    [(17, 16), (5, 250), (143, 16), (144, 16), (16, 17), (40, 40)].map (fun p => newer p.1 p.2) =
      [true, true, true, false, false, false] := by decide +kernel
/-- The signed differences of 2.12. -/
theorem test_signed_diff :
    [5, 97, 98, 718, 717].map (signedDiff 1438) = [7, 99, 100, -720, 719] ∧ [1420, 1380].map (signedDiff 10) = [-30, -70] := by
  decide +kernel
theorem test_departure_put :
    let t := run (.departurePut (to7 (putOf 500 1 605))) boarded
    t.board.table.map Entry.id = [700, 500, 701] ∧ outcome t = some 0 := by decide +kernel
theorem test_departure_put_full :
    outcome (run (.departurePut (to7 (putOf 500 1 605))) (full (svc 45 350))) = some 4 ∧
      (run (.departurePut (to7 (putOf 500 1 605))) (full leaving)).board.memory = [⟨45, 10⟩] := by decide +kernel
theorem test_departure_amend :
    let t := run (.departureAmend (to7 (b16 700 ++ [11, 0x12] ++ [2] ++ [30]))) boarded
    t.board.table.map (fun e => (e.rev, e.status, e.cars)) = [(11, .delayed, 24), (10, .scheduled, 8)] ∧
      outcome t = some 1 := by decide +kernel
theorem test_departure_remove :
    let t := run (.departureRemove (to7 (b16 701 ++ [11]))) boarded
    t.board.table = [listed] ∧ t.board.memory = [⟨900, 3⟩, ⟨701, 11⟩] ∧
      t.board.free = (List.range 160).drop 2 ++ [1] := by decide +kernel
theorem test_linger_expiry :
    (run .lingerExpiry (withTable [{ leaving with departedLinger := some 1 }])).board.memory = [⟨45, 10⟩] := by decide +kernel

theorem test_meets_DeparturePayloadsReadBack :
    (∀ id ∈ [1, 65535], ∀ sched ∈ [0, 1439], ∀ expected ∈ [none, some 0, some 1439], ∀ p ∈ [1, 99],
      1 ≤ id ∧ id ≤ 65535 ∧ sched ≤ 1439 ∧ (∀ x ∈ expected, x ≤ 1439) ∧ 1 ≤ p ∧ p ≤ 99) ∧
    (Status.expected = .expected → some 5 ≠ (none : Option Nat)) ∧
    (∀ e ∈ some (some 1439), ∀ x ∈ e, x ≤ 1439) ∧ (∀ p ∈ some (Platform.mk 99 .d), 1 ≤ p.number ∧ p.number ≤ 99) ∧
    (∀ v ∈ some 4079, v ≤ 4079) ∧ (List.replicate 12 (stop 4079)).length ≤ 12 ∧
    ∀ x ∈ List.replicate 12 (stop 4079), 1 ≤ x.station ∧ x.station ≤ 4079 ∧ ∀ m ∈ x.time, m ≤ 1439 := by decide +kernel
theorem test_meets_DeparturePutInsertsNewcomer :
    ∀ x ∈ [(boarded, 900), (withTable ((List.range 31).map (fun k => svc (k + 1) (300 + k))), 65535)],
      x.1.TakesData (to7 (putOf x.2 4 605)) ∧ PutData.ofPayload (to7 (putOf x.2 4 605)).payload = some (putData x.2 4 605) ∧
      findEntry x.1.board.table x.2 = none ∧ (∀ r ∈ x.1.board.memory, r.id = x.2 → newer 4 r.rev = true) ∧
      x.1.board.table.length < 32 ∧ ¬ ((putData x.2 4 605).status = .departed ∧ x.1.mgmt.settings.departedLinger = 0) ∧
      ¬ ((putData x.2 4 605).platform ≠ x.1.mgmt.settings.ownPlatform ∧ x.1.mgmt.settings.movedLinger = 0) := by
  decide +kernel
theorem test_meets_DeparturePutReplacesEntry :
    (boarded.TakesData (to7 (putOf 700 11 605 .departed 2)) ∧
      PutData.ofPayload (to7 (putOf 700 11 605 .departed 2)).payload = some (putData 700 11 605 .departed 2) ∧
      findEntry boarded.board.table 700 = some listed ∧ newer 11 listed.rev = true ∧
      settleMoved boarded.mgmt.settings (some listed.platform) listed.movedLinger ⟨2, .none⟩ = (true, some 180) ∧
      some 180 ≠ some 0 ∧ some boarded.mgmt.settings.departedLinger ≠ some 0) ∧
    (let own := boarded.mgmt.settings.ownPlatform;
      own = ⟨1, .none⟩ ∧ (⟨2, .none⟩ : Platform) ≠ own ∧ (⟨3, .none⟩ : Platform) ≠ own ∧
        (⟨3, .none⟩ : Platform) ≠ ⟨2, .none⟩) := by decide +kernel
theorem test_meets_FullTableMakesRoomOrRefuses :
    (∀ e ∈ [leaving, svc 45 350], (full e).TakesData (to7 (putOf 500 1 605)) ∧
      PutData.ofPayload (to7 (putOf 500 1 605)).payload = some (putData 500 1 605) ∧
      findEntry (full e).board.table 500 = none ∧ recordOf (full e).board.memory 500 = none ∧
      (full e).board.table.length = 32 ∧
      (Entry.created (full e).mgmt.settings (putData 500 1 605)).lingerEnded = false) ∧
    ((full leaving).board.table = (List.range 10).map (fun k => svc (k + 1) (300 + k)) ++ leaving ::
        (List.range 21).map (fun k => svc (k + 50) (400 + k)) ∧ leaving.status = .departed ∧
      (∀ x ∈ (List.range 10).map (fun k => svc (k + 1) (300 + k)) ++ (List.range 21).map (fun k => svc (k + 50) (400 + k)),
        ¬ (x.status = .departed ∨ x.moved = true))) ∧
    ((∀ x ∈ (full (svc 45 350)).board.table, x.status ≠ .departed ∧ x.moved = false) ∧
      (full (svc 45 350)).board.table.getLast? = some (svc 70 420) ∧
      keyLt ((Entry.created unit.mgmt.settings (putData 500 1 410)).key 120) ((svc 70 420).key 120) = true ∧
      keyLt ((Entry.created unit.mgmt.settings (putData 500 1 605)).key 120) ((svc 70 420).key 120) = false) := by
  decide +kernel
theorem test_meets_StaleDepartureFrameIsRefused :
    boarded.TakesData (to7 []) ∧
    ∀ rev ∈ [10, 138, 9],
      (PutData.ofPayload (putOf 700 rev 605) = some (putData 700 rev 605) ∧
        findEntry boarded.board.table 700 = some listed ∧ newer rev listed.rev = false) ∧
      (PutData.ofPayload (putOf 900 3 605) = some (putData 900 3 605) ∧ findEntry boarded.board.table 900 = none ∧
        recordOf boarded.board.memory 900 = some ⟨900, 3⟩ ∧ newer 3 3 = false) ∧
      (AmendData.ofPayload (b16 700 ++ [b8 rev, 0]) = some ⟨700, rev, none, none, none, none, none, false⟩) ∧
      boarded.TakesData (to7 (b16 700 ++ [b8 rev])) := by decide +kernel
theorem test_meets_DepartureAmendChangesNamedItems :
    let a : AmendData := ⟨700, 11, none, some .departed, some ⟨2, .none⟩, some 0, some 24, true⟩
    boarded.TakesData (to7 (b16 700 ++ [11, 0x1E, 4, 2, 0, 0, 0, 25])) ∧
      AmendData.ofPayload (b16 700 ++ [11, 0x1E, 4, 2, 0, 0, 0, 25]) = some a ∧
      findEntry boarded.board.table a.id = some listed ∧ newer a.rev listed.rev = true ∧
      (∀ x ∈ a.status, listed.status ≠ .departed ∧ ¬ (listed.status = .cancelled ∧ x = .departed)) ∧
      settleMoved boarded.mgmt.settings (some listed.platform) listed.movedLinger ⟨2, .none⟩ = (true, some 180) ∧
      Status.departed ≠ .expected ∧ some boarded.mgmt.settings.departedLinger ≠ some 0 ∧ some 180 ≠ some 0 := by
  decide +kernel
theorem test_meets_DepartureRemoveTakesEntryOut :
    (to7 [0, 0, 1]).payload.length = 3 ∧ u16 (to7 [0, 0, 1]).payload 0 = 0 ∧ (to7 [1, 2]).payload.length ≠ 3 ∧
    boarded.TakesData (to7 (b16 900 ++ [9])) ∧ (∀ e ∈ boarded.board.table, e.id ≠ 900) ∧
    findEntry boarded.board.table 700 = some listed ∧ newer 10 listed.rev = false ∧ newer 11 listed.rev = true ∧
    boarded.board.memory.length ≤ 16 ∧
    (List.replicate 16 (Removal.mk 1 1)).length ≤ 16 := by decide +kernel

/-! ### Calling points (03) -/

/-- A Stops part. -/
def part (id rev n : Nat) (final : Bool) (stops : List Stop) : List Byte :=
  b16 id ++ [b8 rev, b8 n, flagByte [final], b8 stops.length] ++ stops.flatMap Stop.bytes

theorem test_stops :
    let t := run (.stops (to7 (part 701 5 1 true [stop 8, stop 9]))) boarded
    t.board.table.map Entry.list = [listed.list, some ⟨5, [⟨1, [stop 4, stop 8, stop 9]⟩]⟩] ∧ outcome t = some 0 := by
  decide +kernel
theorem test_stops_orphan : outcome (run (.stops (to7 (part 700 5 1 true [stop 8]))) boarded) = some 3 := by decide +kernel
theorem test_stop_amend :
    (run (.stopAmend (to7 (b16 700 ++ [1, 2, 0, 30]))) boarded).board.table.map Entry.list =
      [some ⟨4, [⟨0, [stop 1, ⟨2, .cancelled, some 30⟩, stop 3]⟩]⟩, none] := by decide +kernel
theorem test_build_timeout :
    let t := run .buildTimeout (withTable [{ building with build := some ⟨5, 1, [⟨1, [stop 4]⟩], false, 1⟩ }])
    t.board.table.map (fun e => (e.build, e.stale)) = [(none, true)] ∧ t.counter .buildsAbandoned = 1 := by decide +kernel
/-- A list is cut at 48 stops (R56). -/
theorem test_list_cut :
    let w := (Appending.mk (List.range 160) [] false false).addAll (List.replicate 49 (stop 1))
    chainLength w.chain = 48 ∧ w.cut = true ∧ chainIds w.chain = [0, 1, 2, 3, 4, 5] := by decide +kernel

theorem test_meets_AppendingFillsBlocks :
    ∀ n ∈ [0, 1, 48], chainLength [⟨1, List.replicate n (stop 4)⟩] ≤ 48 ∧
      ((Appending.mk (List.range 160) [⟨1, List.replicate n (stop 4)⟩] false false).addAll
        (List.replicate 12 (stop 1))).exhausted = false := by decide +kernel
theorem test_meets_StopsPartIsAppended :
    ∀ final ∈ [true, false],
      (boarded.TakesData (to7 (part 700 5 0 final [stop 8])) ∧
        StopsData.ofPayload (part 700 5 0 final [stop 8]) = some ⟨700, 5, 0, final, [stop 8]⟩ ∧
        findEntry boarded.board.table 700 = some listed ∧ (∀ b ∈ listed.build, b.rev ≠ 5) ∧
        (∀ l ∈ listed.list, newer 5 l.rev = true) ∧
        ((Appending.mk (boarded.board.free ++ listed.buildBlocks) [] false false).addAll [stop 8]).exhausted = false) ∧
      (boarded.TakesData (to7 (part 701 5 1 final [stop 8])) ∧
        StopsData.ofPayload (part 701 5 1 final [stop 8]) = some ⟨701, 5, 1, final, [stop 8]⟩ ∧
        findEntry boarded.board.table 701 = some building ∧ building.build = some ⟨5, 1, [⟨1, [stop 4]⟩], false, 5⟩ ∧
        ((Appending.mk boarded.board.free [⟨1, [stop 4]⟩] false false).addAll [stop 8]).exhausted = false) := by
  decide +kernel
theorem test_meets_PartsOutOfTurn :
    (∀ x ∈ [(900, 5, 0), (701, 6, 1), (701, 5, 0), (700, 4, 0), (701, 5, 2), (701, 5, 1)],
      boarded.TakesData (to7 (part x.1 x.2.1 x.2.2 true [])) ∧
        StopsData.ofPayload (part x.1 x.2.1 x.2.2 true []) = some ⟨x.1, x.2.1, x.2.2, true, []⟩) ∧
    findEntry boarded.board.table 900 = none ∧ findEntry boarded.board.table 701 = some building ∧
    (∀ b ∈ building.build, b.rev ≠ 6) ∧ building.build = some ⟨5, 1, [⟨1, [stop 4]⟩], false, 5⟩ ∧ 0 < 1 ∧ 1 < 2 ∧
    findEntry boarded.board.table 700 = some listed ∧ (∀ b ∈ listed.build, b.rev ≠ 4) ∧
    listed.list = some ⟨4, [⟨0, [stop 1, stop 2, stop 3]⟩]⟩ ∧ newer 4 4 = false ∧
    ((Appending.mk [] [⟨1, List.replicate 8 (stop 4)⟩] false false).addAll [stop 5]).exhausted = true := by decide +kernel
/-- A part 0 that exhausts the pool, without an open build and in place of one. -/
theorem test_meets_PartsThatExhaust :
    let s := { boarded with board := { boarded.board with free := [] } }
    (s.TakesData (to7 (part 700 5 0 true [stop 8])) ∧ findEntry s.board.table 700 = some listed ∧ listed.build = none ∧
      (∀ l ∈ listed.list, newer 5 l.rev = true) ∧
      ((Appending.mk (s.board.free ++ listed.buildBlocks) [] false false).addAll [stop 8]).exhausted = true) ∧
    (s.TakesData (to7 (part 701 6 0 true (List.replicate 9 (stop 8)))) ∧ findEntry s.board.table 701 = some building ∧
      (∀ b ∈ building.build, b.rev ≠ 6) ∧ building.list = none ∧
      ((Appending.mk (s.board.free ++ building.buildBlocks) [] false false).addAll (List.replicate 9 (stop 8))).exhausted =
        true) := by decide +kernel
theorem test_stops_exhausted :
    let t := run (.stops (to7 (part 701 6 0 true (List.replicate 9 (stop 8))))) { boarded with
      board := { boarded.board with free := [] } }
    t.board.free = [1] ∧ t.counter .buildsSuperseded = 1 ∧ t.counter .buildsAbandoned = 1 ∧ outcome t = some 5 := by
  decide +kernel
theorem test_meets_StopAmendChangesOneStop :
    (∀ p ∈ [[1], b16 0 ++ [0, 0, 0, 0], b16 1 ++ [48, 0, 0, 0], b16 1 ++ [0, 4, 0, 0], b16 1 ++ [0, 0] ++ b16 1440],
      p.length ≠ 6 ∨ u16 p 0 = 0 ∨ 47 < u8 p 2 ∨ 3 < u8 p 3 ∨ (u16 p 4 ≠ 0xFFFF ∧ 1439 < u16 p 4)) ∧
    boarded.TakesData (to7 (b16 700 ++ [2, b8 StopKind.split.code] ++ optBytes (some 1439))) ∧ (1439 : Nat) ≤ 1439 ∧
    findEntry boarded.board.table 900 = none ∧ findEntry boarded.board.table 701 = some building ∧ building.list = none ∧
    findEntry boarded.board.table 700 = some listed ∧ listed.list = some ⟨4, [⟨0, [stop 1, stop 2, stop 3]⟩]⟩ ∧
    chainLength [⟨0, [stop 1, stop 2, stop 3]⟩] ≤ 3 ∧ 2 < chainLength [⟨0, [stop 1, stop 2, stop 3]⟩] ∧
    (boarded.board.table.map Entry.id).Nodup := by decide +kernel
theorem test_meets_CountsOfASecondEvent :
    boarded.inReset = false ∧ (boarded.board.table.map Entry.id).Nodup ∧ boarded.CountersBounded := by decide +kernel

/-! ### Time (04) -/

/-- A pulse unit whose clock is SYNCED, or LOST with instants counted. -/
def pulsed (lost : Bool) (counted : Nat) : State :=
  { unit with straps := { unit.straps with csrc := .pulse }, clock := ⟨8, 59, 58, true, lost, 1000000, counted⟩ }

theorem test_time_set :
    let t := run (.timeSet (to7 [11, 0, 0])) (withTable [svc 45 600])
    (t.clock.hours, t.clock.minutes, t.clock.valid) = (11, 0, true) ∧ t.board.table = [] ∧
      t.counter .entriesExpired = 1 := by decide +kernel
theorem test_internal_tick : (run .internalTick unit).clock.seconds = 1 := by decide +kernel
theorem test_clock_watch_expiry :
    let t := run .clockWatchExpiry (pulsed false 0)
    (t.clock.hours, t.clock.minutes, t.clock.seconds, t.clock.lost, t.clock.counted) = (9, 0, 0, true, 2) ∧
      t.mgmt.pendingEvents = 0x84 := by decide +kernel
theorem test_scheduled_instant_tick :
    (run .scheduledInstantTick (pulsed true 2)).clock.counted = 3 := by decide +kernel
/-- An edge near an instant that is counted already does not advance the clock (R72). -/
theorem test_secp_rising_edge :
    (run (.secpRisingEdge 3100000) (pulsed true 2)).clock = ⟨8, 59, 58, true, false, 3100000, 0⟩ ∧
      (run (.secpRisingEdge 3600000) (pulsed true 2)).clock.seconds = 59 := by decide +kernel

theorem test_meets_TimeSetReplacesClock :
    (∀ p ∈ [[1], [24, 0, 0], [0, 60, 0], [0, 0, 60]],
      unit.TakesData (to7 p) ∧ (p.length ≠ 3 ∨ 23 < u8 p 0 ∨ 59 < u8 p 1 ∨ 59 < u8 p 2)) ∧
    (pulsed false 0).TakesData (to7 [b8 8, b8 59, b8 0]) ∧ (pulsed false 0).clock.valid = true ∧
    (pulsed false 0).clock.hours = 8 ∧ (pulsed false 0).clock.minutes = 59 ∧
    unit.TakesData (to7 [b8 23, b8 59, b8 59]) ∧ unit.clock.valid = false := by decide +kernel
theorem test_meets_ClockFollowsItsSource :
    (∀ c ∈ [Clock.mk 23 59 59 true false 0 0, ⟨0, 0, 0, false, false, 0, 0⟩],
      c.hours ≤ 23 ∧ c.minutes ≤ 59 ∧ c.seconds ≤ 59) ∧
    (unit.inReset = false ∧ unit.straps.csrc = .internal) ∧
    ((pulsed true 2).inReset = false ∧ (pulsed true 2).straps.csrc = .pulse ∧ (pulsed true 2).clock.lost = true ∧
      (pulsed true 2).clock.counted < (3600000 - (pulsed true 2).clock.lastEdge + 500000) / 1000000 ∧
      (3499999 - (pulsed true 2).clock.lastEdge + 500000) / 1000000 ≤ (pulsed true 2).clock.counted) ∧
    (pulsed false 0).clock.lost = false ∧
    ((unit.setClock unit.clock.advance).secondRace none = false ∧ ¬ (59 ≤ unit.clock.seconds ∧ unit.clock.valid = true)) ∧
    (let s := { pulsed false 0 with
      mgmt := (run (.freeze (to7 [])) unit).mgmt
      clock := { (pulsed false 0).clock with seconds := 59 } };
      (59 ≤ s.clock.seconds ∧ s.clock.valid = true) ∧
      ({ s with mgmt := { s.mgmt with freezeRemaining := 1 } }.setClock s.clock.advance).secondRace (some 540) = true) := by
  decide +kernel

/-! ### Names (05) -/

/-- Glyph items of a text. -/
def word (t : String) : List Item := t.toList.map (fun c => .glyph c.toNat)

/-- The codes of a text. -/
def codes (t : String) : List Nat := t.toList.map Char.toNat

/-- The tables of the two worked sequences of 05. -/
def namesOf5 : List NameEntry :=
  [⟨1207, .ref 3902 .full :: word " Parkway", some (.ref 3902 .short :: word " Pkwy"), (72, 80, 75)⟩,
   ⟨2001, word "Loop " ++ [.ref 2002 .full], none, (76, 80, 65)⟩,
   ⟨2002, word "Line " ++ [.ref 2001 .full], none, (76, 78, 66)⟩,
   ⟨3902, word "Harrowfield", some (word "Harrowfld"), (72, 82, 87)⟩]

theorem test_expand_name :
    (expandName namesOf5 false .full 96 1207).glyphs = codes "Harrowfield Parkway" ∧
      (expandName namesOf5 false .short 96 1207).glyphs = codes "Harrowfld Pkwy" ∧
      (expandName (namesOf5.take 3) false .short 96 1207).glyphs = 0xE0 :: codes " Pkwy" := by decide +kernel
theorem test_expand_cycle :
    ((expandName namesOf5 false .full 96 2001).glyphs = codes "Loop Line Loop Line Loop LNB" ∧
      (expandName namesOf5 false .full 96 2001).deep = true) ∧
    ((expandName namesOf5 true .full 96 2001).glyphs = codes "LPA" ∧
      (expandName namesOf5 true .full 96 2001).replaced = true) ∧
    (expandName namesOf5 true .full 20 2001).glyphs = codes "Loop Line Loop Line " ∧
      (expandName namesOf5 true .full 20 2001).cut = true := by decide +kernel

/-- The unit with those names. -/
def named : State := { unit with names := { unit.names with table := namesOf5 } }

/-- A Name Put's payload. -/
def nameOf (e : NameEntry) : List Byte :=
  b16 e.code ++ [b8 e.full.length, b8 ((e.short.getD []).length)] ++ b16 e.fallback.1 ++ b16 e.fallback.2.1 ++
    b16 e.fallback.2.2 ++ itemBytes e.full ++ itemBytes (e.short.getD [])

/-- A new name. -/
def newName : NameEntry := ⟨1300, word "Ash", some (word "A"), (65, 66, 67)⟩

theorem test_name_put :
    (run (.namePut (to7 (nameOf newName))) named).names.table.map NameEntry.code = [1207, 1300, 2001, 2002, 3902] := by
  decide +kernel
theorem test_name_drop : (run (.nameDrop (to7 (b16 2001))) named).names.table.length = 3 := by decide +kernel
theorem test_names_clear :
    (run (.namesClear (to7 [])) named).names.table = [] ∧ outcome (run (.namesClear (to7 [1])) named) = some 6 := by
  decide +kernel

theorem test_meets_NameFramesKeepTheTable :
    (named.TakesData (to7 (nameOf newName)) ∧ nameOfPayload (nameOf newName) = some newName ∧
      findName named.names.table newName.code = none ∧ named.names.table.length < 1024 ∧
      1024 ≤ (List.replicate 1024 { newName with code := 7 }).length ∧
      findName (List.replicate 1024 { newName with code := 7 }) newName.code = none) ∧
    (∀ p ∈ [[1], b16 0, b16 4096], p.length ≠ 2 ∨ u16 p 0 = 0 ∨ 4095 < u16 p 0) ∧
    (named.TakesData (to7 (b16 2001)) ∧ (∃ e ∈ named.names.table, e.code = 2001)) ∧
    (named.TakesData (to7 (b16 4095)) ∧ ∀ e ∈ named.names.table, e.code ≠ 4095) ∧
    named.TakesData (to7 [1]) ∧ named.TakesData (to7 []) := by decide +kernel
/-- Name Puts at the bounds of R85 read back, and the ones beyond them are malformed. -/
theorem test_meets_NamePayloads :
    (∀ e ∈ [newName, ⟨4095, List.replicate 40 (.ref 4095 .short), none, (255, 0, 255)⟩,
        { newName with full := [.glyph 255], short := some (List.replicate 20 (.ref 1 .full)) }],
        nameOfPayload (nameOf e) = some e) ∧
    ∀ e ∈ [{ newName with code := 0 }, { newName with code := 4096 }, { newName with full := [] },
        { newName with full := List.replicate 41 (.glyph 65) }, { newName with short := some (List.replicate 21 (.glyph 65)) },
        { newName with fallback := (256, 0, 0) }, { newName with full := [.ref 0 .full] }],
        named.TakesData (to7 (nameOf e)) ∧ nameOfPayload (nameOf e) = none := by decide +kernel
theorem test_meets_ExpansionFitsItsRoom :
    (∀ code ∈ [1, 4079, 4080, 4095], findName namesOf5 code = none ∧ 4 ≤ 4) ∧
    (∀ e ∈ [NameEntry.mk 1 ([72, 73].map .glyph) none (0, 0, 0), ⟨1, [.glyph 72], some ([73].map .glyph), (0, 0, 0)⟩],
      findName [e] 1 = some e ∧ (e.short = none ∨ e.short = some ([73].map .glyph))) ∧
    (findName namesOf5 2002 = some ⟨2002, word "Line " ++ [.ref 2001 .full], none, (76, 78, 66)⟩ ∧
      word "Line " ++ [.ref 2001 .full] = (codes "Line ").map .glyph ++ .ref 2001 .full :: ([] : List Nat).map .glyph ∧
      findName (namesOf5.drop 2) 2001 = none ∧ (codes "Line ").length + 1 + 0 ≤ 6) ∧
    ((findName namesOf5 1207).map NameEntry.full = some (.ref 3902 .full :: word " Parkway") ∧
      .ref 3902 .full :: word " Parkway" = ([] : List Nat).map .glyph ++ .ref 3902 .full :: (codes " Parkway").map .glyph ∧
      (findName namesOf5 3902).map NameEntry.full = some ((codes "Harrowfield").map .glyph) ∧
      0 + (codes "Harrowfield").length + (codes " Parkway").length ≤ 19) ∧
    (let e : NameEntry := ⟨9, [.ref 9 .full], none, (65, 66, 67)⟩;
      findName [e] 9 = some e ∧ ([] : List Nat).length + 3 ≤ 3) := by decide +kernel

/-! ### Fonts (06) -/

/-- Font 1 of height 5 with an A three columns wide. -/
def fonted : State :=
  { unit with fonts := { unit.fonts with font1 := ⟨true, 5, 2, 1, [(0x41, ⟨3, List.replicate 5 [true, false, true]⟩)]⟩ } }

theorem test_font_define :
    let t := run (.fontDefine (to7 [1, 20, 5, 9])) fonted
    t.fonts.font1 = ⟨true, 16, 3, 3, []⟩ ∧ outcome t = some 1 := by decide +kernel
theorem test_glyph_put :
    let t := run (.glyphPut (to7 ([1, 0x42, 9] ++ List.replicate 10 0xC0))) fonted
    t.fonts.cell 1 0x42 = some ⟨9, List.replicate 5 [true, true, false, false, false, false, false, false, true]⟩ ∧
      outcome (run (.glyphPut (to7 [1, 0x42, 9, 0])) fonted) = some 6 := by decide +kernel

theorem test_meets_FontFramesLoadCells :
    (∀ h ∈ [0, 4, 5, 16, 17, 255], (h : Nat) ≤ 255 ∧ fonted.TakesData (to7 [b8 3, b8 h, b8 3, b8 255]) ∧
      fonted.TakesData (to7 [4, b8 h, b8 0, b8 0])) ∧
    (fonted.TakesData (to7 (b8 2 :: b8 0x41 :: b8 3 :: List.replicate 5 0xA0)) ∧ (fonted.fonts.get 2).defined = false) ∧
    (fonted.TakesData (to7 (b8 1 :: b8 0xDF :: b8 9 :: List.replicate 10 0xA0)) ∧ (fonted.fonts.get 1).defined = true ∧
      clamp 1 16 9 = 9 ∧ (List.replicate 10 (0xA0 : Byte)).length = (fonted.fonts.get 1).height * ((9 + 7) / 8) ∧
      (List.replicate 5 (0xA0 : Byte)).length ≠ (fonted.fonts.get 1).height * ((9 + 7) / 8)) := by decide +kernel

/-- The same fonts with an ellipsis three columns wide. -/
def ellipsed : State :=
  run (.glyphPut (to7 ([4, 0xE1, 3] ++ List.replicate 5 0xA0) 0)) (run (.fontDefine (to7 [4, 5, 0, 0] 0)) fonted)

/-! ### Layouts, pages and notices (07) -/

/-- A Head Define's payload, AUTO brightness. -/
def headOf (i : HeadIx) (w h : Nat) : List Byte := [b8 i.val] ++ b16 w ++ [b8 h, 0, 0, 1, 3]

/-- A Field Put's payload on head 0: kind, slot and rectangle, font 1, left, TRUNCATE, with a text. -/
def fieldOf (idx : Nat) (kind : FieldKind) (slot x w : Nat) (fit : FitPolicy := .truncate) (text : List Item := []) : List Byte :=
  [0, b8 idx, b8 kind.code, b8 slot, b8 x, 0] ++ b16 w ++ [1, 0, b8 fit.code, 16, 4, 0, 0, b8 text.length] ++ itemBytes text

/-- Head 0 of 32 by 8 with a static A, a destination in slot 2 and a calling list in slot 3. -/
def headed : State :=
  run (.fieldPut (to7 (fieldOf 5 .calling 3 0 32) 0)) (run (.fieldPut (to7 (fieldOf 3 .destination 2 8 24) 0))
    (run (.fieldPut (to7 (fieldOf 2 .static 0 2 6 .truncate (word "A")) 0)) (run (.headDefine (to7 (headOf 0 32 8) 0)) fonted)))

/-- The record of head 0. -/
def head0 : Head := ((headed.head 0).getD (HeadData.newHead ⟨0, 0, .auto, 0, 0, false⟩ 0))

/-- Head 0 with its page state replaced. -/
def paged (p : PageState) : State := headed.setHead 0 (some { head0 with mode := .pages p })

/-- Head 0 with an overlay of notice slot 4, which is held. -/
def overlaid : State := run (.noticePut (to7 ([4, 1, 1, 0, 9, 1] ++ itemBytes (word "B")) 0)) headed

/-- The pages of eleven services on a head of four slots (7.3). -/
theorem test_page_count : pageCount 4 11 = 4 ∧ pageCount 1 11 = 1 ∧ pageCount 3 0 = 1 := by decide +kernel
theorem test_head_define :
    ([100, 255, 20, 300].map (fun w =>
      ((run (.headDefine (to7 (headOf 0 w 40))) unit).head 0).map (fun h => (h.width, h.height)))) =
      [some (96, 32), some (248, 32), some (32, 32), some (256, 32)] := by decide +kernel
theorem test_head_drop :
    (run (.headDrop (to7 [0])) headed).head 0 = none ∧ outcome (run (.headDrop (to7 [1])) headed) = some 3 := by decide +kernel
theorem test_field_put : head0.fields.map Prod.fst = [2, 3, 5] ∧ head0.topSlot = 3 := by decide +kernel
theorem test_field_drop :
    ((run (.fieldDrop (to7 [0, 3])) headed).head 0).map (fun h => h.fields.map Prod.fst) = some [2, 5] := by decide +kernel
theorem test_notice_put :
    (overlaid.head 0).map Head.overlaySlot = some (some 4) ∧ (overlaid.heads.get 0).overlayNumber = 1 := by decide +kernel
theorem test_notice_append :
    ((run (.noticeAppend (to7 ([4, 2, 1] ++ itemBytes (word "C")))) overlaid).notices.get 4).map Notice.text =
      some (word "BC") := by decide +kernel
theorem test_notice_clear :
    let t := run (.noticeClear (to7 [4])) overlaid
    t.notices.get 4 = none ∧ (t.head 0).map Head.mode = some head0.mode := by decide +kernel
theorem test_advance : outcome (run (.advance (to7 [1])) overlaid) = some 8 ∧ outcome (run (.advance (to7 [1])) headed) = some 0 := by
  decide +kernel
theorem test_blank :
    ((run (.blank (to7 [5])) headed).heads.get 2).blank = true ∧
      ((run (.unblank (to7 [4])) (run (.blank (to7 [5] 0)) headed)).heads.get 2).blank = false := by decide +kernel
theorem test_dwell_expiry :
    ((run .dwellExpiry (paged ⟨0, .dwell, 5, 0, []⟩)).head 0).map Head.mode = some (.pages ⟨0, .dwell, 4, 0, []⟩) := by
  decide +kernel
theorem test_hold_timeout :
    let t := run .holdTimeout (paged ⟨0, .hold, 0, 1, [5]⟩)
    (t.head 0).map Head.mode = some (.pages ⟨0, .dwell, 8, 0, []⟩) ∧ t.counter .holdTimeouts = 1 := by decide +kernel
theorem test_notice_expiry :
    ((run .noticeExpiry overlaid).notices.get 4).map Notice.duration = some (some 8) := by decide +kernel
theorem test_notice_expiry_ends_overlay :
    let s := { overlaid with notices := overlaid.notices.set 4 (some ⟨.overlay, 1, some 1, word "B"⟩) }
    (run .noticeExpiry s).notices.get 4 = none ∧ ((run .noticeExpiry s).head 0).map Head.mode = some head0.mode := by
  decide +kernel

theorem test_meets_HeadDefineAndDrop :
    (∀ w ∈ [31, 32, 64], headed.TakesData (to7 (headOf 0 w 8)) ∧ (HeadData.ofPayload (headOf 0 w 8)).isSome = true) ∧
    unit.head 0 = none ∧ headed.head 0 = some head0 ∧ head0.width = 32 ∧ head0.height = 8 ∧
    ¬ (head0.width = 64 ∧ head0.height = 8) ∧ headed.sendingTo 0 = false ∧
    headed.TakesData (to7 [b8 (0 : HeadIx).val]) ∧ headed.head 0 ≠ none ∧ headed.TakesData (to7 [b8 (7 : HeadIx).val]) ∧
    headed.head 7 = none := by decide +kernel
theorem test_meets_HeadPayloads :
    (let s := run .frameTimerExpiry headed;
      s.sendingTo 0 = true ∧ s.head 0 = some head0 ∧ s.TakesData (to7 [b8 (0 : HeadIx).val])) ∧
    (∀ w ∈ [0, 31, 32, 39, 256, 257, 65535], ∀ h ∈ [7, 8, 32, 33], w ≤ 65535 ∧ h ≤ 255) ∧
    ∀ p ∈ [[], [8, 0, 32, 8, 0, 0, 0, 0], [0, 0, 32, 8, 2, 0, 0, 0], [0, 0, 32, 8, 0, 0, 4, 0]],
      headed.TakesData (to7 p) ∧ (p.length ≠ 8 ∨ 7 < u8 p 0 ∨ 1 < u8 p 4 ∨ 3 < u8 p 6) ∧ (p.length ≠ 1 ∨ 7 < u8 p 0) := by
  decide +kernel
theorem test_meets_FieldPutAndDrop :
    (headed.TakesData (to7 (fieldOf 23 .due 8 0 300)) ∧
      (FieldData.ofPayload (fieldOf 23 .due 8 0 300)).map (fun d => (d.head, d.index, d.clamped)) = some (0, 23, true) ∧
      headed.head 0 = some head0 ∧ unit.head 0 = none) ∧
    (headed.TakesData (to7 [b8 (0 : HeadIx).val, b8 23]) ∧ keyedGet 23 head0.fields = none) ∧
    headed.TakesData (to7 [b8 (0 : HeadIx).val, b8 5]) ∧ (keyedGet 5 head0.fields).isSome = true ∧
    (∀ k ∈ [(FieldKind.calling, 8), (.static, 0)], k.1.isEntry = true ↔ k.2 ≠ 0) ∧
    (∀ x ∈ List.replicate 24 (Item.ref 4095 .short), Item.ofCode x.code = some x) ∧
    (∀ p ∈ [[], [8], (fieldOf 24 .due 1 0 9), (fieldOf 0 .due 0 0 9), (fieldOf 0 .clock 1 0 9), (fieldOf 0 .due 9 0 9),
        (fieldOf 0 .due 1 0 0), (fieldOf 0 .static 0 0 9 .truncate (List.replicate 25 (.glyph 65)))],
      headed.TakesData (to7 p) ∧ FieldData.ofPayload p = none) ∧
    (∃ k, k < u8 (fieldOf 0 .static 0 0 9 .truncate [.glyph 65, .ref 0 .full]) 15 ∧
      Item.ofCode (u16 (fieldOf 0 .static 0 0 9 .truncate [.glyph 65, .ref 0 .full]) (16 + 2 * k)) = none) ∧
    (∀ p ∈ [[0], [8, 0], [0, 24]], p.length ≠ 2 ∨ 7 < u8 p 0 ∨ 23 < u8 p 1) := by decide +kernel
theorem test_meets_NoticeFramesHoldText :
    (∀ n ∈ [1, 117], ∀ d ∈ [0, 3600, 3601, 65535],
      headed.TakesData (to7 ([b8 (7 : HeadIx).val, 0, 255] ++ b16 d ++ [b8 n] ++ itemBytes (List.replicate n (.glyph 65)))) ∧
        (0 : Byte).getLsbD 1 = false ∧ d ≤ 65535) ∧
    (∀ x ∈ [Item.glyph 65, .ref 4095 .short, .ref 1 .full, .glyph 255], Item.ofCode x.code = some x) ∧
    (∀ i, ∀ h ∈ headed.head i, h.overlaySlot ≠ some 7) ∧
    (∀ n ∈ [0, 118, 119],
      overlaid.TakesData (to7 ([b8 (4 : HeadIx).val, 2, b8 n] ++ itemBytes (List.replicate n (.glyph 65)))) ↔ n ≤ 118) ∧
    headed.notices.get 4 = none ∧ overlaid.notices.get 4 = some ⟨.overlay, 1, some 9, word "B"⟩ ∧
    120 < (List.replicate 120 (Item.glyph 65)).length + 1 ∧ (word "B").length + 118 ≤ 120 ∧
    overlaid.TakesData (to7 [b8 (4 : HeadIx).val]) ∧ overlaid.notices.get 4 ≠ none ∧
    (∀ i, ∀ h ∈ ({ headed with notices := overlaid.notices }).head i, h.overlaySlot ≠ some 4) := by decide +kernel

/-- The forms of a put that act on overlays: a start, a switch, a re-put, a mask without the head, INFO; and the Clear of the slot
shown. -/
theorem test_meets_NoticeFramesActOnOverlays :
    headed.head 0 = some head0 ∧ headed.head 1 = none ∧ head0.overlaySlot = none ∧
    (∀ x ∈ [(4, 1, 1), (5, 1, 1), (4, 1, 2), (4, 0, 1)],
      overlaid.TakesData (to7 ([b8 x.1, b8 x.2.1, b8 x.2.2] ++ b16 9 ++ [b8 1] ++ itemBytes (word "C")))) ∧
    (∀ x ∈ [((1 : Byte), true), (2, false)], x.1.getLsbD (0 : HeadIx).val = x.2) ∧
    (overlaid.head 0).map Head.overlaySlot = some (some 4) ∧
    (HeadIx.all.filter (fun i => (1 : Byte).getLsbD 0 && (1 : Byte).getLsbD i.val &&
      (overlaid.head i).any (fun h => h.overlaySlot.any (fun old => old != 5)))).length = 1 ∧
    (HeadIx.all.filter (fun i => (1 : Byte).getLsbD 0 && (1 : Byte).getLsbD i.val &&
      (overlaid.head i).any (fun h => h.overlaySlot.any (fun old => old != 4)))).length = 0 :=
  ⟨by decide +kernel, by decide +kernel, by decide +kernel, by decide +kernel, by decide +kernel, by decide +kernel,
    by decide +kernel, by decide +kernel⟩
theorem test_notice_put_overlays :
    let put := fun (slot : HeadIx) (flags mask : Byte) =>
      run (.noticePut (to7 ([b8 slot.val, flags, mask, 0, 9, 1] ++ itemBytes (word "C")) 0)) overlaid
    ((put 5 1 1).head 0).map Head.overlaySlot = some (some 5) ∧ (put 5 1 1).counter .overlaysReplaced = 1 ∧
      ((put 4 1 1).heads.get 0).overlayNumber = 2 ∧ (put 4 1 1).counter .overlaysReplaced = 0 ∧
      (put 4 1 2).head 0 = some head0 ∧ (put 4 0 1).head 0 = some head0 := by decide +kernel

/-- A head that holds its page for the ticker of field 5. -/
def holding : Head :=
  { head0 with
    mode := .pages ⟨0, .hold, 0, 3, [5]⟩
    tickers := [(5, ⟨none, [65], ⟨false, false, false, false⟩, 40, 3, true⟩)] }

theorem test_meets_OverlayReturnsThePage :
    holding.mode = .pages ⟨0, .hold, 0, 3, [5]⟩ ∧ 0 < holding.pageCount 3 ∧ (holding.tickers.map Prod.fst).Nodup ∧
      (∀ x ∈ [5], ∃ y ∈ holding.tickers, y.1 = x ∧ holding.entryField x = true) ∧ ([5] : List Nat) ≠ [] ∧
      head0.overlaySlot = none := by decide +kernel
/-- The three restores of a page state: kept, the hold emptied, the page out of range. -/
theorem test_meets_OverlayRestores :
    (∀ slot : HeadIx, ∀ p ∈ [(⟨0, .dwell, 5, 0, []⟩ : PageState), ⟨0, .hold, 0, 3, [5]⟩, ⟨0, .hold, 0, 3, [7]⟩, ⟨3, .dwell, 5, 0, []⟩],
      ({ holding with mode := .overlay slot ⟨p, holding.tickers⟩ }).mode = .overlay slot ⟨p, holding.tickers⟩) ∧
    (0 < holding.pageCount 4 ∧ holding.pageCount 4 ≤ 3) ∧ (holding.tickers.map Prod.fst).Nodup ∧
    [5].filter (fun i => (keyedGet i holding.tickers).isSome) ≠ [] ∧
    [7].filter (fun i => (keyedGet i holding.tickers).isSome) = [] := by decide +kernel
theorem test_overlay_restores :
    [(⟨0, .hold, 0, 3, [5]⟩ : PageState), ⟨0, .hold, 0, 3, [7]⟩, ⟨3, .dwell, 5, 0, []⟩].map (fun p =>
      (Head.endOverlay 8 4 { holding with mode := .overlay 4 ⟨p, holding.tickers⟩ }).mode) =
    [.pages ⟨0, .hold, 0, 3, [5]⟩, .pages ⟨1, .dwell, 8, 3, []⟩, .pages ⟨0, .dwell, 8, 0, []⟩] := by decide +kernel
theorem test_meets_AdvanceAndBlankAct :
    headed.TakesRequest (to7 [1]) ∧ (1 : Byte).getLsbD (0 : HeadIx).val = true ∧ headed.head 0 = some head0 ∧
      head0.mode = .pages ⟨0, .dwell, 8, 0, []⟩ ∧ overlaid.TakesRequest (to7 [1]) ∧
      (∀ i : HeadIx, ∀ h ∈ overlaid.head i, h.overlaySlot ≠ none) := by decide +kernel
theorem test_meets_PageCountsRun :
    (headed.inReset = false ∧ headed.mgmt.frozen = false) ∧
    (let s := run (.freeze (to7 [])) headed; s.inReset = false ∧ s.mgmt.frozen = true) ∧
    head0.mode = .pages ⟨0, .dwell, 8, 0, []⟩ ∧ 2 ≤ 8 ∧ 1 ≤ 1 ∧ head0.pageCount 1 = 1 ∧ 2 ≤ head0.pageCount 4 ∧
    head0.holdMembers = [] ∧ holding.holdMembers = [5] ∧ (30 : Nat) ≠ 0 ∧
    (HeadIx.all.filter (fun i => ((paged ⟨0, .hold, 0, 1, [5]⟩).head i).any Head.holdEnding)).length = 1 ∧
    (HeadIx.all.filter (fun i => (headed.head i).any Head.holdEnding)).length = 0 ∧
    ((overlaid.head 0).map Head.overlaySlot = some (some 4) ∧ overlaid.notices.get 4 = some ⟨.overlay, 1, some 9, word "B"⟩ ∧
      2 ≤ 9) := by decide +kernel

theorem test_meets_AdvanceNotNow : ∀ (i : HeadIx) (h : Head) (p : PageState), overlaid.head i = some h → h.mode ≠ .pages p := by
  intro i h p e hm
  have hs : ∀ i : HeadIx, ∀ h ∈ overlaid.head i, h.overlaySlot ≠ none := by decide +kernel
  exact hs i h e (by simp [Head.overlaySlot, hm])

/-! ### Composition (08) -/

/-- After one frame event: a composition of head 0 is in flight, and its first head frame is being sent. -/
def composing : State := run .frameTimerExpiry headed

/-- Its row snapshot: slots 1 to 3 of an empty table at midnight of an invalid clock. -/
def snapshot0 : Snapshot := ⟨.slots 3 [none, none, none], 0, 0, 0, false⟩

/-- After the static field has been painted. -/
def painted : State := run (.fieldPaint 0) composing

/-- The ticker loop of 8.6: a field of 128, a spacer of 24, a text of 300; the position counts sixteenths of a column. -/
theorem test_ticker_starts : (Ticker.mk none [] ⟨false, false, false, false⟩ 324 0 false).advance 24 =
    (some ⟨none, [], ⟨false, false, false, false⟩, 324, 24, false⟩, false) := by decide +kernel
theorem test_frame_timer_expiry :
    composing.comps.get 0 = some ⟨snapshot0, none⟩ ∧ (composing.buffers.get 0).backState = .composing ∧
      composing.link.sending.map HeadFrame.head = some 0 := by decide +kernel
theorem test_fsync_rising_edge :
    (run .fsyncRisingEdge (headed.setTimeBase .lost)).link.timeBase = .synced ∧ run .fsyncRisingEdge headed = headed := by
  decide +kernel
theorem test_fsync_watch_expiry :
    (run .fsyncWatchExpiry (headed.setTimeBase .acquiring)).mgmt.pendingEvents = 0x82 := by decide +kernel
/-- The A of font 1 at (2, 0): columns 2 and 4 lit, column 3 dark, on rows 0 to 4. -/
theorem test_field_paint :
    (List.range 8).map (fun x => (painted.buffers.get 0).back.getLsbD x) =
      [false, false, true, false, true, false, false, false] ∧
    (painted.buffers.get 0).back.getLsbD (256 * 4 + 2) = true ∧ (painted.buffers.get 0).back.getLsbD (256 * 5 + 2) = false ∧
    painted.comps.get 0 = some ⟨snapshot0, some 2⟩ := by decide +kernel
theorem test_field_paint_last :
    let t := run (.fieldPaint 0) (run (.fieldPaint 0) painted)
    t.comps.get 0 = none ∧ (t.buffers.get 0).backState = .complete := by decide +kernel

theorem test_meets_FrameTimeBaseFollowsItsTable :
    ∀ b ∈ [TimeBase.internal, .acquiring, .synced, .lost],
      (headed.setTimeBase b).inReset = false ∧ (headed.setTimeBase b).link.timeBase = b := by decide +kernel
theorem test_meets_FrameEventsComposeUnlessFrozen :
    (run (.freeze (to7 [])) headed).mgmt.frozen = true ∧ headed.mgmt.frozen = false ∧
    ({ headed with link := { headed.link with giveWaiting := true } }).roundsRun = false ∧
    composing.head 0 = some head0 ∧ composing.comps.get 0 = some ⟨snapshot0, none⟩ ∧
    headed.head 0 = some head0 ∧ headed.comps.get 0 = none ∧ head0.mode = .pages ⟨0, .dwell, 8, 0, []⟩ ∧ head0.fields ≠ [] ∧
    headed.roundsRun = true ∧ headed.link.round = none ∧ headed.link.sending = none ∧
    (wrapFrom headed.link.pointer).filter headed.dueInRound = 0 :: [] ∧
    (1 ≤ 1 ∧ 3 ≤ head0.topSlot) ∧
    (HeadIx.all.filter (fun i => (composing.head i).isSome && (composing.comps.get i).isSome)).length = 1 := by decide +kernel
/-- A head without fields, and one under an overlay with a font, without one, and with a context of its number and of another. -/
theorem test_meets_CompositionsThatCompleteAtOnce :
    (let s := run (.headDefine (to7 (headOf 0 32 8) 0)) fonted;
      s.mgmt.frozen = false ∧ s.comps.get 0 = none ∧ (s.head 0).map Head.fields = some []) ∧
    (overlaid.mgmt.frozen = false ∧ overlaid.comps.get 0 = none ∧ overlaid.head 0 = some (head0.startOverlay 4) ∧
      (head0.startOverlay 4).overlaySlot = some 4 ∧ (overlaid.heads.get 0).overlayNumber = 1 ∧
      (overlaid.fonts.get (head0.startOverlay 4).overlayFont).defined = true ∧
      (({ overlaid with fonts := unit.fonts }).fonts.get (head0.startOverlay 4).overlayFont).defined = false) ∧
    (buildText [] false .full 640 [.free (word "B")]).glyphs ≠ [] ∧
    (∀ n ∈ [1, 2], ({ head0.startOverlay 4 with
      overlayTicker := some ⟨some n, [66], ⟨false, false, false, false⟩, 40, 0, false⟩ }).overlaySlot = some 4) := by
  decide +kernel
/-- Contexts before, at and past the end of their loop, and a hold that one or two of them keep. -/
theorem test_meets_TickersAdvance :
    (let k : Ticker := ⟨none, [65], ⟨false, false, false, false⟩, 40, 623, false⟩;
      k.pos + 16 < 16 * k.loop ∧ 16 * k.loop ≤ k.pos + 17) ∧
    holding.tickers.Pairwise (fun a b => a.1 < b.1) ∧ holding.mode = .pages ⟨0, .hold, 0, 3, [5]⟩ ∧
    head0.mode = .pages ⟨0, .dwell, 8, 0, []⟩ ∧
    (∀ q ∈ [3, 639], ∀ hold ∈ [[5], [3, 5]],
      (hold.filter (fun idx => !(keyedGet idx [(5, (⟨none, [65], ⟨false, false, false, false⟩, 40, q, true⟩ : Ticker))]).any
        (fun k => decide (16 * k.loop ≤ k.pos + 16))) = hold ↔ q = 3)) ∧
    (head0.startOverlay 4).overlaySlot = some 4 := by decide +kernel
theorem test_ticker_wraps :
    let k : Ticker := ⟨none, [65], ⟨false, false, false, false⟩, 40, 639, true⟩
    let h := { holding with tickers := [(5, k)] }
    k.advance 16 = (none, true) ∧ ({ k with pending := false }).advance 16 = (some { k with pos := 15, pending := false }, true) ∧
      (h.advanceTickers 8 4).mode = .pages ⟨1, .dwell, 8, 3, []⟩ ∧ (h.advanceTickers 8 4).tickers = [] := by decide +kernel
/-- The rows of page 1 of a head of three slots over five services, and the count of a head that is still composing. -/
theorem test_frame_event_rows :
    let s := { paged ⟨1, .dwell, 5, 0, []⟩ with
      board := { unit.board with table := (List.range 5).map (fun k => svc (k + 1) (600 + k)) } }
    ((run .frameTimerExpiry s).comps.get 0).map (fun c => c.snapshot.rows) =
      some (.slots 3 ([1, 4, 5].map (fun id => some ⟨svc id (599 + id), none, none⟩))) ∧
      (run .frameTimerExpiry composing).counter .composeLag = 1 := by decide +kernel
/-- A copy of an entry that has a list of two stops and a build of nine: the list's stops are in it, the build's are not. -/
theorem test_row_copy_without_build_stops :
    let e := { svc 7 600 with
      list := some ⟨4, [⟨0, [⟨5, .normal, none⟩, ⟨6, .request, some 610⟩]⟩]⟩
      build := some ⟨5, 2, [⟨1, List.replicate 8 ⟨8, .normal, none⟩⟩, ⟨2, [⟨9, .split, none⟩]⟩], true, 3⟩ }
    (RowCopy.ofEntry e).build = some ⟨5, 2, 9, [1, 2], true, 3⟩ ∧ (RowCopy.ofEntry e).entry = { e with build := none } ∧
      (RowCopy.ofEntry e).stops = some [⟨5, .normal, none⟩, ⟨6, .request, some 610⟩] := by decide +kernel
theorem test_meets_FieldPaintTakesNextField :
    (headed.inReset = false ∧ headed.comps.get 0 = none) ∧
    (composing.inReset = false ∧ composing.head 0 = some head0 ∧ composing.comps.get 0 = some ⟨snapshot0, none⟩ ∧
      (∃ x ∈ head0.fields, x.1 = 2 ∧ (composing.fonts.get x.2.record.font).defined = true) ∧
      (∀ y ∈ head0.fields, 2 ≤ y.1) ∧ (∃ y ∈ head0.fields, 2 < y.1) ∧ head0.fields.Pairwise (fun a b => a.1 < b.1)) ∧
    ((∃ x ∈ head0.fields, x.1 = 5 ∧ 3 < x.1) ∧ ∀ y ∈ head0.fields, y.1 ≤ 5) ∧
    (unit.fonts.get 1).defined = false ∧
    (let r : FieldRecord := ⟨.static, 0, 0, 0, 6, 1, .left, .scroll, 16, 4, 0, word "A", false⟩;
      r.scrolls = true ∧ (fonted.fieldText .full 0 snapshot0 r).glyphs ≠ [] ∧
      (∃ k, some (Ticker.mk none [65] ⟨false, false, false, false⟩ 7 0 false) = some k ∧ k.bound = boundService snapshot0 r) ∧
      (∀ k ∈ some (Ticker.mk (some 7) [65] ⟨false, false, false, false⟩ 7 0 false), k.bound ≠ boundService snapshot0 r)) := by
  decide +kernel
/-- A field without a font; an empty text; a text without a short form; the ellipsis loaded or not. -/
theorem test_meets_FieldPlans :
    (let s := { composing with fonts := unit.fonts };
      s.inReset = false ∧ s.head 0 = some head0 ∧ ∀ y ∈ head0.fields, (s.fonts.get y.2.record.font).defined = false) ∧
    ((fonted.fieldText .full 0 snapshot0 ⟨.static, 0, 0, 0, 6, 1, .left, .scroll, 16, 4, 0, [], false⟩).glyphs = [] ∧
      (fonted.fieldText .full 0 snapshot0 ⟨.static, 0, 0, 0, 6, 1, .left, .truncate, 16, 4, 0, word "A", false⟩).short = false) ∧
    unit.fonts.ellipsisLoaded = false ∧ ellipsed.fonts.ellipsisLoaded = true ∧ ellipsed.fonts.advance 1 0xE1 = 3 :=
  ⟨by decide +kernel, by decide +kernel, by decide +kernel, by decide +kernel, by decide +kernel⟩
/-- A destination named Ash, short As, at the width of each step of the ladder: every glyph is three columns wide, the gaps 2 and 1;
and an AAA truncated to one glyph and the ellipsis. -/
theorem test_meets_LadderSteps :
    let s := { ellipsed with names := ⟨[{ newName with short := some (word "As") }], []⟩ }
    let snap : Snapshot := ⟨.slots 1 [some (RowCopy.ofEntry { svc 700 600 with dest := 1300 })], 0, 0, 0, false⟩
    let plan := fun (kind : FieldKind) (w : Nat) =>
      (s.planField 0 snap ⟨kind, 1, 0, 0, w, 1, .left, .truncate, 16, 4, 0, word "AAA", false⟩ none).choice
    [13, 11, 10, 8, 7, 6].map (fun w => (plan .destination w).result) =
      [.fitFull, .fitCondensed, .fitShort, .fitShort, .fitShortCondensed, .truncated] ∧
    (plan .static 7).drawing = .text [0x41, 0xE1] 1 0 ∧ (plan .static 2).result = .clipped := by decide +kernel
/-- Rows with a service, without one and past the last; the kinds of field; a text that has room and one that is cut. -/
theorem test_meets_FieldTexts :
    (∀ x ∈ [none, some (RowCopy.ofEntry listed)], ([x])[(1 : Nat) - 1]? = some x) ∧ ([] : List (Option RowCopy))[0]? = none ∧
    (∀ k ∈ [FieldKind.destination, .via, .scheduled, .status, .due, .platform, .cars, .calling], k.isEntry = true) ∧
    (∀ k ∈ [FieldKind.clock, .notice, .static], k.isEntry = false) ∧
    (RowCopy.ofEntry listed).stops = some [stop 1, stop 2, stop 3] ∧ listed.status ≠ .cancelled ∧ listed.status ≠ .departed ∧
    (overlaid.notices.get 4).map Notice.text = some (word "B") ∧ word "B" ≠ [] ∧ overlaid.notices.get 5 = none ∧
    (Text.start 0).marks.cut = false ∧ ((Text.start 0).addGlyph 65).marks.cut = true := by decide +kernel
/-- The texts of 8.2 for a service at 10:00 whose clock shows 09:58, and of the other kinds. -/
theorem test_field_pieces :
    let e := { listed with platform := ⟨12, .b⟩, cars := 4, status := .expected, expected := some 600 }
    let snap : Snapshot := ⟨.slots 1 [some (RowCopy.ofEntry e)], 9, 58, 7, true⟩
    let pieces := fun (k : FieldKind) => fieldPieces overlaid.notices 0 snap
      ⟨k, 1, 0, 0, 9, 1, .left, .truncate, 16, 4, 4, word "A", true⟩
    pieces .status = [.name 4084, .glyphs [0x20], .glyphs (codes "10:00")] ∧
      pieces .due = [.glyphs (codes "2"), .glyphs [0x20], .name 4090] ∧ pieces .platform = [.glyphs (codes "12B")] ∧
      pieces .cars = [.glyphs (codes "4"), .glyphs [0x20], .name 4092] ∧ pieces .clock = [.glyphs (codes "09:58:07")] ∧
      pieces .calling = [.name 4086, .glyphs [0x20], .name 1, .name 4094, .name 2, .glyphs [0x20], .name 4087, .glyphs [0x20],
        .name 3, .name 4095] ∧ pieces .notice = [] ∧ pieces .static = [.free (word "A")] := by decide +kernel
/-- The steps of the ladder for a text of two glyphs three columns wide, nominal gap 2, minimum gap 1, and no ellipsis loaded. -/
theorem test_fit_ladder :
    [8, 7, 6].map (fun w => (fonted.planField 0 snapshot0 ⟨.static, 0, 0, 0, w, 1, .left, .truncate, 16, 4, 0, word "AA", false⟩
      none).choice.result) = [.fitFull, .fitCondensed, .clipped] ∧
    (fonted.planField 0 snapshot0 ⟨.static, 0, 0, 0, 6, 1, .left, .scroll, 16, 4, 0, word "AA", false⟩ none).choice.result =
      .scrolling := by decide +kernel
theorem test_meets_PaintingStaysInItsRectangle :
    (255 < 256 ∧ 31 < 32 ∧ (Clip.ofRect 8 4 30 5 32 8).x1 ≤ 256) ∧
      ¬ ((Clip.ofRect 8 4 30 5 32 8).x0 ≤ 7 ∧ 7 < (Clip.ofRect 8 4 30 5 32 8).x1 ∧ (Clip.ofRect 8 4 30 5 32 8).y0 ≤ 4 ∧
        4 < (Clip.ofRect 8 4 30 5 32 8).y1) ∧
      (Clip.ofRect 8 4 30 5 32 8).x1 = 32 ∧ (Clip.ofRect 8 4 30 5 32 8).y1 = 8 := by decide +kernel

/-! ### The Panel Link (09) -/

/-- A head frame to head 0 at a phase. -/
def frameAt (p : FramePhase) : HeadFrame := ⟨0, 32, 8, 8, false, 1, p, false, false⟩

/-- The composing unit with its head frame at a phase. -/
def sendingAt (p : FramePhase) : State := { composing with link := { composing.link with sending := some (frameAt p) } }

/-- A Standby in an ownership state. -/
def standby (o : Ownership) (mark : Bool := false) : State :=
  { unit with
    straps := { unit.straps with role := .standby }
    link := { unit.link with owner := o, windowMark := mark } }

/-- A Primary in an ownership state, with what it sends. -/
def primary (o : Ownership) (x : Option HeadFrame) : State :=
  { unit with link := { unit.link with owner := o, sending := x } }

/-- The rounds of a frame event: an overrun, none due, a head frame in transmission, a front SENT. -/
theorem test_meets_RoundsOfFrameEvents :
    (∀ r ∈ [none, some [], some [0], some [0, 3]], ∀ x ∈ [none, some (frameAt (.row 3))],
      ({ headed with link := { headed.link with round := r, sending := x } }).roundsRun = true) ∧
    (HeadIx.all.map (fun j => (0 : HeadIx) + j)).filter (fun j => (unit.head j).isSome &&
      (decide ((unit.link.heads.get j).state ≠ .absent) || (unit.link.heads.get j).probeDue)) = [] ∧
    (let s := headed.setBuffers 0 { headed.buffers.get 0 with frontState := .sent };
      (s.buffers.get 0).frontState = .sent ∧ s.comps.get 0 = none ∧ head0.fields ≠ [] ∧ head0.overlaySlot = none) := by
  decide +kernel
theorem test_frame_event_rounds :
    let s := { headed with link := { headed.link with round := some [0, 3], sending := some (frameAt (.row 3)) } }
    let t := run .frameTimerExpiry s
    t.link.round = some [0] ∧ t.link.sending = s.link.sending ∧ t.counter .frameOverruns = 2 ∧
      (run .frameTimerExpiry (headed.setBuffers 0 { headed.buffers.get 0 with frontState := .sent })).counter .frameRepeats =
        1 := by decide +kernel

theorem test_header_sent :
    composing.link.sending = some (frameAt .header) ∧ (run (.headerSent false) composing).link.plo.take 2 = [.sor, .nibble 0] ∧
      (run (.headerSent true) composing).link.sending = some (frameAt (.holdWait 0)) := by decide +kernel
theorem test_row_sent :
    (run (.rowSent false) (sendingAt (.row 6))).link.sending = some (frameAt (.row 7)) ∧
      (run (.rowSent false) (sendingAt (.row 7))).link.sending = some (frameAt (.answer 40)) := by decide +kernel
theorem test_holdn_release :
    (run .holdnRelease (sendingAt (.holdWait 3))).link.sending = some (frameAt (.row 3)) := by decide +kernel
theorem test_hold_limit_expiry :
    let t := run .holdLimitExpiry (sendingAt (.holdWait 3))
    t.link.sending = none ∧ (t.link.heads.get 0).state = .silent ∧ t.counter .holdAborts = 1 := by decide +kernel
theorem test_ack_received :
    let t := run (.ackReceived 0 200) (sendingAt (.answer 40))
    (t.link.heads.get 0).state = .present ∧ (t.link.heads.get 0).ambient = some 200 ∧ (t.buffers.get 0).frontState = .sent ∧
      (run (.ackReceived 1 200) (sendingAt (.answer 40))).counter .strayAnswers = 1 := by decide +kernel
theorem test_nak_received :
    let t := run (.nakReceived 0 3) (sendingAt (.answer 40))
    (t.link.heads.get 0).faultCode = some .temp ∧ t.mgmt.pendingEvents = 0x81 := by decide +kernel
theorem test_ack_timeout :
    let t := run .ackTimeout (sendingAt (.answer 40))
    (t.link.heads.get 0).state = .silent ∧ t.counter .headTimeouts = 1 := by decide +kernel
theorem test_answer_not_well_formed :
    (run (.answerNotWellFormed [5, 16]) (sendingAt (.answer 40))).counter .strayAnswers = 1 ∧
      run (.answerNotWellFormed []) (run .idleMarker unit) = run .idleMarker unit := by decide +kernel
/-- A complete ACK ends the head frame whatever stands before and after it; one that a group breaks is a stray (R168). -/
theorem test_answer_among_other_groups :
    let t := run (.answerNotWellFormed [1, 5, 16, 16, 28, 24, 17]) (sendingAt (.answer 40))
    (t.link.heads.get 0).ambient = some 200 ∧ t.counter .strayAnswers = 0 ∧
      (run (.answerNotWellFormed [5, 16, 5, 16, 16, 28, 24]) (sendingAt (.answer 40))).counter .strayAnswers = 1 := by
  decide +kernel
theorem test_lreq_asserted :
    (run .lreqAsserted (primary .owning none)).lgntOut = true ∧
      (run .lreqAsserted (primary .owning (some (frameAt .header)))).link.owner = .releasing := by decide +kernel
theorem test_lreq_released : (run .lreqReleased (primary .granted none)).link.owner = .owning := by decide +kernel
theorem test_lgnt_asserted : (run .lgntAsserted (standby .waiting)).driving = true := by decide +kernel
theorem test_activity : (run .activity (standby .waiting)).link.windowMark = true := by decide +kernel
theorem test_grant_wait_expiry :
    (run .grantWaitExpiry (standby .waiting)).counter .forcedTakes = 1 ∧
      (run .grantWaitExpiry (standby .waiting true)).link.linkWait = 1 := by decide +kernel
theorem test_take_link :
    outcome (run (.takeLink (to7 [])) unit) = some 8 ∧ (run (.takeLink (to7 [])) (standby .idle)).lreqOut = true := by
  decide +kernel
theorem test_give_link : (run (.giveLink (to7 [])) (standby .owning)).link.owner = .idle := by decide +kernel
/-- The example of 9.6. -/
theorem test_brightness_table_put :
    let t := run (.brightnessTablePut (to7 [10, 30, 20, 40, 50, 60, 70, 80, 90, 100, 110, 120, 130, 140, 150])) unit
    t.link.thresholds.take 4 = [10, 30, 30, 40] ∧ outcome t = some 1 := by decide +kernel

theorem test_meets_HeadFrameGoesOut :
    (∀ p ∈ [FramePhase.header, .row 0, .row 6, .row 7, .holdWait 0],
      (sendingAt p).inReset = false ∧ (sendingAt p).link.sending = some (frameAt p)) ∧
      6 + 1 < (frameAt (.row 6)).height ∧ (frameAt (.row 7)).height ≤ 7 + 1 := by decide +kernel
theorem test_meets_AnswersEndHeadFrames :
    (∀ p ∈ [FramePhase.answer 40, .holdWait 7],
      (sendingAt p).inReset = false ∧ (sendingAt p).link.owner = .owning ∧ (sendingAt p).link.giveWaiting = false ∧
        (sendingAt p).link.sending = some (frameAt p) ∧ (frameAt p).void = false ∧ (frameAt p).clearFront = false) ∧
    ((sendingAt (.answer 40)).buffers.get 0).backState ≠ .complete ∧ FaultCode.ofCode (1 : Byte).toNat = some .supply ∧
    FaultCode.ofCode (4 : Byte).toNat = some .geometry ∧ (1 : Byte).toNat ≠ (0 : HeadIx).val ∧
    (let x := { frameAt (.answer 40) with void := true, clearFront := true };
      ({ composing with link := { composing.link with sending := some x } }).link.sending = some x) ∧
    ((run (.fieldPaint 0) (run (.fieldPaint 0) painted)).buffers.get 0).backState = .complete ∧
    (unit.inReset = false ∧ unit.link.sending = none ∧ (standby .waiting).inReset = false ∧
      (standby .waiting).link.owner = .waiting ∧ (∃ g ∈ [(5 : BitVec 5), 16], ∃ x, Sym.ofGroup g = some x ∧ x ≠ .idle)) ∧
    (∀ c ∈ [(0 : Byte), 5, 255], FaultCode.ofCode c.toNat = none) ∧
    (∀ g ∈ [(0 : BitVec 5), 1, 4, 7, 16], Sym.ofGroup g ≠ some .ack ∧ Sym.ofGroup g ≠ some .nak) ∧
    (∀ n ∈ [0, 3], (List.replicate n (0 : BitVec 4)).length < 4) ∧
    ∀ g ∈ [(0 : BitVec 5), 5, 15], ∀ v, Sym.ofGroup g ≠ some (.nibble v) := by
  decide +kernel
/-- What follows a head frame: no round, a round whose heads were dropped, the next head, its front SENT; a clearing that meets a
COMPLETE back. -/
theorem test_meets_RoundsGoOn :
    (∀ r ∈ [none, some [], some [1, 2], some [1, 0], some [0, 3]],
      let s := { sendingAt (.answer 40) with link := { (sendingAt (.answer 40)).link with round := r } }
      s.link.sending = some (frameAt (.answer 40)) ∧ s.link.owner = .owning ∧ s.link.giveWaiting = false ∧ s.link.round = r) ∧
    (∀ j ∈ [(1 : HeadIx), 2], composing.head j = none) ∧ composing.head 0 = some head0 ∧
    (let x := { frameAt (.answer 40) with clearFront := true };
      let s := { (run (.fieldPaint 0) (run (.fieldPaint 0) painted)) with link := { composing.link with sending := some x } };
      s.inReset = false ∧ s.link.sending = some x ∧ x.clearFront = true ∧ (s.buffers.get x.head).backState = .complete) := by
  decide +kernel
theorem test_next_head_begins :
    let t := run (.ackReceived 0 9) { sendingAt (.answer 40) with
      link := { (sendingAt (.answer 40)).link with round := some [1, 0, 3] } }
    t.link.sending.map (fun x => (x.head, x.frameNumber)) = some (0, 2) ∧ t.link.round = some [3] ∧ t.counter .frameRepeats = 1 ∧
      t.link.plo = headerSymbols { frameAt .header with frameNumber := 2 } := by decide +kernel
theorem test_meets_OwnershipChangesHands :
    (primary .owning none).link.sending = none ∧
    (∀ o ∈ [Ownership.owning, .releasing, .granted], (primary o none).inReset = false ∧
      (primary o none).straps.role = .primary ∧ (primary o none).link.owner = o) ∧
    (primary .owning (some (frameAt .header))).link.sending = some (frameAt .header) ∧
    (∀ o ∈ [Ownership.idle, .waiting, .owning], ∀ m ∈ [true, false], (standby o m).inReset = false ∧
      (standby o m).straps.role = .standby ∧ (standby o m).link.owner = o ∧ (standby o m).link.windowMark = m ∧
      (standby o m).TakesRequest (to7 []) ∧ (standby o m).link.sending = none) ∧
    unit.TakesRequest (to7 []) ∧ unit.straps.role = .primary := by decide +kernel
theorem test_meets_OwnershipAtTheEndOfAFrame :
    (let s := primary .releasing (some (frameAt (.answer 40)));
      s.link.sending = some (frameAt (.answer 40)) ∧ s.link.owner = .releasing ∧ s.inReset = false ∧ s.straps.role = .primary) ∧
    (let s := run (.giveLink (to7 [])) { standby .owning with link := { (standby .owning).link with
        sending := some (frameAt (.answer 40)) } };
      s.link.sending = some (frameAt (.answer 40)) ∧ s.link.owner ≠ .releasing ∧ s.link.giveWaiting = true) := by decide +kernel
theorem test_ownership_moves_after_frame :
    (run (.ackReceived 0 9) (primary .releasing (some (frameAt (.answer 40))))).lgntOut = true ∧
      (run .ackTimeout { standby .owning with link := { (standby .owning).link with
        sending := some (frameAt (.answer 40))
        giveWaiting := true } }).link.owner = .idle := by decide +kernel
theorem test_meets_BrightnessTableNeverDecreases :
    (∀ n ∈ [0, 14, 15, 16], unit.TakesData (to7 (List.replicate n 255))) ∧
    (let s := run (.ackReceived 0 200) (sendingAt (.answer 40));
      s.head 0 = some head0 ∧ head0.brightness = .auto ∧ (s.link.heads.get 0).ambient = some 200) := by decide +kernel
/-- The default thresholds at level 8 for the readings of the worked figure of 9.6: up, down at the edge of the hysteresis, and hold;
levels 0 and 15; an ABSENT head. -/
theorem test_meets_BrightnessSteps :
    (headed.link.thresholds.getD (9 - 1) 0 = 144 ∧ headed.link.thresholds.getD (8 - 1) 0 = 128 ∧
      headed.mgmt.settings.hysteresis = 8) ∧ (144 ≤ 144 ∧ 143 < 144 ∧ 119 + 8 < 128 ∧ 128 ≤ 120 + 8) ∧
    (headed.link.heads.get 0).autoLevel = 8 ∧ (headed.link.heads.get 0).state ≠ .absent ∧
    (let s := headed.setLinkHead 0 { LinkHead.initial with state := .absent, misses := 3, autoLevel := 15, ambient := some 255 };
      s.head 0 = some head0 ∧ (s.link.heads.get 0).state = .absent ∧ ¬ (s.link.heads.get 0).autoLevel < 15) ∧
    (headed.setLinkHead 0 { LinkHead.initial with autoLevel := 0, ambient := some 0 }).head 0 = some head0 ∧
    headed.head 1 = none := by decide +kernel
theorem test_brightness_steps :
    [144, 143, 120, 119].map (fun a => (((headed.setLinkHead 0 { LinkHead.initial with
      ambient := some a }).linkSecond).link.heads.get 0).autoLevel) = [9, 8, 8, 7] ∧
    (((headed.setLinkHead 0 { LinkHead.initial with state := .absent, misses := 3 }).linkSecond).link.heads.get 0).probeDue =
      true := by decide +kernel

/-! ### Management (10) -/

/-- The unit frozen. -/
def frozen (n : Nat) : State := { unit with mgmt := { unit.mgmt with frozen := true, freezeRemaining := n } }

/-- A Read reply's outcome, table byte and first content bytes. -/
def readReply (s : State) (n : Nat) : Option (List Byte) := s.feed.slot.map (fun r => (r.drop 7).take (2 + n))

theorem test_status_query : (run (.statusQuery (to7 [])) (standby .waiting)).feed.slot.map (fun r => (r.drop 7).take 9) =
    some [0, 0, 0, 0, 0, 0xA1, 0xB2, 7, 0] := by decide +kernel
theorem test_counter_read :
    (run (.counterRead (to7 [0])) unit).feed.slot.map (fun r => (r.drop 7).take 20) =
      some [0, 40, 0, 0, 0, 0, 0, 0, 0, 0, 0, 0, 0, 1, 0, 0, 0, 1, 0, 0] := by decide +kernel
theorem test_counter_read_clear : ∀ c ∈ feedCounters, (run (.counterReadClear (to7 [1])) unit).counter c = 0 := by
  decide +kernel
theorem test_event_clear :
    (run (.eventClear (to7 [0xFF])) (pulsed true 0)).mgmt.pendingEvents = 0x04 := by decide +kernel
theorem test_event_enable : (run (.eventEnable (to7 [0])) unit).alertLow = false := by decide +kernel
theorem test_freeze : (run (.freeze (to7 [])) unit).mgmt.freezeRemaining = 30 := by decide +kernel
theorem test_unfreeze :
    (run (.unfreeze (to7 [])) (frozen 9)).mgmt.frozen = false ∧ outcome (run (.unfreeze (to7 [])) unit) = some 8 := by
  decide +kernel
theorem test_freeze_timeout : (run .freezeTimeout (frozen 1)).mgmt.pendingEvents = 0xA0 := by decide +kernel
/-- A Give Link that waits for the end of a head frame survives a Restart (the model's choice, log 42). -/
theorem test_restart_keeps_give_waiting :
    let s := { standby .owning with link := { (standby .owning).link with
      sending := some (frameAt (.answer 40))
      giveWaiting := true } }
    (run (.ackReceived 0 9) (run (.restart (to7 [] 0)) s)).link.owner = .idle := by decide +kernel
theorem test_restart :
    let t := run .replySent (run (.restart (to7 [])) boarded)
    t.board.table = [] ∧ t.feed.address = 7 ∧ (run (.restart (to7 [] 0)) boarded).board.table = [] := by decide +kernel

/-- An Address Assign's payload. -/
def assign (a : Byte) : List Byte :=
  a :: ([1, 2] ++ [0xA5, 0xA5, 0xA5, 0xA5] ++ serialBytes unit.serial ++ serialBytes unit.serial ++ serialBytes unit.serial)

theorem test_address_assign :
    (run (.addressAssign (to7 (assign 120))) unit).feed.address = 120 ∧
      outcome (run (.addressAssign (to7 (assign 121))) unit) = some 6 := by decide +kernel
theorem test_configure_clamped :
    let t := run (.configureDwell (to7 [9, 0, 1, 1, 0, 33])) unit
    t.mgmt.settings.dwell = 2 ∧ t.feed.zone = 33 ∧ outcome t = some 1 := by decide +kernel
theorem test_configure_platform_order_and_sync :
    (run (.configureOwnPlatform (to7 [3, 2, 1])) boarded).board.table.map Entry.moved = [true, true] ∧
      (run (.configureDayStart (to7 ([4] ++ b16 605))) boarded).board.table.map Entry.id = [701, 700] ∧
      (run (.configureSyncSource (to7 [15, 0, 1])) unit).link.timeBase = .acquiring := by decide +kernel
theorem test_read_back_departure_and_list :
    readReply (run (.readBackDeparture (to7 ([1] ++ b16 701 ++ [0]))) boarded) 3 = some [0, 1, 2, 0x02, 0xBD] ∧
      readReply (run (.readBackCallingList (to7 ([2] ++ b16 900 ++ [0]))) boarded) 0 = some [3, 2] := by decide +kernel
theorem test_read_back_name_and_next :
    let t := run (.readBackName (to7 ([3] ++ b16 0 ++ [0]))) named
    t.mgmt.readPtr = .pos .name (some (1207, 0)) ∧
      (run (.readNext (to7 [])) { t with feed := unit.feed }).mgmt.readPtr = .pos .name (some (2001, 0)) := by decide +kernel
theorem test_read_back_font_and_glyph :
    readReply (run (.readBackFont (to7 [4, 1, 0, 0])) fonted) 1 = some [0, 4, 1] ∧
      (run (.readBackGlyph (to7 [5, 255, 0, 0])) fonted).mgmt.readPtr = .pos .glyph (some (1, 0x41)) := by decide +kernel
theorem test_read_back_head_field_and_notice :
    (run (.readBackHead (to7 [6, 255, 0, 0])) headed).mgmt.readPtr = .pos .head (some (0, 0)) ∧
      (run (.readBackField (to7 [7, 0, 3, 0])) headed).mgmt.readPtr = .pos .field (some (0, 3)) ∧
      (run (.readBackNotice (to7 [8, 4, 0, 0])) overlaid).mgmt.readPtr = .pos .notice (some (4, 0)) := by decide +kernel

theorem test_meets_ConfigureSetsItsSetting :
    (∀ id ∈ List.range 18, ∀ v ∈ [0, 1, 20, 65535], unit.TakesRequest (to7 (b8 id :: b16 v)) ∧ v ≤ 65535) ∧
    (unit.mgmt.settings.ownPlatform = ⟨1, .none⟩ ∧
      [0, 256, 260, 261, 99 * 256, 100 * 256 + 4].map ownPlatformOf =
        [⟨1, .none⟩, ⟨1, .none⟩, ⟨1, .d⟩, ⟨1, .none⟩, ⟨99, .none⟩, ⟨99, .d⟩]) ∧
    min 65535 1439 ≠ unit.mgmt.settings.dayStart ∧ min 120 1439 = unit.mgmt.settings.dayStart ∧
    unit.mgmt.settings.syncSource = .internal ∧
    (run (.configureSyncSource (to7 [15, 0, 1] 0)) unit).mgmt.settings.syncSource = .fsync ∧
    (0 = 0 ↔ unit.mgmt.settings.syncSource = .internal) := by decide +kernel
theorem test_meets_EventsClearAndEnable : ∀ m ∈ [0, 0xFF], unit.TakesRequest (to7 [m]) := by decide +kernel
theorem test_meets_FreezeIsCounted :
    (unit.TakesRequest (to7 []) ∧ unit.mgmt.frozen = false ∧ unit.inReset = false) ∧
      (frozen 2).TakesRequest (to7 []) ∧ (frozen 2).mgmt.frozen = true ∧ 2 ≤ (frozen 2).mgmt.freezeRemaining ∧
      (frozen 1).mgmt.freezeRemaining ≤ 1 ∧ (frozen 2).inReset = false := by decide +kernel
theorem test_meets_StatusAndCountersAreAnswered :
    unit.TakesRequest (to7 []) ∧ (standby .waiting).link.owner = .waiting ∧ unit.TakesRequest (to7 [0]) ∧
      (0 : Byte).getLsbD 0 = false ∧ unit.TakesRequest (to7 [1]) ∧ (1 : Byte).getLsbD 0 = true := by decide +kernel
theorem test_meets_ReadRequestsAnswerItems :
    (boarded.TakesRequest (to7 [b8 ReadTable.departure.code, 0x02, 0xBD, 0]) ∧ badKey .departure 0x02 0xBD 0 = false ∧
      headOfTable .departure 0x02 0xBD = false ∧ (boarded.itemAt .departure 0x02 0xBD 0).isSome = true) ∧
    (named.TakesRequest (to7 [b8 ReadTable.name.code, 0, 0, 0]) ∧ badKey .name 0 0 0 = false ∧
      headOfTable .name 0 0 = true ∧ (named.itemAfter .name none).isSome = true) ∧
    (badKey .glyph 255 0 0 = false ∧ headOfTable .glyph 255 0 = true ∧ (fonted.itemAfter .glyph none).isSome = true) ∧
    (badKey .field 0 5 0 = false ∧ headOfTable .field 0 5 = false ∧ (headed.itemAt .field 0 5 0).isSome = true) ∧
    (let s := { boarded with mgmt := { boarded.mgmt with readPtr := .pos .departure none } };
      s.TakesRequest (to7 []) ∧ s.mgmt.readPtr = .pos .departure none ∧ (s.itemAfter .departure none).isSome = true) ∧
    (boarded.itemAfter .departure (some ((listed.key 120).1, 700))).map Prod.fst = some (building.key 120) ∧
    boarded.BoardSound := by decide +kernel
theorem test_meets_AddressAssignTakesAddress :
    (∀ a ∈ [0, 1, 120, 121], unit.TakesRequest (to7 (assign a)) ∧ (to7 (assign a)).payload = a :: (assign a).drop 1) ∧
    (assign 1).drop 1 = [1, 2] ++ [0xA5, 0xA5, 0xA5, 0xA5] ++ serialBytes unit.serial ++ serialBytes unit.serial ++
      serialBytes unit.serial ++ [] ∧ (0xA5 : Byte) ∉ [(1 : Byte), 2] ∧ ((assign 1).drop 1).length ≤ 80 ∧
    (∀ n ∈ [0, 21, 81], unit.TakesRequest (to7 (1 :: List.replicate n 0xA5)) ∧ (80 < n ∨ n < 22)) := by decide +kernel
theorem test_meets_RestartEmptiesTheStores :
    unit.TakesRequest (to7 []) ∧ unit.TakesRequest (to7 [] 0) ∧ (to7 [] 0).flags.getLsbD 0 = false ∧
    (to7 []).flags.getLsbD 0 = true ∧
    (let s := run (.restart (to7 [])) unit;
      s.inReset = false ∧ s.feed.tx = .reply (unit.outcomeFor (to7 []) .restart .done) ∧ s.mgmt.restartWaiting = true) ∧
    composing.sendingTo 0 = true ∧ composing.sendingTo 1 = false := by decide +kernel

/-! ### The invariants -/

theorem test_meets_BoardStaysSound : boarded.BoardSound ∧ step boarded = .next boarded := ⟨by decide +kernel, rfl⟩
theorem test_meets_ListsClockAndNamesStaySound :
    let s := { boarded with names := named.names, clock := (pulsed false 0).clock }
    s.ListsSound ∧ s.ClockSound ∧ s.NamesSound := by decide +kernel
theorem test_meets_FontsAndHeadsStaySound : headed.FontsSound ∧ headed.HeadsSound ∧ overlaid.HeadsSound :=
  ⟨by decide +kernel, by decide +kernel, by decide +kernel⟩
theorem test_meets_SwapsAreNeverLeft : painted.CompositionsSound ∧ painted.SwapsDone := by decide +kernel
theorem test_meets_OwnershipAndLinkStaySound :
    (sendingAt (.answer 40)).OwnershipSound ∧ (sendingAt (.answer 40)).LinkSound ∧ (standby .waiting).OwnershipSound := by
  decide +kernel
theorem test_meets_BoundsAndLevelsAreKept :
    painted.CountersBounded ∧ painted.feed.Bounded ∧ painted.MgmtSound ∧ painted.LevelsHeld ∧ (frozen 255).MgmtSound := by
  decide +kernel

end Sys2Proof.Tests
end

section
/-! PROOFS. What a command and a step can do, whichever command it is. -/

namespace Sys2Proof.Machine

/-- A command that delivers a frame is the frame received, whatever its row is called (log 1). -/
theorem exec_frame {c : Instr} {k : Kind} {f : FeedFrame} (hc : c.frame = some (k, f)) (s : State) :
    exec c s = live s (fun s => s.receive (frameBody k.code f)) := by
  cases c <;> cases hc <;> rfl

/-- What every command keeps, whatever the queue holds, is kept by a step; an empty queue idles (log 2). -/
theorem step_keeps {P : State → Prop} (hq : ∀ s q, P s → P { s with pending := q })
    (hx : ∀ c s t, P s → exec c s = .next t → P t) {s t : State} (h : P s) (e : step s = .next t) : P t := by
  unfold step at e
  split at e
  · cases e
    exact h
  · exact hx _ _ _ (hq s _ h) e

end Sys2Proof.Machine
end

section
/-! PROOFS. The bounds of the counters, the feed port, the settings and the Freeze count, kept by every operation (R3, R15, R16,
R18, R19, R188, R189). -/

namespace Sys2Proof.Machine

/-- The bounds that speak of the counters, the feed port and Management: nothing else of the state matters to them. -/
def State.Bounded (s : State) : Prop := s.CountersBounded ∧ s.feed.Bounded ∧ s.MgmtSound

/-! ### Counters and events -/

theorem bumpBy_bounded {s : State} (h : s.Bounded) (c : Ctr) (n : Nat) : (s.bumpBy c n).Bounded := by
  refine ⟨fun i => ?_, h.2⟩
  have hi := h.1 i
  simp only [State.bumpBy, Fin.getElem_fin, Vector.getElem_set]
  split
  · exact Nat.min_le_right _ _
  · exact hi

theorem bump_bounded {s : State} (h : s.Bounded) (c : Ctr) : (s.bump c).Bounded := bumpBy_bounded h c 1

theorem bumpAll_bounded (cs : List Ctr) : ∀ {s : State}, s.Bounded → (s.bumpAll cs).Bounded := by
  induction cs with
  | nil => exact fun h => h
  | cons c cs ih => exact fun h => ih (bump_bounded h c)

theorem tally_bounded (l : List (Ctr × Nat)) : ∀ {s : State}, s.Bounded → (s.tally l).Bounded := by
  induction l with
  | nil => exact fun h => h
  | cons p l ih => exact fun h => ih (bumpBy_bounded h p.1 p.2)

theorem clearCounters_bounded {s : State} (h : s.Bounded) : s.clearCounters.Bounded :=
  ⟨fun i => by simp [State.clearCounters], h.2⟩

theorem raise_bounded {s : State} (h : s.Bounded) (e : Event) : (s.raise e).Bounded := h

theorem raiseAll_bounded (es : List Event) : ∀ {s : State}, s.Bounded → (s.raiseAll es).Bounded := by
  induction es with
  | nil => exact fun h => h
  | cons e es ih => exact fun h => ih (raise_bounded h e)

/-! ### Updates of what the bounds do not speak of -/

theorem setHead_bounded {s : State} (h : s.Bounded) (i : HeadIx) (x : Option Head) : (s.setHead i x).Bounded := h

theorem setBuffers_bounded {s : State} (h : s.Bounded) (i : HeadIx) (b : Buffers) : (s.setBuffers i b).Bounded := h

theorem setComp_bounded {s : State} (h : s.Bounded) (i : HeadIx) (c : Option Composition) : (s.setComp i c).Bounded := h

theorem setLinkHead_bounded {s : State} (h : s.Bounded) (i : HeadIx) (l : LinkHead) : (s.setLinkHead i l).Bounded := h

theorem setSending_bounded {s : State} (h : s.Bounded) (f : Option HeadFrame) : (s.setSending f).Bounded := h

theorem setPlo_bounded {s : State} (h : s.Bounded) (out : List Sym) : (s.setPlo out).Bounded := h

theorem setLink_bounded {s : State} (h : s.Bounded) (l : Link) : ({ s with link := l } : State).Bounded := h

theorem setNotices_bounded {s : State} (h : s.Bounded) (n : Bank8 (Option Notice)) :
    ({ s with notices := n } : State).Bounded := h

theorem setClock_bounded {s : State} (h : s.Bounded) (c : Clock) : (s.setClock c).Bounded := h

theorem setBoard_bounded {s : State} (h : s.Bounded) (b : Board) : ({ s with board := b } : State).Bounded := h

theorem headRedefined_bounded {s : State} (h : s.Bounded) (i : HeadIx) : (s.headRedefined i).Bounded := h

theorem leaveRound_bounded {s : State} (h : s.Bounded) (i : HeadIx) : (s.leaveRound i).Bounded := h

theorem freeCount_bounded {s : State} (h : s.Bounded) (n : Nat) : ({ s with freeCount := n } : State).Bounded := h

/-! ### Heads, compositions and buffers -/

theorem onHead_bounded {s : State} (h : s.Bounded) (i : HeadIx) (f : Head → Head) : (s.onHead i f).Bounded := by
  unfold State.onHead
  split <;> exact h

theorem swapIfReady_bounded {s : State} (h : s.Bounded) (i : HeadIx) : (s.swapIfReady i).Bounded := by
  rcases swapIfReady_cases s i with e | e <;> rw [e] <;> exact h

theorem abandon_bounded {s : State} (h : s.Bounded) (i : HeadIx) : (s.abandon i).Bounded := by
  rcases abandon_cases s i with ⟨_, e⟩ | e <;> rw [e] <;> exact h

theorem clearBuffers_bounded {s : State} (h : s.Bounded) (i : HeadIx) : (s.clearBuffers i).Bounded := by
  unfold State.clearBuffers
  split
  · split <;> exact h
  · exact h

/-! ### The Panel Link -/

theorem beginFrame_bounded {s : State} (h : s.Bounded) (i : HeadIx) (x : Head) : (s.beginFrame i x).Bounded := by
  unfold State.beginFrame
  dsimp only
  have hsent := fun l f out => setPlo_bounded (setSending_bounded (setLinkHead_bounded h i l) f) out
  split
  · exact bump_bounded (hsent _ _ _) _
  · exact hsent _ _ _

theorem nextOfRound_bounded (l : List HeadIx) {s : State} (h : s.Bounded) : (s.nextOfRound l).Bounded := by
  induction l with
  | nil => exact setLink_bounded h _
  | cons i l ih =>
    unfold State.nextOfRound
    split
    · exact beginFrame_bounded (setLink_bounded h _) i _
    · exact ih

theorem continueRound_bounded {s : State} (h : s.Bounded) : s.continueRound.Bounded := by
  unfold State.continueRound
  split
  · exact nextOfRound_bounded _ h
  · exact setPlo_bounded h _

theorem endRound_bounded {s : State} (h : s.Bounded) : s.endRound.Bounded := by
  unfold State.endRound
  split
  · exact bumpBy_bounded (setLink_bounded h _) _ _
  · exact setLink_bounded h _
  · exact h

theorem frameRound_bounded {s : State} (h : s.Bounded) : s.frameRound.Bounded := by
  unfold State.frameRound State.beginRound
  dsimp only
  split
  · split
    · exact setLink_bounded (endRound_bounded h) _
    · exact nextOfRound_bounded _ (endRound_bounded h)
  · exact h

theorem loseLink_bounded {s : State} (h : s.Bounded) (o : Ownership) : (s.loseLink o).Bounded :=
  forHeads_keeps (P := State.Bounded) (fun i _ hs => swapIfReady_bounded hs i) (setLink_bounded h _)

theorem lreqSeen_bounded {s : State} (h : s.Bounded) : s.lreqSeen.Bounded := by
  unfold State.lreqSeen
  split
  · split
    · exact h
    · exact loseLink_bounded h _
  · exact h

theorem lreqGone_bounded {s : State} (h : s.Bounded) : s.lreqGone.Bounded := by
  unfold State.lreqGone
  split
  · split <;> exact h
  · exact h

theorem seeActivity_bounded {s : State} (h : s.Bounded) : s.seeActivity.Bounded := by
  unfold State.seeActivity
  split <;> exact h

theorem lgntSeen_bounded {s : State} (h : s.Bounded) : s.lgntSeen.Bounded := by
  unfold State.lgntSeen
  split <;> exact h

theorem windowExpires_bounded {s : State} (h : s.Bounded) : s.windowExpires.Bounded := by
  unfold State.windowExpires
  split
  · split
    · exact h
    · exact bump_bounded h _
  · exact h

theorem takeLinkRequest_bounded {s : State} (h : s.Bounded) : s.takeLinkRequest.1.Bounded := by
  unfold State.takeLinkRequest
  split
  · exact h
  · split <;> exact h

theorem giveLinkRequest_bounded {s : State} (h : s.Bounded) : s.giveLinkRequest.1.Bounded := by
  unfold State.giveLinkRequest
  split
  · exact h
  · split
    · split
      · exact h
      · dsimp only
        exact loseLink_bounded h _
    all_goals exact h

theorem afterFrame_bounded {s : State} (h : s.Bounded) : s.afterFrame.Bounded := by
  unfold State.afterFrame
  split
  · exact loseLink_bounded h _
  · split
    · exact loseLink_bounded h _
    · exact continueRound_bounded h

theorem endFrame_bounded {s : State} (h : s.Bounded) (f : HeadFrame) (e : FrameEnd) : (s.endFrame f e).Bounded := by
  have hcount : (s.bumpOpt e.counter).Bounded := by
    unfold State.bumpOpt
    split
    · exact bump_bounded h _
    · exact h
  unfold State.endFrame
  dsimp only
  refine afterFrame_bounded (swapIfReady_bounded (setBuffers_bounded (setSending_bounded ?_ _) _ _) _)
  split
  · exact hcount
  · exact setLinkHead_bounded hcount _ _

theorem takeAck_bounded {s : State} (h : s.Bounded) (head ambient : Byte) : (s.takeAck head ambient).Bounded := by
  unfold State.takeAck
  split
  · split
    · exact endFrame_bounded h _ _
    · exact bump_bounded h _
  · exact bump_bounded h _

theorem takeNak_bounded {s : State} (h : s.Bounded) (head code : Byte) : (s.takeNak head code).Bounded := by
  unfold State.takeNak
  split
  · split
    · exact endFrame_bounded h _ _
    · exact bump_bounded h _
  · exact bump_bounded h _

theorem takeAnswer_bounded {s : State} (h : s.Bounded) (a : Option Answer) : (s.takeAnswer a).Bounded := by
  unfold State.takeAnswer
  split
  · exact takeAck_bounded h _ _
  · exact takeNak_bounded h _ _
  · exact bump_bounded h _

theorem takeAnswers_bounded (l : List (Option Answer)) : ∀ {s : State}, s.Bounded →
    (l.foldl State.takeAnswer s).Bounded := by
  induction l with
  | nil => exact fun h => h
  | cons a l ih => exact fun h => ih (takeAnswer_bounded h a)

theorem takeGroups_bounded {s : State} (h : s.Bounded) (groups : List (BitVec 5)) : (s.takeGroups groups).Bounded := by
  unfold State.takeGroups
  refine takeAnswers_bounded _ ?_
  split
  · exact seeActivity_bounded h
  · exact h

theorem ackTimesOut_bounded {s : State} (h : s.Bounded) : s.ackTimesOut.Bounded := by
  unfold State.ackTimesOut
  split
  · exact endFrame_bounded h _ _
  · exact h

theorem testHold_bounded {s : State} (h : s.Bounded) (f : HeadFrame) (y : Nat) (holdn : Bool) :
    (s.testHold f y holdn).Bounded := by
  unfold State.testHold
  split <;> exact h

theorem headerDone_bounded {s : State} (h : s.Bounded) (holdn : Bool) : (s.headerDone holdn).Bounded := by
  unfold State.headerDone
  split
  · split
    · exact testHold_bounded h _ _ _
    all_goals exact h
  · exact h

theorem rowDone_bounded {s : State} (h : s.Bounded) (holdn : Bool) : (s.rowDone holdn).Bounded := by
  unfold State.rowDone
  split
  · split
    · split
      · exact testHold_bounded h _ _ _
      · exact h
    all_goals exact h
  · exact h

theorem holdReleased_bounded {s : State} (h : s.Bounded) : s.holdReleased.Bounded := by
  unfold State.holdReleased
  split
  · split <;> exact h
  · exact h

theorem holdExpires_bounded {s : State} (h : s.Bounded) : s.holdExpires.Bounded := by
  unfold State.holdExpires
  split
  · split
    · exact endFrame_bounded h _ _
    all_goals exact h
  · exact h

theorem putBrightness_bounded {s : State} (h : s.Bounded) (p : List Byte) : (s.putBrightness p).1.Bounded := by
  unfold State.putBrightness
  split <;> exact h

/-! ### Layout and Page Control -/

theorem takeHead_bounded {s : State} (h : s.Bounded) (i slot : HeadIx) (x : Head) : (s.takeHead i slot x).Bounded := by
  unfold State.takeHead
  have htaken : ((s.setHead i (some (x.startOverlay slot))).nextOverlayNumber i).Bounded :=
    setHead_bounded h i (some (x.startOverlay slot))
  dsimp only
  split
  · exact abandon_bounded htaken i
  · split
    · exact htaken
    · exact bump_bounded htaken _

theorem releaseHead_bounded {s : State} (h : s.Bounded) (slot i : HeadIx) : (s.releaseHead slot i).Bounded := by
  unfold State.releaseHead
  split
  · split
    · exact abandon_bounded (setHead_bounded h i _) i
    · exact h
  · exact h

theorem emptyNotice_bounded {s : State} (h : s.Bounded) (slot : HeadIx) : (s.emptyNotice slot).Bounded :=
  forHeads_keeps (P := State.Bounded) (fun i _ hs => releaseHead_bounded hs slot i) (setNotices_bounded h _)

theorem noticeOnHead_bounded {s : State} (h : s.Bounded) (slot : HeadIx) (n : Notice) (i : HeadIx) :
    (s.noticeOnHead slot n i).Bounded := by
  unfold State.noticeOnHead
  split
  · split
    · exact takeHead_bounded h _ _ _
    · exact releaseHead_bounded h _ _
  · exact h

theorem defineHead_bounded {s : State} (h : s.Bounded) (i : HeadIx) (d : HeadData) : (s.defineHead i d).Bounded := by
  unfold State.defineHead
  split
  · exact setHead_bounded h i _
  · split
    · exact setHead_bounded h i _
    · exact clearBuffers_bounded (abandon_bounded (setHead_bounded h i _) i) i

theorem putHead_bounded {s : State} (h : s.Bounded) (p : List Byte) : (s.putHead p).1.Bounded := by
  unfold State.putHead
  split
  · exact h
  · exact headRedefined_bounded (defineHead_bounded h _ _) _

theorem dropHead_bounded {s : State} (h : s.Bounded) (p : List Byte) : (s.dropHead p).1.Bounded := by
  unfold State.dropHead
  split
  · exact h
  · split
    · exact h
    · split
      · exact h
      · exact leaveRound_bounded (headRedefined_bounded (clearBuffers_bounded
          (abandon_bounded (setHead_bounded h _ _) _) _) _) _

theorem putField_bounded {s : State} (h : s.Bounded) (p : List Byte) : (s.putField p).1.Bounded := by
  unfold State.putField
  split
  · exact h
  · split <;> exact h

theorem dropField_bounded {s : State} (h : s.Bounded) (p : List Byte) : (s.dropField p).1.Bounded := by
  unfold State.dropField
  split
  · exact h
  · split
    · exact h
    · split
      · exact h
      · split <;> exact h

theorem advancePages_bounded {s : State} (h : s.Bounded) (mask : Byte) : (s.advancePages mask).1.Bounded := by
  unfold State.advancePages
  split
  · refine forHeads_keeps (P := State.Bounded) (fun i t ht => ?_) h
    split
    · exact onHead_bounded ht _ _
    · exact ht
  · exact h

theorem noticeFrame_bounded {s : State} (h : s.Bounded) (p : List Byte) : (s.noticeFrame p).1.Bounded := by
  unfold State.noticeFrame State.appendNotice State.putNotice
  split
  · split
    · exact h
    · split
      · exact h
      · split <;> exact h
  · split
    · exact h
    · exact forHeads_keeps (P := State.Bounded) (fun i _ hs => noticeOnHead_bounded hs _ _ i) (setNotices_bounded h _)

theorem clearNotice_bounded {s : State} (h : s.Bounded) (p : List Byte) : (s.clearNotice p).1.Bounded := by
  unfold State.clearNotice
  split
  · exact h
  · split
    · exact h
    · split
      · exact h
      · exact emptyNotice_bounded h _

theorem countDwellOf_bounded {s : State} (h : s.Bounded) (i : HeadIx) : (s.countDwellOf i).Bounded := onHead_bounded h _ _

theorem countHoldOf_bounded {s : State} (h : s.Bounded) (i : HeadIx) : (s.countHoldOf i).Bounded := by
  unfold State.countHoldOf
  split
  · dsimp only
    split
    · exact bump_bounded (setHead_bounded h i _) _
    · exact setHead_bounded h i _
  · exact h

theorem dwellSecond_bounded {s : State} (h : s.Bounded) : s.dwellSecond.Bounded := by
  refine forHeads_keeps (P := State.Bounded) (fun i t ht => ?_) h
  split
  · exact countDwellOf_bounded ht i
  · exact ht

theorem holdSecond_bounded {s : State} (h : s.Bounded) : s.holdSecond.Bounded := by
  refine forHeads_keeps (P := State.Bounded) (fun i t ht => ?_) h
  split
  · exact countHoldOf_bounded ht i
  · exact ht

theorem pageSecond_bounded {s : State} (h : s.Bounded) : s.pageSecond.Bounded := by
  refine forHeads_keeps (P := State.Bounded) (fun i t ht => ?_) h
  split
  · exact countDwellOf_bounded ht i
  · split
    · exact countHoldOf_bounded ht i
    · exact ht

theorem countNotice_bounded {s : State} (h : s.Bounded) (slot : HeadIx) : (s.countNotice slot).Bounded := by
  unfold State.countNotice
  split
  · split
    · split
      · exact emptyNotice_bounded h slot
      · exact h
    · exact h
  · exact h

theorem noticeSecond_bounded {s : State} (h : s.Bounded) : s.noticeSecond.Bounded :=
  forHeads_keeps (P := State.Bounded) (fun i _ hs => countNotice_bounded hs i) h

theorem layoutSecond_bounded {s : State} (h : s.Bounded) : s.layoutSecond.Bounded := by
  unfold State.layoutSecond
  split
  · exact h
  · exact noticeSecond_bounded (pageSecond_bounded h)

/-- What is paused while frozen keeps the bounds if it does when it runs (R134). -/
theorem unlessFrozen_bounded {s : State} (h : s.Bounded) {f : State → State} (hf : s.Bounded → (f s).Bounded) :
    (if s.mgmt.frozen then s else f s).Bounded := by
  split
  · exact h
  · exact hf h

/-! ### The Composer -/

theorem paintField_bounded {s : State} (h : s.Bounded) (i : HeadIx) (x : Head) (snap : Snapshot) (idx : Nat)
    (r : FieldRecord) : (s.paintField i x snap idx r).Bounded := by
  unfold State.paintField
  dsimp only
  split
  · exact h
  · exact bumpBy_bounded (tally_bounded _ (setBuffers_bounded (setHead_bounded h i _) i _)) _ _

theorem paintOverlay_bounded {s : State} (h : s.Bounded) (i : HeadIx) (x : Head) (slot : HeadIx) (n : Nat) :
    (s.paintOverlay i x slot n).Bounded := by
  unfold State.paintOverlay
  dsimp only
  split
  · exact h
  · exact bumpBy_bounded (tally_bounded _ (setBuffers_bounded (setHead_bounded h i _) i _)) _ _

theorem completeComp_bounded {s : State} (h : s.Bounded) (i : HeadIx) : (s.completeComp i).Bounded :=
  swapIfReady_bounded (setBuffers_bounded (setComp_bounded h i _) i _) i

theorem startComp_bounded {s : State} (h : s.Bounded) (i : HeadIx) (x : Head) : (s.startComp i x).Bounded := by
  unfold State.startComp
  have hstarted := fun x b c => setComp_bounded (setBuffers_bounded (setHead_bounded h i x) i b) i c
  dsimp only
  split
  · exact completeComp_bounded (paintOverlay_bounded (hstarted _ _ _) _ _ _ _) i
  · split
    · exact completeComp_bounded (hstarted _ _ _) i
    · exact hstarted _ _ _

theorem composeHead_bounded {s : State} (h : s.Bounded) (i : HeadIx) : (s.composeHead i).Bounded := by
  unfold State.composeHead
  split
  · split
    · exact bump_bounded h _
    · exact startComp_bounded h i _
  · exact h

theorem paintNext_bounded {s : State} (h : s.Bounded) (i : HeadIx) : (s.paintNext i).Bounded := by
  unfold State.paintNext
  split
  · split
    · exact completeComp_bounded (paintOverlay_bounded h _ _ _ _) i
    · split
      · have hp := fun x snap idx r c => setComp_bounded (paintField_bounded h i x snap idx r) i c
        unfold State.completeIfLast
        split
        · split
          · exact completeComp_bounded (hp _ _ _ _ _) i
          · exact hp _ _ _ _ _
        · exact hp _ _ _ _ _
      · exact completeComp_bounded h i
  · exact h

theorem frameCompose_bounded {s : State} (h : s.Bounded) : s.frameCompose.Bounded := by
  unfold State.frameCompose
  split
  · exact h
  · exact forHeads_keeps (P := State.Bounded) (fun i _ hs => composeHead_bounded hs i)
      (forHeads_keeps (P := State.Bounded) (fun _ _ hs => onHead_bounded hs _ _) h)

theorem frameEvent_bounded {s : State} (h : s.Bounded) : s.frameEvent.Bounded := by
  have hperiod := setLink_bounded h { s.link with period := s.mgmt.settings.framePeriod }
  unfold State.frameEvent
  dsimp only
  split
  · have hchoice := freeCount_bounded hperiod (s.freeCount + 1)
    split
    · exact frameRound_bounded (frameCompose_bounded hchoice)
    · exact frameCompose_bounded (frameRound_bounded hchoice)
  · exact frameRound_bounded (frameCompose_bounded hperiod)

theorem frameTimer_bounded {s : State} (h : s.Bounded) : s.frameTimer.Bounded := by
  unfold State.frameTimer
  split
  · exact frameEvent_bounded h
  · exact h

theorem fsyncEdge_bounded {s : State} (h : s.Bounded) : s.fsyncEdge.Bounded := by
  unfold State.fsyncEdge
  split
  · exact h
  all_goals exact frameEvent_bounded (setLink_bounded h _)

theorem fsyncWatch_bounded {s : State} (h : s.Bounded) : s.fsyncWatch.Bounded := by
  unfold State.fsyncWatch
  split
  · exact h
  · exact h
  · exact setLink_bounded h _
  · exact frameEvent_bounded (setLink_bounded h _)

/-! ### Second events and the clock -/

theorem departureSecond_bounded {s : State} (h : s.Bounded) (second : Bool) (expiry : Option Nat) :
    (s.departureSecond second expiry).Bounded := bumpBy_bounded (setBoard_bounded h _) _ _

theorem buildSecond_bounded {s : State} (h : s.Bounded) : s.buildSecond.Bounded := bumpBy_bounded (setBoard_bounded h _) _ _

/-- The Freeze count is 0 when the part thaws, and stays above 0 until then (R189). -/
theorem freezeSecond_bounded {s : State} (h : s.Bounded) : s.freezeSecond.Bounded := by
  obtain ⟨hc, hf, hset, hmax, hz⟩ := h
  unfold State.freezeSecond
  split
  · next hfrozen =>
    split
    · exact ⟨hc, hf, hset, Nat.zero_le _, by simp [State.raise, State.thaw]⟩
    · next hleft =>
      refine ⟨hc, hf, hset, ?_, ?_⟩
      · show s.mgmt.freezeRemaining - 1 ≤ 255
        omega
      · show s.mgmt.frozen = true ↔ s.mgmt.freezeRemaining - 1 ≠ 0
        exact ⟨fun _ => by omega, fun _ => hfrozen⟩
  · exact ⟨hc, hf, hset, hmax, hz⟩

theorem share_bounded {s : State} (h : s.Bounded) (expiry : Option Nat) (x : Share) : (Share.act expiry s x).Bounded := by
  cases x with
  | departures => exact departureSecond_bounded h _ _
  | builds => exact buildSecond_bounded h
  | layout => exact layoutSecond_bounded h
  | link => exact h
  | freeze => exact freezeSecond_bounded h

theorem shares_bounded (expiry : Option Nat) (l : List Share) : ∀ {s : State}, s.Bounded →
    (l.foldl (Share.act expiry) s).Bounded := by
  induction l with
  | nil => exact fun h => h
  | cons x l ih => exact fun h => ih (share_bounded h expiry x)

theorem secondEvent_bounded {s : State} (h : s.Bounded) (expiry : Option Nat) : (s.secondEvent expiry).Bounded := by
  unfold State.secondEvent
  split
  · exact shares_bounded _ _ (freeCount_bounded h _)
  · exact shares_bounded _ _ h

theorem advanceClock_bounded {s : State} (h : s.Bounded) : s.advanceClock.Bounded :=
  secondEvent_bounded (setClock_bounded h _) _

theorem internalTick_bounded {s : State} (h : s.Bounded) : s.internalTick.Bounded := by
  unfold State.internalTick
  split
  · exact advanceClock_bounded h
  · exact h

theorem secpEdge_bounded {s : State} (h : s.Bounded) (micros : Nat) : (s.secpEdge micros).Bounded := by
  unfold State.secpEdge
  split
  · exact h
  · dsimp only
    split
    · exact advanceClock_bounded (setClock_bounded h _)
    · exact setClock_bounded h _

theorem watchExpires_bounded {s : State} (h : s.Bounded) : s.watchExpires.Bounded := by
  unfold State.watchExpires
  split
  · exact advanceClock_bounded (advanceClock_bounded (setClock_bounded h _))
  · exact h

theorem scheduledTick_bounded {s : State} (h : s.Bounded) : s.scheduledTick.Bounded := by
  unfold State.scheduledTick
  split
  · exact advanceClock_bounded (setClock_bounded h _)
  · exact h

theorem timeFrame_bounded {s : State} (h : s.Bounded) (p : List Byte) : (s.timeFrame p).1.Bounded := by
  unfold State.timeFrame
  split
  · exact h
  · dsimp only
    split
    · exact departureSecond_bounded (setClock_bounded h _) _ _
    · exact setClock_bounded h _

/-! ### Resets -/

/-- The default settings are in their ranges, and the part is not frozen (R188, R193). -/
theorem mgmtAfterReset_sound : Mgmt.afterReset.settings.InRange ∧ Mgmt.afterReset.freezeRemaining ≤ 255 ∧
    (Mgmt.afterReset.frozen = true ↔ Mgmt.afterReset.freezeRemaining ≠ 0) := by decide

/-- A Restart empties the port and sets Management to its reset values (R21, R192). -/
theorem restart_bounded {s : State} (h : s.Bounded) : s.restart.Bounded := by
  obtain ⟨_, ⟨_, _, _, _, haddr, hzone, hgroup⟩, _⟩ := h
  refine ⟨fun i => ?_, ⟨Nat.zero_le _, fun _ => rfl, Nat.zero_le _, Nat.zero_le _, haddr, hzone, hgroup⟩, ?_⟩
  · simp [State.restart]
  · exact mgmtAfterReset_sound

/-- A hard reset empties the port; address, zone and group stay until its end (R20). -/
theorem hold_bounded {s : State} (h : s.Bounded) : s.hold.Bounded := by
  obtain ⟨hc, ⟨_, _, _, _, haddr, hzone, hgroup⟩, hm⟩ := h
  exact ⟨hc, ⟨Nat.zero_le _, fun _ => rfl, Nat.zero_le _, Nat.zero_le _, haddr, hzone, hgroup⟩, hm⟩

/-- Each counter cleared is 0, and the others stay. -/
theorem clear_foldl_bounded (l : List Ctr) : ∀ v : Vector Nat 40, (∀ i : Fin 40, v[i] ≤ Config.counterMax) →
    ∀ i : Fin 40, (l.foldl (fun v c => v.set c.index 0) v)[i] ≤ Config.counterMax := by
  induction l with
  | nil => exact fun _ h => h
  | cons c l ih =>
    refine fun v h => ih _ fun i => ?_
    have hi := h i
    simp only [Fin.getElem_fin, Vector.getElem_set]
    split
    · exact Nat.zero_le _
    · exact hi

theorem clearFeedCounters_bounded {s : State} (h : s.Bounded) : s.clearFeedCounters.Bounded :=
  ⟨clear_foldl_bounded feedCounters s.counters h.1, h.2⟩

/-- The state at the end of a hard reset: the address is one of the sixteen of the ADR strap (R20, R193). -/
theorem afterReset_bounded (straps : Straps) (lreq : Bool) (serial : BitVec 48) :
    (State.afterReset straps lreq serial).Bounded := by
  refine ⟨fun i => by simp [State.afterReset], ⟨Nat.zero_le _, fun _ => rfl, Nat.zero_le _, Nat.zero_le _, ?_,
    Nat.zero_le _, Nat.zero_le _⟩, mgmtAfterReset_sound⟩
  show straps.adr.val ≤ 120
  omega

/-! ### Settings -/

theorem clamp_bounds {lo hi : Nat} (h : lo ≤ hi) (v : Nat) : lo ≤ clamp lo hi v ∧ clamp lo hi v ≤ hi := by
  unfold clamp
  split
  · exact ⟨Nat.le_refl _, h⟩
  · split
    · exact ⟨h, Nat.le_refl _⟩
    · exact ⟨by omega, by omega⟩

theorem setSettings_bounded {s : State} (h : s.Bounded) {x : Settings} (hx : x.InRange) : (s.setSettings x).Bounded :=
  ⟨h.1, h.2.1, hx, h.2.2.2⟩

/-- A numeric setting is clamped to its range (R188). -/
theorem setNumber_bounded {s : State} (h : s.Bounded) {lo hi : Nat} (hlo : lo ≤ hi) (v : Nat) {put : Settings → Nat → Settings}
    (hput : ∀ n, lo ≤ n → n ≤ hi → (put s.mgmt.settings n).InRange) : (s.setNumber lo hi v put).1.Bounded :=
  setSettings_bounded h (hput _ (clamp_bounds hlo v).1 (clamp_bounds hlo v).2)

theorem setOwnPlatform_bounded {s : State} (h : s.Bounded) (v : Nat) : (s.setOwnPlatform (ownPlatformOf v)).Bounded := by
  obtain ⟨_, _, hr⟩ := h.2.2.1
  obtain ⟨hlo, hhi⟩ := clamp_bounds (by decide : 1 ≤ 99) (v / 256)
  have hx : { s.mgmt.settings with ownPlatform := ownPlatformOf v }.InRange := ⟨hlo, hhi, hr⟩
  unfold State.setOwnPlatform
  split
  · exact h
  · exact setBoard_bounded (setSettings_bounded h hx) _

theorem setDayStart_bounded {s : State} (h : s.Bounded) {d : Nat} (hd : d ≤ 1439) : (s.setDayStart d).Bounded := by
  obtain ⟨hp, hp', _, hr⟩ := h.2.2.1
  have hx : { s.mgmt.settings with dayStart := d }.InRange := ⟨hp, hp', hd, hr⟩
  unfold State.setDayStart
  split
  · exact h
  · exact setBoard_bounded (setSettings_bounded h hx) _

theorem setSyncSource_bounded {s : State} (h : s.Bounded) (x : SyncSource) : (s.setSyncSource x).Bounded := by
  unfold State.setSyncSource
  split
  · exact h
  · exact setLink_bounded (setSettings_bounded h h.2.2.1) _

/-- Every pair of a Configure leaves its setting in its range (R188). -/
theorem applySetting_bounded {s : State} (h : s.Bounded) (n v : Nat) : (s.applySetting n v).1.Bounded := by
  obtain ⟨hc, ⟨hbuf, hempty, hq, hw, haddr, hzone, hgroup⟩, hr, hz⟩ := id h
  unfold State.applySetting
  split
  case h_1 => exact ⟨hc, ⟨hbuf, hempty, hq, hw, haddr, Nat.min_le_right _ _, hgroup⟩, hr, hz⟩
  case h_2 => exact ⟨hc, ⟨hbuf, hempty, hq, hw, haddr, hzone, Nat.min_le_right _ _⟩, hr, hz⟩
  case h_3 => exact setOwnPlatform_bounded h v
  case h_4 => exact setDayStart_bounded h (Nat.min_le_right _ _)
  case h_13 => exact setSettings_bounded h hr
  case h_14 =>
    refine setSettings_bounded h ?_
    dsimp only [Settings.InRange] at hr ⊢
    split <;> omega
  case h_15 => exact setSyncSource_bounded h _
  case h_18 => exact h
  all_goals
    refine setNumber_bounded h (by decide) v fun n hlo hhi => ?_
    dsimp only [Settings.InRange] at hr ⊢
    omega

theorem applyPairs_bounded {s : State} (h : s.Bounded) (l : List (Nat × Nat)) : (s.applyPairs l).1.Bounded := by
  unfold State.applyPairs
  suffices H : ∀ r : State × Bool, r.1.Bounded →
      (l.foldl (fun r p => ((r.1.applySetting p.1 p.2).1, r.2 || (r.1.applySetting p.1 p.2).2)) r).1.Bounded from
    H (s, false) h
  induction l with
  | nil => exact fun _ hr => hr
  | cons p l ih => exact fun r hr => ih _ (applySetting_bounded hr p.1 p.2)

theorem configure_bounded {s : State} (h : s.Bounded) (p : List Byte) : (s.configure p).1.Bounded := by
  unfold State.configure
  split
  · exact h
  · exact applyPairs_bounded h _

/-! ### Management -/

/-- An address assigned is 1..120 (R191). -/
theorem assignAddress_bounded {s : State} (h : s.Bounded) (x : Header) : (s.assignAddress x).1.Bounded := by
  obtain ⟨hc, ⟨hbuf, hempty, hq, hw, _, hzone, hgroup⟩, hm⟩ := id h
  unfold State.assignAddress
  split
  · exact h
  · split
    · split
      · next ha => exact ⟨hc, ⟨hbuf, hempty, hq, hw, ha.2, hzone, hgroup⟩, hm⟩
      · exact h
    · exact h

/-- A Freeze takes the Freeze Timeout, which is 1..255, as its count (R188, R189). -/
theorem freeze_bounded {s : State} (h : s.Bounded) : s.freeze.1.Bounded := by
  obtain ⟨hc, hf, hr, _, _⟩ := h
  refine ⟨hc, hf, hr, ?_, ?_⟩
  · show s.mgmt.settings.freezeTimeout ≤ 255
    omega
  · show true = true ↔ s.mgmt.settings.freezeTimeout ≠ 0
    exact ⟨fun _ => by omega, fun _ => rfl⟩

theorem unfreeze_bounded {s : State} (h : s.Bounded) : s.unfreeze.1.Bounded := by
  obtain ⟨hc, hf, hr, _, _⟩ := id h
  unfold State.unfreeze
  split
  · exact ⟨hc, hf, hr, Nat.zero_le _, by simp [State.thaw]⟩
  · exact h

theorem request_bounded {s : State} (h : s.Bounded) (x : Header) (n : Nat) {act : State → State × OutcomeCode}
    (hact : (act s).1.Bounded) : (s.request x n act).1.Bounded := by
  unfold State.request
  split
  · exact hact
  · exact h

theorem fill_bounded (l : List (Option Byte)) : ∀ {s : State}, s.Bounded → (s.fill l).2.Bounded := by
  induction l with
  | nil => exact fun h => h
  | cons b l ih =>
    intro s h
    cases b with
    | none => exact ih (freeCount_bounded h _)
    | some b => exact ih h

theorem counterRead_bounded {s : State} (h : s.Bounded) (x : Header) : (s.counterRead x).1.Bounded := by
  unfold State.counterRead
  split
  · dsimp only
    split
    · exact clearCounters_bounded h
    · exact h
  · exact h

theorem readRequest_bounded {s : State} (h : s.Bounded) (a : ReadAnswer) : (s.readRequest a).1.Bounded :=
  fill_bounded _ (s := { s with mgmt := { s.mgmt with readPtr := a.pointer } }) h

theorem restartRequest_bounded {s : State} (h : s.Bounded) (x : Header) : (s.restartRequest x).1.Bounded := by
  unfold State.restartRequest
  split
  · exact h
  · split
    · exact h
    · exact restart_bounded h

theorem manage_bounded {s : State} (h : s.Bounded) (x : Header) (k : Kind) : (s.manage x k).1.Bounded := by
  cases k
  case statusQuery => exact fill_bounded _ h
  case counterRead => exact counterRead_bounded h x
  case eventClear => exact request_bounded h x 1 h
  case eventEnable => exact request_bounded h x 1 h
  case configure => exact configure_bounded h _
  case freeze => exact request_bounded h x 0 (freeze_bounded h)
  case unfreeze => exact request_bounded h x 0 (unfreeze_bounded h)
  case advance => exact request_bounded h x 1 (advancePages_bounded h _)
  case blank => exact request_bounded h x 1 h
  case unblank => exact request_bounded h x 1 h
  case takeLink => exact request_bounded h x 0 (takeLinkRequest_bounded h)
  case giveLink => exact request_bounded h x 0 (giveLinkRequest_bounded h)
  case readBack => exact readRequest_bounded h _
  case readNext => exact readRequest_bounded h _
  case addressAssign => exact assignAddress_bounded h x
  case restart => exact restartRequest_bounded h x
  all_goals exact h

/-! ### The owners of the data kinds -/

theorem takeBoard_bounded {s : State} (h : s.Bounded) (r : BoardResult) : (s.takeBoard r).1.Bounded :=
  raiseAll_bounded _ (bumpAll_bounded _ (setBoard_bounded h _))

theorem takeNames_bounded {s : State} (h : s.Bounded) (r : NameResult) : (s.takeNames r).1.Bounded :=
  bumpAll_bounded _ (s := { s with names := { s.names with table := r.table } }) h

theorem own_bounded {s : State} (h : s.Bounded) (p : List Byte) (k : Kind) : (s.own p k).1.Bounded := by
  cases k
  case departurePut | departureAmend | departureRemove | stops | stopAmend => exact takeBoard_bounded h _
  case namePut | nameDrop | namesClear => exact takeNames_bounded h _
  case noticePut => exact noticeFrame_bounded h p
  case noticeClear => exact clearNotice_bounded h p
  case timeSet => exact timeFrame_bounded h p
  case headDefine => exact putHead_bounded h p
  case headDrop => exact dropHead_bounded h p
  case fieldPut => exact putField_bounded h p
  case fieldDrop => exact dropField_bounded h p
  case brightnessTablePut => exact putBrightness_bounded h p
  all_goals exact h

/-! ### The port -/

/-- The reply-wait count rises only from below 4 (R16). -/
theorem select_bounded {f : Feed} (h : f.Bounded) : f.select.Bounded := by
  obtain ⟨hbuf, hempty, hq, hw, haddr, hzone, hgroup⟩ := id h
  obtain ⟨erx, ebuf, eq, _, eaddr, ezone, egroup⟩ := select_frame f
  refine ⟨by rwa [ebuf], by rwa [erx, ebuf], by rwa [eq], ?_, by rwa [eaddr], by rwa [ezone], by rwa [egroup]⟩
  unfold Feed.select Feed.sendForward Feed.sendReply
  split
  · split
    · split
      · exact Nat.zero_le _
      · dsimp only
        split <;> omega
    · exact Nat.zero_le _
    · next hs _ => simpa [hs] using hw
    · exact hw
  all_goals exact hw

theorem setFeed_bounded {s : State} (h : s.Bounded) {f : Feed} (hf : f.Bounded) : (s.setFeed f).Bounded :=
  ⟨h.1, hf, h.2.2⟩

/-- A frame is queued only where the Forward Queue has a place (R15). -/
theorem forward_bounded {s : State} (h : s.Bounded) (body : List Byte) (x : Header) : (s.forward body x).Bounded := by
  obtain ⟨hbuf, hempty, _, hrest⟩ := h.2.1
  unfold State.forward State.enqueue
  split
  · exact bump_bounded h _
  · split
    · next hroom =>
      have hqueued : Feed.Bounded { s.feed with queue := s.feed.queue ++ [forwardBody body] } :=
        ⟨hbuf, hempty, by simpa using hroom, hrest⟩
      exact bump_bounded (setFeed_bounded h (select_bounded hqueued)) _
    · exact bump_bounded h _

theorem offerReply_bounded {s : State} (h : s.Bounded) (tag : Byte) (r : Reply) : (s.offerReply tag r).Bounded := by
  rcases offerReply_cases s tag r with ⟨_, e⟩ | ⟨_, e⟩ <;> rw [e]
  · exact setFeed_bounded h (select_bounded h.2.1)
  · exact bump_bounded h _

theorem offerOpt_bounded {s : State} (h : s.Bounded) (tag : Byte) (r : Option Reply) : (s.offerOpt tag r).Bounded := by
  cases r with
  | none => exact h
  | some r => exact offerReply_bounded h tag r

theorem handData_bounded {s : State} (h : s.Bounded) (k : Kind) (x : Header) (reply : Bool) :
    (s.handData k x reply).Bounded := by
  have howned := own_bounded (bump_bounded h .framesActedOn) x.payload k
  unfold State.handData
  dsimp only
  split
  · exact offerReply_bounded howned _ _
  · exact howned

theorem handManagement_bounded {s : State} (h : s.Bounded) (k : Kind) (x : Header) : (s.handManagement k x).Bounded := by
  unfold State.handManagement
  split
  · exact bump_bounded h _
  · exact offerOpt_bounded (manage_bounded (bump_bounded h _) x k) _ _

theorem disposeData_bounded {s : State} (h : s.Bounded) (k : Kind) (body : List Byte) (x : Header) :
    (s.disposeData k body x).Bounded := by
  unfold State.disposeData
  split
  · exact handData_bounded h _ _ _
  · split
    · exact forward_bounded (handData_bounded h _ _ _) _ _
    · exact forward_bounded h _ _

theorem disposeManagement_bounded {s : State} (h : s.Bounded) (k : Kind) (body : List Byte) (x : Header) :
    (s.disposeManagement k body x).Bounded := by
  unfold State.disposeManagement
  split
  · exact handManagement_bounded h _ _
  · split
    · split
      · exact forward_bounded (handManagement_bounded h _ _) _ _
      · exact forward_bounded h _ _
    · split
      · exact forward_bounded (bump_bounded h _) _ _
      · exact forward_bounded h _ _

theorem unknownKind_bounded {s : State} (h : s.Bounded) (body : List Byte) (x : Header) :
    (s.unknownKind body x).Bounded := by
  have hsent := forward_bounded (bump_bounded h .unknownKind) body x
  unfold State.unknownKind
  dsimp only
  split
  · exact offerReply_bounded hsent _ _
  · exact hsent

theorem dispose_bounded {s : State} (h : s.Bounded) (body : List Byte) (x : Header) : (s.dispose body x).Bounded := by
  unfold State.dispose
  split
  · exact forward_bounded h _ _
  · split
    · exact unknownKind_bounded h _ _
    · split
      · exact disposeData_bounded h _ _ _
      · exact disposeManagement_bounded h _ _ _

theorem arrive_bounded {s : State} (h : s.Bounded) (body : List Byte) : (s.arrive body).Bounded := by
  unfold State.arrive
  split
  · exact bump_bounded h _
  · split
    · exact raise_bounded (bump_bounded h _) _
    · split
      · exact bump_bounded h _
      · split
        · exact dispose_bounded (bump_bounded h _) _ _
        · exact bump_bounded h _

/-- The receiver's buffer holds at most 256 bytes, and none outside BODY (R3; log 15). -/
theorem setRx_bounded {s : State} (h : s.Bounded) {rx : RxState} {buffer : List Byte}
    (hlen : buffer.length ≤ Config.maxBody) (hempty : rx ≠ .body → buffer = []) : (s.setRx rx buffer).Bounded :=
  ⟨h.1, ⟨hlen, hempty, h.2.1.2.2⟩, h.2.2⟩

theorem setRx_nil_bounded {s : State} (h : s.Bounded) (rx : RxState) : (s.setRx rx []).Bounded :=
  setRx_bounded h (Nat.zero_le _) fun _ => rfl

theorem rxIdle_bounded {s : State} (h : s.Bounded) : s.rxIdle.Bounded := by
  unfold State.rxIdle
  split
  · exact setRx_nil_bounded h _
  · exact setRx_nil_bounded h _
  · exact bump_bounded (setRx_nil_bounded h _) _

theorem rxSync_bounded {s : State} (h : s.Bounded) : s.rxSync.Bounded := by
  unfold State.rxSync
  split
  · exact h
  · exact setRx_nil_bounded h _
  · exact bump_bounded (setRx_nil_bounded h _) _

theorem rxData_bounded {s : State} (h : s.Bounded) (b : Byte) : (s.rxData b).Bounded := by
  unfold State.rxData
  split
  · exact h
  · exact h
  · split
    · next hroom =>
      refine setRx_bounded h ?_ fun hb => absurd rfl hb
      simpa using hroom
    · exact bump_bounded (setRx_nil_bounded h _) _

theorem rxInvalid_bounded {s : State} (h : s.Bounded) : s.rxInvalid.Bounded := by
  unfold State.rxInvalid
  split
  · exact h
  · exact h
  · exact bump_bounded (setRx_nil_bounded h _) _

theorem rxEnd_bounded {s : State} (h : s.Bounded) : s.rxEnd.Bounded := by
  unfold State.rxEnd
  split
  · exact h
  · exact h
  · exact arrive_bounded (setRx_nil_bounded h _) _

theorem receive_bounded {s : State} (h : s.Bounded) (body : List Byte) : (s.receive body).Bounded := by
  suffices H : ∀ {t : State}, t.Bounded → (body.foldl State.rxData t).Bounded from rxEnd_bounded (H (rxSync_bounded h))
  induction body with
  | nil => exact fun ht => ht
  | cons b body ih => exact fun ht => ih (rxData_bounded ht b)

theorem forwardSent_bounded {s : State} (h : s.Bounded) : s.forwardSent.Bounded := by
  obtain ⟨hbuf, hempty, hq, hrest⟩ := h.2.1
  unfold State.forwardSent
  split
  · refine setFeed_bounded h ⟨hbuf, hempty, ?_, hrest⟩
    dsimp only
    split
    · exact Nat.le_trans (by simp) hq
    · exact hq
  all_goals exact h

theorem replySent_bounded {s : State} (h : s.Bounded) : s.replySent.Bounded := by
  unfold State.replySent
  split
  · have hsent := bump_bounded (setFeed_bounded h (f := { s.feed with tx := .gap, slot := none }) h.2.1) .repliesSent
    dsimp only
    split
    · exact restart_bounded hsent
    · exact hsent
  all_goals exact h

theorem gapEnd_bounded {s : State} (h : s.Bounded) : s.gapEnd.Bounded := by
  unfold State.gapEnd
  split
  · exact setFeed_bounded h (select_bounded h.2.1)
  all_goals exact h

/-! ### Every command -/

/-- The bounds, and the pending level events. -/
def State.BoundedAndHeld (s : State) : Prop := s.Bounded ∧ s.LevelsHeld

/-- After its effect a command holds the level events pending (R186). -/
theorem holdLevels_held (s : State) : s.holdLevels.LevelsHeld := by
  unfold State.LevelsHeld
  rw [State.holdLevels_levels, State.holdLevels_mgmt_pendingEvents, BitVec.or_assoc, BitVec.or_self]

theorem live_boundedAndHeld {s t : State} {effect : State → State} (heffect : ∀ {u : State}, u.Bounded → (effect u).Bounded)
    (h : s.BoundedAndHeld) (e : live s effect = .next t) : t.BoundedAndHeld := by
  rcases live_next e with ⟨_, rfl⟩ | ⟨_, rfl⟩
  · exact ⟨heffect h.1, holdLevels_held _⟩
  · exact h

/-- HARD_RESET leaves the conditions as they are, and so the level events held pending (R20). -/
theorem hardReset_boundedAndHeld {s t : State} (h : s.BoundedAndHeld) (e : execHardReset s = .next t) :
    t.BoundedAndHeld := by
  cases e
  exact ⟨clearFeedCounters_bounded (hold_bounded h.1), h.2⟩

/-- At the end of a hard reset no level condition holds (R193). -/
theorem afterReset_levels (straps : Straps) (lreq : Bool) (serial : BitVec 48) :
    (State.afterReset straps lreq serial).levels = 0 := by
  simp [State.levels, State.panelFault, State.syncLost, State.clockLost, State.afterReset, HeadEntry.undefined,
    Link.afterReset, Clock.afterReset]

theorem afterReset_held (straps : Straps) (lreq : Bool) (serial : BitVec 48) :
    (State.afterReset straps lreq serial).LevelsHeld := by
  unfold State.LevelsHeld
  rw [afterReset_levels]
  show Mgmt.afterReset.pendingEvents ||| 0 = Mgmt.afterReset.pendingEvents
  decide

theorem hardResetEnd_boundedAndHeld {straps : Straps} {s t : State} (h : s.BoundedAndHeld)
    (e : execHardResetEnd straps s = .next t) : t.BoundedAndHeld := by
  cases e
  split
  · exact ⟨afterReset_bounded straps s.link.lreqIn s.serial, afterReset_held straps s.link.lreqIn s.serial⟩
  · exact h

theorem exec_boundedAndHeld (c : Instr) (s t : State) (h : s.BoundedAndHeld) (e : exec c s = .next t) :
    t.BoundedAndHeld := by
  cases hframe : c.frame with
  | some kf =>
    rw [exec_frame hframe] at e
    exact live_boundedAndHeld (fun hs => receive_bounded hs _) h e
  | none =>
    cases c
    case hardReset => exact hardReset_boundedAndHeld h e
    case hardResetEnd straps => exact hardResetEnd_boundedAndHeld h e
    case idleMarker => exact live_boundedAndHeld rxIdle_bounded h e
    case syncMarker => exact live_boundedAndHeld rxSync_bounded h e
    case dataByte b => exact live_boundedAndHeld (fun hs => rxData_bounded hs b) h e
    case invalidCharacter => exact live_boundedAndHeld rxInvalid_bounded h e
    case frameArrival => exact live_boundedAndHeld rxEnd_bounded h e
    case idleGapEnd => exact live_boundedAndHeld gapEnd_bounded h e
    case forwardedFrameSent => exact live_boundedAndHeld forwardSent_bounded h e
    case replySent => exact live_boundedAndHeld replySent_bounded h e
    case internalTick => exact live_boundedAndHeld internalTick_bounded h e
    case secpRisingEdge micros => exact live_boundedAndHeld (fun hs => secpEdge_bounded hs micros) h e
    case clockWatchExpiry => exact live_boundedAndHeld watchExpires_bounded h e
    case scheduledInstantTick => exact live_boundedAndHeld scheduledTick_bounded h e
    case lingerExpiry => exact live_boundedAndHeld (fun hs => departureSecond_bounded hs true none) h e
    case buildTimeout => exact live_boundedAndHeld buildSecond_bounded h e
    case dwellExpiry => exact live_boundedAndHeld (fun hs => unlessFrozen_bounded hs dwellSecond_bounded) h e
    case holdTimeout => exact live_boundedAndHeld (fun hs => unlessFrozen_bounded hs holdSecond_bounded) h e
    case noticeExpiry => exact live_boundedAndHeld (fun hs => unlessFrozen_bounded hs noticeSecond_bounded) h e
    case freezeTimeout => exact live_boundedAndHeld freezeSecond_bounded h e
    case frameTimerExpiry => exact live_boundedAndHeld frameTimer_bounded h e
    case fsyncRisingEdge => exact live_boundedAndHeld fsyncEdge_bounded h e
    case fsyncWatchExpiry => exact live_boundedAndHeld fsyncWatch_bounded h e
    case fieldPaint i => exact live_boundedAndHeld (fun hs => paintNext_bounded hs i) h e
    case rowSent holdn => exact live_boundedAndHeld (fun hs => rowDone_bounded hs holdn) h e
    case holdnRelease => exact live_boundedAndHeld holdReleased_bounded h e
    case holdLimitExpiry => exact live_boundedAndHeld holdExpires_bounded h e
    case ackReceived head ambient =>
      exact live_boundedAndHeld (fun hs => takeAck_bounded (seeActivity_bounded hs) head ambient) h e
    case nakReceived head code =>
      exact live_boundedAndHeld (fun hs => takeNak_bounded (seeActivity_bounded hs) head code) h e
    case ackTimeout => exact live_boundedAndHeld ackTimesOut_bounded h e
    case answerNotWellFormed groups => exact live_boundedAndHeld (fun hs => takeGroups_bounded hs groups) h e
    case lreqAsserted => exact live_boundedAndHeld (s := s.setLreq true) lreqSeen_bounded h e
    case lreqReleased => exact live_boundedAndHeld (s := s.setLreq false) lreqGone_bounded h e
    case lgntAsserted => exact live_boundedAndHeld lgntSeen_bounded h e
    case activity => exact live_boundedAndHeld seeActivity_bounded h e
    case grantWaitExpiry => exact live_boundedAndHeld windowExpires_bounded h e
    case headerSent holdn => exact live_boundedAndHeld (fun hs => headerDone_bounded hs holdn) h e
    all_goals cases hframe

/-- Settles O59: the bounds are kept by every operation of every block, and each command ends by holding the level events. -/
theorem boundsAndLevelsAreKept : Obligations.BoundsAndLevelsAreKept := by
  rintro s t ⟨hc, hf, hm, hl⟩ e
  obtain ⟨⟨hc', hf', hm'⟩, hl'⟩ := step_keeps (P := State.BoundedAndHeld) (fun _ _ h => h) exec_boundedAndHeld
    ⟨⟨hc, hf, hm⟩, hl⟩ e
  exact ⟨hc', hf', hm', hl'⟩

end Sys2Proof.Machine
end

section
/-! PROOFS. Resets: what the part does while RSTN is low, and what its end leaves (R20, R181, R193). -/

namespace Sys2Proof.Machine

/-- While RSTN is low every command but the resets and the two levels of LREQ leaves the state (log 10). -/
theorem exec_held {c : Instr} {s : State} (h : s.inReset = true) (hreset : c ≠ .hardReset)
    (hend : ∀ x, c ≠ .hardResetEnd x) (hassert : c ≠ .lreqAsserted) (hrelease : c ≠ .lreqReleased) :
    exec c s = .next s := by
  cases c
  case hardReset => exact absurd rfl hreset
  case hardResetEnd x => exact absurd rfl (hend x)
  case lreqAsserted => exact absurd rfl hassert
  case lreqReleased => exact absurd rfl hrelease
  all_goals exact congrArg Host.Outcome.next (if_pos h)

/-- The counters cleared are 0. -/
theorem clear_foldl_counter (l : List Ctr) (c : Ctr) : ∀ v : Vector Nat 40, c ∈ l ∨ v[c.index] = 0 →
    (l.foldl (fun v c => v.set c.index 0) v)[c.index] = 0 := by
  induction l with
  | nil => exact fun v h => h.resolve_left (by simp)
  | cons a l ih =>
    refine fun v h => ih _ ?_
    by_cases ha : c = a
    · subst ha
      exact Or.inr (by simp)
    · rcases h with h | h
      · exact Or.inl ((List.mem_cons.1 h).resolve_left ha)
      · refine Or.inr ?_
        simp only [Fin.getElem_fin, Vector.getElem_set]
        split
        · rfl
        · exact h

theorem clearFeedCounters_counter (s : State) {c : Ctr} (hc : c ∈ feedCounters) : s.clearFeedCounters.counter c = 0 :=
  clear_foldl_counter feedCounters c s.counters (Or.inl hc)

/-- Settles O3: the hold of R20 field by field, then the commands that a part in reset takes. -/
theorem hardResetHoldsThePart : Obligations.HardResetHoldsThePart := by
  refine ⟨fun s => ⟨s.hold.clearFeedCounters, rfl, rfl, rfl, rfl, rfl, rfl, rfl, rfl,
    fun c hc => clearFeedCounters_counter s.hold hc, rfl, rfl, rfl, rfl, rfl⟩, fun c s h => exec_held h, fun s h => ?_⟩
  exact ⟨live_held (s := s.setLreq true) _ h, live_held (s := s.setLreq false) _ h⟩

theorem fontsEmpty_get (id : Nat) : Fonts.empty.get id = .undefined := by
  unfold Fonts.get
  split <;> rfl

/-- The owner of the link at the end of a hard reset, by role and LREQ (R181). -/
theorem afterReset_owner (role : Role) (lreq : Bool) : (Link.afterReset role lreq).owner =
    if role = .standby then .idle else if lreq then .granted else .owning := by
  cases role <;> rfl

/-- Settles O5: the state at the end of a hard reset is `State.endReset`, read off block by block. -/
theorem hardResetEndTakesTheStraps : Obligations.HardResetEndTakesTheStraps := by
  intro straps s h
  have hexec : exec (.hardResetEnd straps) s = .next (s.endReset straps) := by
    show Host.Outcome.next (if s.inReset then s.endReset straps else s) = _
    rw [if_pos h]
  refine ⟨s.endReset straps, hexec, rfl, rfl, ?port⟩
  refine ⟨rfl, rfl, rfl, rfl, rfl, rfl, rfl, rfl, rfl, ?counters, rfl, rfl, ?clock⟩
  case counters => exact fun c => by simp [State.counter, State.endReset, State.afterReset]
  refine ⟨rfl, rfl, rfl, rfl, rfl, rfl, ?fonts, ?heads, ?link⟩
  case fonts => exact fun id => congrArg FontRecord.defined (fontsEmpty_get id)
  case heads =>
    intro i
    simp [State.head, State.endReset, State.afterReset, HeadEntry.undefined, Buffers.dark, Link.afterReset,
      LinkHead.initial]
  refine ⟨rfl, rfl, rfl, rfl, rfl, rfl, afterReset_owner straps.role s.link.lreqIn, ?mgmt⟩
  refine ⟨rfl, rfl, rfl, rfl, rfl, rfl, ?alert⟩
  show (!false && decide (Mgmt.afterReset.pendingEvents &&& Mgmt.afterReset.enable ≠ 0)) = true
  decide

/-- After a hard reset every head is UNDEFINED (R116). -/
theorem reset_head (i : HeadIx) : State.reset.head i = none := by
  simp [State.head, State.reset, State.afterReset, HeadEntry.undefined]

/-- Settles O60: the bounds hold of every state at the end of a hard reset, and the stores are empty. -/
theorem resetStateIsSound : Obligations.ResetStateIsSound := by
  obtain ⟨hcounters, hfeed, hmgmt⟩ := afterReset_bounded Straps.initial false Config.unitSerial
  refine ⟨hcounters, hfeed, ?board, ?lists, ?clock, ?names, ?fonts, ?heads, ?comps, ?swaps, ?owner, ?link, hmgmt,
    afterReset_held _ _ _⟩
  case board =>
    refine ⟨⟨List.Pairwise.nil, List.nodup_nil, Nat.zero_le _⟩, ⟨Nat.zero_le _, List.nodup_nil, nofun⟩, ?_⟩
    show (List.range Config.poolBlocks ++ []).Perm (List.range Config.poolBlocks)
    rw [List.append_nil]
  case lists => exact fun e he => absurd he List.not_mem_nil
  case clock => exact ⟨Nat.zero_le _, Nat.zero_le _, Nat.zero_le _, nofun⟩
  case names => exact ⟨List.Pairwise.nil, Nat.zero_le _⟩
  case fonts =>
    intro id
    show (Fonts.empty.get id).Sound
    rw [fontsEmpty_get]
    decide
  case heads =>
    intro i h hi
    rw [reset_head] at hi
    cases hi
  case comps =>
    intro i hi
    simp [State.reset, State.afterReset] at hi
  case swaps =>
    rintro _ i ⟨hi, _⟩
    simp [State.reset, State.afterReset, Buffers.dark] at hi
  case owner => exact ⟨rfl, nofun, nofun⟩
  case link =>
    refine ⟨fun i => ?_, rfl, by decide⟩
    have hi : State.reset.link.heads.get i = .initial := by simp [State.reset, State.afterReset, Link.afterReset]
    rw [hi]
    decide

end Sys2Proof.Machine
end

section
/-! PROOFS. The receiver: what each character leaves in each state (R2, R3), and the frame commands as line characters. -/

namespace Sys2Proof.Machine

/-! ### One equation for each cell of the table of R2 -/

theorem rxIdle_outside {s : State} (h : s.feed.rx ≠ .body) : s.rxIdle = s.setRx .wait [] := by
  unfold State.rxIdle
  split
  · rfl
  · rfl
  · next hb => exact absurd hb h

theorem rxIdle_body {s : State} (h : s.feed.rx = .body) : s.rxIdle = (s.setRx .wait []).bump .symbolErrors := by
  simp [State.rxIdle, h]

theorem rxSync_hunt {s : State} (h : s.feed.rx = .hunt) : s.rxSync = s := by simp [State.rxSync, h]

theorem rxSync_wait {s : State} (h : s.feed.rx = .wait) : s.rxSync = s.setRx .body [] := by simp [State.rxSync, h]

theorem rxSync_body {s : State} (h : s.feed.rx = .body) : s.rxSync = (s.setRx .body []).bump .symbolErrors := by
  simp [State.rxSync, h]

theorem rxData_outside {s : State} (h : s.feed.rx ≠ .body) (b : Byte) : s.rxData b = s := by
  unfold State.rxData
  split
  · rfl
  · rfl
  · next hb => exact absurd hb h

theorem rxData_room {s : State} (h : s.feed.rx = .body) (hlen : s.feed.buffer.length < 256) (b : Byte) :
    s.rxData b = s.setRx .body (s.feed.buffer ++ [b]) := by
  simp [State.rxData, h, Config.maxBody, hlen]

theorem rxData_full {s : State} (h : s.feed.rx = .body) (hlen : s.feed.buffer.length = 256) (b : Byte) :
    s.rxData b = (s.setRx .hunt []).bump .oversize := by
  simp [State.rxData, h, Config.maxBody, hlen]

theorem rxInvalid_outside {s : State} (h : s.feed.rx ≠ .body) : s.rxInvalid = s := by
  unfold State.rxInvalid
  split
  · rfl
  · rfl
  · next hb => exact absurd hb h

theorem rxInvalid_body {s : State} (h : s.feed.rx = .body) :
    s.rxInvalid = (s.setRx .hunt []).bump .symbolErrors := by
  simp [State.rxInvalid, h]

theorem rxEnd_outside {s : State} (h : s.feed.rx ≠ .body) : s.rxEnd = s := by
  unfold State.rxEnd
  split
  · rfl
  · rfl
  · next hb => exact absurd hb h

theorem rxEnd_body {s : State} (h : s.feed.rx = .body) : s.rxEnd = (s.setRx .wait []).arrive s.feed.buffer := by
  simp [State.rxEnd, h]

/-! ### The commands of the line characters -/

section Running

variable {s u : State} (hrun : s.inReset = false)
include hrun

theorem idleMarker_leaves (h : s.rxIdle = u) : Leaves .idleMarker s u := h ▸ live_running _ hrun

theorem syncMarker_leaves (h : s.rxSync = u) : Leaves .syncMarker s u := h ▸ live_running _ hrun

theorem dataByte_leaves {b : Byte} (h : s.rxData b = u) : Leaves (.dataByte b) s u :=
  h ▸ live_running (fun s => s.rxData b) hrun

theorem invalidCharacter_leaves (h : s.rxInvalid = u) : Leaves .invalidCharacter s u := h ▸ live_running _ hrun

theorem frameArrival_leaves (h : s.rxEnd = u) : Leaves .frameArrival s u := h ▸ live_running _ hrun

end Running

/-- Settles O6: the fifteen cells of the table of R2. -/
theorem receiverFollowsTable : Obligations.ReceiverFollowsTable := by
  refine fun s hrun => ⟨fun h => ?hunt, fun h => ?wait, fun h => ?body⟩
  case hunt =>
    have hout : s.feed.rx ≠ .body := by simp [h]
    exact ⟨idleMarker_leaves hrun (rxIdle_outside hout), syncMarker_leaves hrun (rxSync_hunt h),
      fun b => dataByte_leaves hrun (rxData_outside hout b), frameArrival_leaves hrun (rxEnd_outside hout),
      invalidCharacter_leaves hrun (rxInvalid_outside hout)⟩
  case wait =>
    have hout : s.feed.rx ≠ .body := by simp [h]
    exact ⟨idleMarker_leaves hrun (rxIdle_outside hout), syncMarker_leaves hrun (rxSync_wait h),
      fun b => dataByte_leaves hrun (rxData_outside hout b), frameArrival_leaves hrun (rxEnd_outside hout),
      invalidCharacter_leaves hrun (rxInvalid_outside hout)⟩
  case body =>
    exact ⟨idleMarker_leaves hrun (rxIdle_body h), syncMarker_leaves hrun (rxSync_body h),
      fun b hlen => dataByte_leaves hrun (rxData_room h hlen b), frameArrival_leaves hrun (rxEnd_body h),
      invalidCharacter_leaves hrun (rxInvalid_body h)⟩

/-- Settles O7: the byte on either side of the guard, the hunt that follows, and an End marker after exactly 256 bytes. -/
theorem lengthGuardAborts : Obligations.LengthGuardAborts := by
  refine ⟨fun s b hrun h hlen => dataByte_leaves hrun (rxData_full h hlen b),
    fun s b hrun h hlen => dataByte_leaves hrun (rxData_room h hlen b), fun s b hrun h => ?_,
    fun s hrun h _ => frameArrival_leaves hrun (rxEnd_body h)⟩
  have hout : s.feed.rx ≠ .body := by simp [h]
  exact ⟨dataByte_leaves hrun (rxData_outside hout b), frameArrival_leaves hrun (rxEnd_outside hout),
    idleMarker_leaves hrun (rxIdle_outside hout)⟩

/-! ### The arrival tests (R4) -/

theorem arrive_runt {s : State} {body : List Byte} (h : body.length < 9) : s.arrive body = s.bump .runt := by
  simp [State.arrive, h]

theorem checkHolds_iff (body : List Byte) : checkHolds body = true ↔
    onesAdd (checkSum 0 (body.take (body.length - 2))) (u16 body (body.length - 2)) = 65535 := by
  simp [checkHolds]

theorem arrive_check {s : State} {body : List Byte} (hlen : 9 ≤ body.length) (h : checkHolds body = false) :
    s.arrive body = (s.bump .checkErrors).raise .feedError := by
  simp [State.arrive, Nat.not_lt.2 hlen, h]

theorem Header.sound_iff (h : Header) : h.sound = true ↔
    1 ≤ h.hop.toNat ∧ h.hop.toNat ≤ 63 ∧ h.length.toNat = h.payload.length ∧ h.length.toNat ≤ 240 := by
  simp [Header.sound, and_assoc]

theorem arrive_malformed {s : State} {body : List Byte} (hlen : 9 ≤ body.length) (hc : checkHolds body = true)
    (h : ∀ x, parseBody body = some x → x.sound = false) : s.arrive body = s.bump .malformed := by
  unfold State.arrive
  rw [if_neg (Nat.not_lt.2 hlen), if_neg (by simp [hc])]
  split
  · rfl
  · next x hx => rw [if_neg (by simp [h x hx])]

theorem arrive_sound {s : State} {body : List Byte} {x : Header} (hlen : 9 ≤ body.length) (hc : checkHolds body = true)
    (hx : parseBody body = some x) (h : x.sound = true) :
    s.arrive body = (s.bump .framesAccepted).dispose body x := by
  simp [State.arrive, Nat.not_lt.2 hlen, hc, hx, h]

/-- Settles O8: the tests of R4 in their order. -/
theorem arrivalTestsInOrder : Obligations.ArrivalTestsInOrder := by
  intro s body hrun hrx hbuf
  have hend : s.rxEnd = (s.setRx .wait []).arrive body := hbuf ▸ rxEnd_body hrx
  refine ⟨fun hlen => ?runt, fun hlen hcheck => ?check, fun hlen hcheck hbad => ?malformed,
    fun x hlen hcheck hx h1 h2 h3 h4 => ?accepted⟩
  case runt => exact frameArrival_leaves hrun (hend.trans (arrive_runt hlen))
  case check =>
    have hfails : checkHolds body = false := Bool.eq_false_iff.2 fun e => hcheck ((checkHolds_iff body).1 e)
    exact frameArrival_leaves hrun (hend.trans (arrive_check hlen hfails))
  case malformed =>
    have hunsound : ∀ x, parseBody body = some x → x.sound = false := by
      refine fun x hx => Bool.eq_false_iff.2 fun e => ?_
      obtain ⟨h1, h2, h3, h4⟩ := (Header.sound_iff x).1 e
      rcases hbad x hx with h | h | h | h <;> omega
    exact frameArrival_leaves hrun (hend.trans (arrive_malformed hlen ((checkHolds_iff body).2 hcheck) hunsound))
  case accepted =>
    exact frameArrival_leaves hrun (hend.trans (arrive_sound hlen ((checkHolds_iff body).2 hcheck) hx
      ((Header.sound_iff x).2 ⟨h1, h2, h3, h4⟩)))

/-! ### A frame command is its line characters (log 1) -/

/-- A state whose running, held events and conditions are those of another. -/
def State.SameLevels (s t : State) : Prop :=
  t.inReset = s.inReset ∧ t.mgmt.pendingEvents = s.mgmt.pendingEvents ∧ t.levels = s.levels

theorem State.SameLevels.held {s t : State} (h : s.SameLevels t) (hs : s.LevelsHeld) : t.LevelsHeld := by
  obtain ⟨_, hp, hl⟩ := h
  unfold State.LevelsHeld
  rw [hp, hl]
  exact hs

theorem rxSync_sameLevels (s : State) : s.SameLevels s.rxSync := by
  unfold State.rxSync
  split <;> exact ⟨rfl, rfl, rfl⟩

theorem rxData_sameLevels (s : State) (b : Byte) : s.SameLevels (s.rxData b) := by
  unfold State.rxData
  split
  · exact ⟨rfl, rfl, rfl⟩
  · exact ⟨rfl, rfl, rfl⟩
  · split <;> exact ⟨rfl, rfl, rfl⟩

/-- Commands that leave the state, one after another. -/
theorem execAll_stays {s : State} (l : List Instr) (h : ∀ c ∈ l, exec c s = .next s) : execAll s l = .next s := by
  induction l with
  | nil => rfl
  | cons c l ih =>
    unfold execAll
    rw [h c (List.mem_cons_self ..)]
    exact ih fun c hc => h c (List.mem_cons_of_mem _ hc)

theorem execAll_cons {s t : State} {c : Instr} (h : exec c s = .next t) (l : List Instr) :
    execAll s (c :: l) = execAll t l := by
  conv => lhs; unfold execAll
  rw [h]

/-- The data bytes of a body, while the levels that hold are pending, then End. -/
theorem execAll_body (body : List Byte) : ∀ {s : State}, s.inReset = false → s.LevelsHeld →
    execAll s (body.map .dataByte ++ [.frameArrival]) = .next (body.foldl State.rxData s).rxEnd.holdLevels := by
  induction body with
  | nil => exact fun hrun _ => execAll_cons (frameArrival_leaves hrun rfl) []
  | cons b body ih =>
    intro s hrun hheld
    have hsame := rxData_sameLevels s b
    have hbyte : exec (.dataByte b) s = .next (s.rxData b) := by
      rw [← holdLevels_of_held (hsame.held hheld)]
      exact dataByte_leaves hrun rfl
    exact (execAll_cons hbyte _).trans (ih (hsame.1.trans hrun) (hsame.held hheld))

/-- Settles O10: each character leaves the levels pending, so only the last has any to hold. -/
theorem frameCommandIsItsLine : Obligations.FrameCommandIsItsLine := by
  intro c k f s hc hheld
  rw [exec_frame hc]
  cases hrun : s.inReset with
  | true =>
    rw [live_held _ hrun]
    refine (execAll_stays _ fun x hx => ?_).symm
    simp only [List.mem_append, List.mem_singleton, List.mem_map] at hx
    rcases hx with (rfl | ⟨b, _, rfl⟩) | rfl <;> exact congrArg Host.Outcome.next (if_pos hrun)
  | false =>
    have hsame := rxSync_sameLevels s
    have hsync : exec .syncMarker s = .next s.rxSync := by
      rw [← holdLevels_of_held (hsame.held hheld)]
      exact syncMarker_leaves hrun rfl
    rw [live_running _ hrun]
    exact ((execAll_cons hsync _).trans (execAll_body _ (hsame.1.trans hrun) (hsame.held hheld))).symm

end Sys2Proof.Machine
end

section
/-! PROOFS. A sender's frame body is read back field by field, and passes the arrival tests (R4 to R8, R195). -/

namespace Sys2Proof.Machine

/-! ### The check word (R5, R6) -/

theorem onesAdd_le {a b : Nat} (ha : a ≤ 65535) (hb : b ≤ 65535) : onesAdd a b ≤ 65535 := by
  unfold onesAdd
  omega

theorem checkSum_le (l : List Byte) (acc : Nat) (h : acc ≤ 65535) : checkSum acc l ≤ 65535 := by
  induction acc, l using checkSum.induct with
  | case1 acc => exact h
  | case2 acc a => exact onesAdd_le h (by have := a.isLt; omega)
  | case3 acc a b rest ih => exact ih (onesAdd_le h (by have := a.isLt; have := b.isLt; omega))

theorem withCheck_length (covered : List Byte) : (withCheck covered).length = covered.length + 2 := by
  simp [withCheck, b16]

theorem withCheck_take (covered : List Byte) :
    (withCheck covered).take ((withCheck covered).length - 2) = covered := by
  rw [withCheck_length, Nat.add_sub_cancel]
  exact List.take_left

/-- A sum and its complement add to all ones (R5, R6). -/
theorem onesAdd_complement {a : Nat} (h : a ≤ 65535) : onesAdd a (65535 - a) = 65535 := by
  unfold onesAdd
  omega

theorem checkHolds_withCheck (covered : List Byte) : checkHolds (withCheck covered) = true := by
  have hsum := checkSum_le covered 0 (Nat.zero_le _)
  have hword : u16 (withCheck covered) covered.length = checkWord covered := by
    have h := u16_append covered [] (n := checkWord covered) (Nat.sub_le _ _)
    rwa [List.append_nil] at h
  rw [checkHolds_iff, withCheck_take, withCheck_length, Nat.add_sub_cancel, hword]
  exact onesAdd_complement hsum

/-! ### Reading the header back (R7) -/

theorem headerFrom_fields (hop : Byte) (scope : List ScopePair) (k d s fl t l : Byte) (payload : List Byte) (n : Nat) :
    headerFrom hop scope ([k, d, s, fl, t, l] ++ payload ++ b16 n) = some ⟨hop, scope, k, d, s, fl, t, l, payload⟩ := by
  simp [headerFrom, b16]

theorem parseBody_noPair {hop m v : Byte} {more : List Byte} (h : scopePairOf m v = none) :
    parseBody (hop :: m :: v :: more) = headerFrom hop [] (m :: v :: more) := by
  simp [parseBody, h]

/-- One pair: what follows is no second marker, or the body is too short for a second pair (log 14). -/
theorem parseBody_onePair {hop m v m2 v2 : Byte} {more : List Byte} {p : ScopePair} (hp : scopePairOf m v = some p)
    (h : scopePairOf m2 v2 = none ∨ (hop :: m :: v :: m2 :: v2 :: more).length < 13) :
    parseBody (hop :: m :: v :: m2 :: v2 :: more) = headerFrom hop [p] (m2 :: v2 :: more) := by
  unfold parseBody
  simp only [hp]
  split
  · next q hq =>
    have hshort := h.resolve_left (by simp [hq])
    rw [if_neg (by omega)]
  · rfl

theorem parseBody_twoPairs {hop m v m2 v2 : Byte} {more : List Byte} {p q : ScopePair} (hp : scopePairOf m v = some p)
    (hq : scopePairOf m2 v2 = some q) (h : 13 ≤ (hop :: m :: v :: m2 :: v2 :: more).length) :
    parseBody (hop :: m :: v :: m2 :: v2 :: more) = headerFrom hop [p, q] more := by
  unfold parseBody
  simp only [hp, hq]
  rw [if_pos h]

/-- The marker byte of a scope pair (R7, R195). -/
def markerOf (p : ScopePair) : Byte :=
  match p.kind with
  | .zone => 0xF5
  | .group => 0xF6

theorem scopeBytes_eq (p : ScopePair) : scopeBytes p = [markerOf p, p.value] := by
  obtain ⟨kind, value⟩ := p
  cases kind <;> rfl

theorem scopePairOf_markerOf (p : ScopePair) : scopePairOf (markerOf p) p.value = some p := by
  obtain ⟨kind, value⟩ := p
  cases kind <;> rfl

theorem scopePairOf_kind {k : Byte} (h : k ≠ 0xF5 ∧ k ≠ 0xF6) (v : Byte) : scopePairOf k v = none := by
  unfold scopePairOf
  rw [if_neg h.1, if_neg h.2]

theorem wf_iff (f : FeedFrame) : f.wf = true ↔
    1 ≤ f.hop.toNat ∧ f.hop.toNat ≤ 63 ∧ f.scope.length ≤ 2 ∧ f.payload.length ≤ 240 := by
  simp [FeedFrame.wf, and_assoc]

/-- The kinds whose byte R7 reads as the Kind of a frame: no marker, or a marker after two pairs, or after one in a body too
short for two (log 14). -/
def ReadsKind (f : FeedFrame) (kind : Byte) : Prop :=
  kind ≠ 0xF5 ∧ kind ≠ 0xF6 ∨ f.scope.length = 2 ∨ f.scope.length = 1 ∧ f.payload.length < 2

theorem frameBody_length (kind : Byte) (f : FeedFrame) :
    (frameBody kind f).length = 9 + 2 * f.scope.length + f.payload.length := by
  have hscope : (f.scope.flatMap scopeBytes).length = 2 * f.scope.length := by
    simp [List.length_flatMap, scopeBytes_eq, Nat.mul_comm]
  simp [frameBody, withCheck_length, hscope]
  omega

/-- The body of a frame, its check word named only by its number. -/
theorem frameBody_eq (kind : Byte) (f : FeedFrame) : ∃ n, frameBody kind f = f.hop :: (f.scope.flatMap scopeBytes ++
    ([kind, f.dest, f.source, f.flags, f.tag, b8 f.payload.length] ++ f.payload ++ b16 n)) := by
  unfold frameBody withCheck
  simp only [List.cons_append, List.append_assoc]
  exact ⟨_, rfl⟩

/-- The header of a frame's body is read back, whatever the number of its scope pairs (R7; log 14). -/
theorem parseBody_frameBody {kind : Byte} {f : FeedFrame} (hwf : f.wf = true) (hkind : ReadsKind f kind) :
    parseBody (frameBody kind f) = some (frameHeader kind f) := by
  obtain ⟨_, _, hpairs, _⟩ := (wf_iff f).1 hwf
  have hlen := frameBody_length kind f
  obtain ⟨n, hbody⟩ := frameBody_eq kind f
  unfold frameHeader
  rw [hbody] at hlen ⊢
  rw [← headerFrom_fields _ _ _ _ _ _ _ _ _ n]
  match hscope : f.scope with
  | [] =>
    have hk := hkind.resolve_right (by simp [hscope])
    exact parseBody_noPair (scopePairOf_kind hk _)
  | [p] =>
    rw [hscope] at hlen
    have hp := scopePairOf_markerOf p
    simp only [List.flatMap_cons, List.flatMap_nil, scopeBytes_eq] at hlen ⊢
    refine parseBody_onePair hp ?_
    rcases hkind with hk | hk | hk
    · exact Or.inl (scopePairOf_kind hk _)
    · simp [hscope] at hk
    · refine Or.inr (hlen.trans_lt ?_)
      have hshort := hk.2
      simp only [List.length_cons, List.length_nil]
      omega
  | [p, q] =>
    rw [hscope] at hlen
    simp only [List.flatMap_cons, List.flatMap_nil, scopeBytes_eq] at hlen ⊢
    refine parseBody_twoPairs (scopePairOf_markerOf p) (scopePairOf_markerOf q) (hlen.trans_ge ?_)
    simp only [List.length_cons, List.length_nil]
    omega
  | _ :: _ :: _ :: _ =>
    rw [hscope] at hpairs
    simp at hpairs

theorem frameHeader_sound {f : FeedFrame} (hwf : f.wf = true) (kind : Byte) : (frameHeader kind f).sound = true := by
  obtain ⟨hlo, hhi, _, hpayload⟩ := (wf_iff f).1 hwf
  have hb : (b8 f.payload.length).toNat = f.payload.length := by
    simp [b8]
    omega
  exact (Header.sound_iff _).2 ⟨hlo, hhi, hb, hb.trans_le hpayload⟩

/-- Settles O9: the fields, the structure test, the check and the length of a sender's body. -/
theorem frameBodyReadsBack : Obligations.FrameBodyReadsBack := by
  intro kind f hwf hkind
  obtain ⟨_, _, hpairs, hpayload⟩ := (wf_iff f).1 hwf
  have hlen := frameBody_length kind f
  exact ⟨parseBody_frameBody hwf hkind, frameHeader_sound hwf kind, checkHolds_withCheck _, hlen, by omega⟩

/-! ### A frame that arrives (R4) -/

theorem arrive_frame {kind : Byte} {f : FeedFrame} (s : State) (hwf : f.wf = true) (hkind : ReadsKind f kind) :
    s.arrive (frameBody kind f) = (s.bump .framesAccepted).dispose (frameBody kind f) (frameHeader kind f) := by
  have hlen := frameBody_length kind f
  exact arrive_sound (by omega) (checkHolds_withCheck _) (parseBody_frameBody hwf hkind) (frameHeader_sound hwf kind)

/-- No kind of R10 is a scope marker. -/
theorem readsKind_code (f : FeedFrame) (k : Kind) : ReadsKind f k.code :=
  Or.inl (by cases k <;> decide)

/-- A command that delivers a well-formed frame to a listening part is that frame's disposal (R4; log 1). -/
theorem frame_leaves {c : Instr} {k : Kind} {f : FeedFrame} {s u : State} (hc : c.frame = some (k, f)) (hs : s.Listens)
    (hwf : f.wf = true)
    (hu : (s.bump .framesAccepted).dispose (frameBody k.code f) (frameHeader k.code f) = u) : Leaves c s u := by
  obtain ⟨hrun, hrx, hbuf⟩ := hs
  obtain ⟨_, _, hpairs, hpayload⟩ := (wf_iff f).1 hwf
  have hlen := frameBody_length k.code f
  have hfits : (frameBody k.code f).length ≤ Config.maxBody := by
    unfold Config.maxBody
    omega
  have hsame : s.setRx .wait [] = s := by
    unfold State.setRx
    rw [← hrx, ← hbuf]
  unfold Leaves
  rw [exec_frame hc, live_running _ hrun, receive_wait hrx hfits, hsame, arrive_frame s hwf (readsKind_code f k), hu]

end Sys2Proof.Machine
end

section
/-! PROOFS. Disposal of a frame by scope, kind and destination (R9 to R15), and the ends of transmission (R16, R17). -/

namespace Sys2Proof.Machine

/-! ### Matching (R9 to R11) -/

/-- The kind byte of a kind of R10 names that kind. -/
theorem kind_ofCode_code (k : Kind) : Kind.ofCode k.code = some k := by
  cases k <;> rfl

theorem ownAddress_iff (s : State) (kind : Byte) (f : FeedFrame) :
    s.feed.ownAddress (frameHeader kind f) = true ↔ s.IsOwn f := by
  unfold Feed.ownAddress frameHeader
  simp only [Bool.and_eq_true, decide_eq_true_eq, and_assoc]

/-- A destination of 255 is no unit's own, whose addresses are 1..120 (R11). -/
theorem not_isOwn_broadcast {s : State} {f : FeedFrame} (h : f.dest = 255) : ¬ s.IsOwn f := by
  rintro ⟨hdest, _, hmax⟩
  rw [h] at hdest
  simp at hdest
  omega

/-- A frame to act on is either the unit's own or to every unit, and not both (R11). -/
theorem own_or_broadcast {s : State} {f : FeedFrame} (h : s.IsOwn f ∨ f.dest = 255) :
    (s.IsOwn f ∧ f.dest ≠ 255) ∨ (¬ s.IsOwn f ∧ f.dest = 255) := by
  by_cases hd : f.dest = 255
  · exact Or.inr ⟨not_isOwn_broadcast hd, hd⟩
  · exact Or.inl ⟨h.resolve_right hd, hd⟩

/-! ### Forwarding (R13, R15) -/

/-- The body forwarded is the frame's own with its Hop one less: every other byte is kept (R13). -/
theorem forwardBody_frameBody (kind : Byte) (f : FeedFrame) :
    forwardBody (frameBody kind f) = frameBody kind { f with hop := f.hop - 1 } := by
  unfold forwardBody
  unfold frameBody
  rw [withCheck_take]

theorem forward_expired {s : State} {f : FeedFrame} {kind : Byte} (h : f.hop = 1) :
    s.forward (frameBody kind f) (frameHeader kind f) = s.bump .expired := if_pos h

theorem forward_queued {s : State} {f : FeedFrame} {kind : Byte} (h : f.hop ≠ 1) (hroom : s.feed.queue.length < 4) :
    s.forward (frameBody kind f) (frameHeader kind f) = (s.setFeed { s.feed with
      queue := s.feed.queue ++ [frameBody kind { f with hop := f.hop - 1 }] }.select).bump .framesForwarded := by
  rw [← forwardBody_frameBody]
  exact (if_neg h).trans (if_pos hroom)

theorem forward_overrun {s : State} {f : FeedFrame} {kind : Byte} (h : f.hop ≠ 1) (hfull : 4 ≤ s.feed.queue.length) :
    s.forward (frameBody kind f) (frameHeader kind f) = s.bump .forwardOverrun :=
  (if_neg h).trans (if_neg (Nat.not_lt.2 hfull))

/-! ### Disposal by scope and kind (R9, R10) -/

theorem dispose_passes {s : State} {f : FeedFrame} {kind : Byte} (body : List Byte)
    (h : f.scope.all s.feed.matchesPair = false ∨ f.flags.getLsbD 1 = true) :
    s.dispose body (frameHeader kind f) = s.forward body (frameHeader kind f) := if_pos h

section InScope

variable {s : State} {f : FeedFrame} (hreply : f.flags.getLsbD 1 = false)
  (hscope : f.scope.all s.feed.matchesPair = true) (body : List Byte)
include hreply hscope

theorem dispose_inScope (kind : Byte) : s.dispose body (frameHeader kind f) =
    match Kind.ofCode kind with
    | none => s.unknownKind body (frameHeader kind f)
    | some k => if k.isData then s.disposeData k body (frameHeader kind f)
      else s.disposeManagement k body (frameHeader kind f) := by
  have hpass : ¬ (s.feed.inScope (frameHeader kind f) = false ∨ (frameHeader kind f).isReply = true) := by
    rintro (hout | hanswer)
    · exact Bool.false_ne_true (hout.symm.trans hscope)
    · exact Bool.false_ne_true (hreply.symm.trans hanswer)
  unfold State.dispose
  rw [if_neg hpass]
  rfl

theorem dispose_unknown {kind : Byte} (hk : Kind.ofCode kind = none) :
    s.dispose body (frameHeader kind f) = s.unknownKind body (frameHeader kind f) := by
  rw [dispose_inScope hreply hscope, hk]

theorem dispose_data {k : Kind} (hk : k.isData = true) :
    s.dispose body (frameHeader k.code f) = s.disposeData k body (frameHeader k.code f) := by
  rw [dispose_inScope hreply hscope, kind_ofCode_code]
  exact if_pos hk

theorem dispose_management {k : Kind} (hk : k.isData = false) :
    s.dispose body (frameHeader k.code f) = s.disposeManagement k body (frameHeader k.code f) := by
  rw [dispose_inScope hreply hscope, kind_ofCode_code]
  exact if_neg (by simp [hk])

end InScope

/-! ### Disposal by destination (R11, R12) -/

section Destination

variable {s : State} {f : FeedFrame} (body : List Byte)

theorem disposeData_own (h : s.IsOwn f) (k : Kind) : s.disposeData k body (frameHeader k.code f) =
    s.handData k (frameHeader k.code f) (f.flags.getLsbD 0) :=
  if_pos ((ownAddress_iff s _ f).2 h)

theorem disposeData_broadcast (h : f.dest = 255) (k : Kind) : s.disposeData k body (frameHeader k.code f) =
    (s.handData k (frameHeader k.code f) false).forward body (frameHeader k.code f) :=
  (if_neg (mt (ownAddress_iff s _ f).1 (not_isOwn_broadcast h))).trans (if_pos h)

theorem disposeData_others (h : ¬ s.IsOwn f) (hd : f.dest ≠ 255) (k : Kind) :
    s.disposeData k body (frameHeader k.code f) = s.forward body (frameHeader k.code f) :=
  (if_neg (mt (ownAddress_iff s _ f).1 h)).trans (if_neg hd)

theorem disposeManagement_own (h : s.IsOwn f) (k : Kind) : s.disposeManagement k body (frameHeader k.code f) =
    s.handManagement k (frameHeader k.code f) :=
  if_pos ((ownAddress_iff s _ f).2 h)

theorem unaddressed_iff (s : State) (kind : Byte) (f : FeedFrame) :
    s.feed.unaddressed (frameHeader kind f) = true ↔ f.dest = 0 ∧ s.feed.address = 0 := by
  unfold Feed.unaddressed frameHeader
  simp only [Bool.and_eq_true, decide_eq_true_eq]

/-- An Address Assign also reaches every unit, and at destination 0 a unit without an address (R11). -/
theorem disposeManagement_assign (h : ¬ s.IsOwn f) (hd : f.dest = 255 ∨ f.dest = 0 ∧ s.feed.address = 0) :
    s.disposeManagement .addressAssign body (frameHeader Kind.addressAssign.code f) =
      (s.handManagement .addressAssign (frameHeader Kind.addressAssign.code f)).forward body
        (frameHeader Kind.addressAssign.code f) :=
  (if_neg (mt (ownAddress_iff s _ f).1 h)).trans
    ((if_pos rfl).trans (if_pos (hd.imp_right (unaddressed_iff s _ f).2)))

theorem disposeManagement_broadcast {k : Kind} (hk : k ≠ .addressAssign) (h : f.dest = 255) :
    s.disposeManagement k body (frameHeader k.code f) =
      (s.bump .unknownKind).forward body (frameHeader k.code f) :=
  (if_neg (mt (ownAddress_iff s _ f).1 (not_isOwn_broadcast h))).trans ((if_neg hk).trans (if_pos h))

theorem disposeManagement_others (h : ¬ s.IsOwn f) (hd : f.dest ≠ 255) {k : Kind}
    (ha : ¬ (k = .addressAssign ∧ f.dest = 0 ∧ s.feed.address = 0)) :
    s.disposeManagement k body (frameHeader k.code f) = s.forward body (frameHeader k.code f) := by
  refine (if_neg (mt (ownAddress_iff s _ f).1 h)).trans ?_
  by_cases hk : k = .addressAssign
  · refine (if_pos hk).trans (if_neg ?_)
    rintro (hdest | hdest)
    · exact hd hdest
    · exact ha ⟨hk, (unaddressed_iff s _ f).1 hdest⟩
  · exact (if_neg hk).trans (if_neg hd)

end Destination

theorem handManagement_empty {s : State} (h : s.feed.slot = none) (k : Kind) (x : Header) :
    s.handManagement k x =
      ((s.bump .framesActedOn).manage x k).1.offerOpt x.tag ((s.bump .framesActedOn).manage x k).2 := by
  simp [State.handManagement, h]

theorem handManagement_full {s : State} {r : List Byte} (h : s.feed.slot = some r) (k : Kind) (x : Header) :
    s.handManagement k x = s.bump .replyBusy := by
  simp [State.handManagement, h]

/-- A frame that the unit is not to act on is only forwarded (R9 to R11). -/
theorem dispose_others {s : State} {k : Kind} {f : FeedFrame} (body : List Byte)
    (h : f.scope.all s.feed.matchesPair = false ∨ f.flags.getLsbD 1 = true ∨
      ¬ s.IsOwn f ∧ f.dest ≠ 255 ∧ ¬ (k = .addressAssign ∧ f.dest = 0 ∧ s.feed.address = 0)) :
    s.dispose body (frameHeader k.code f) = s.forward body (frameHeader k.code f) := by
  by_cases hpass : f.scope.all s.feed.matchesPair = false ∨ f.flags.getLsbD 1 = true
  · exact dispose_passes body hpass
  · obtain ⟨hscope, hreply⟩ := not_or.1 hpass
    rw [Bool.not_eq_false] at hscope
    rw [Bool.not_eq_true] at hreply
    obtain ⟨hown, hdest, hassign⟩ := (or_assoc.2 h).resolve_left hpass
    cases hk : k.isData with
    | true => rw [dispose_data hreply hscope body hk, disposeData_others body hown hdest]
    | false => rw [dispose_management hreply hscope body hk, disposeManagement_others body hown hdest hassign]

/-! ### The statements on disposal -/

/-- Settles O11: the disposal of a data frame, by its destination. -/
theorem dataFrameIsHandedOver : Obligations.DataFrameIsHandedOver := by
  rintro c k f s r hc hk ⟨⟨hlistens, hwf, hreply, hscope⟩, hdest⟩ rfl
  refine frame_leaves hc hlistens hwf ?_
  rw [dispose_data (s := s.bump .framesAccepted) hreply hscope _ hk]
  rcases own_or_broadcast hdest with ⟨hown, hd⟩ | ⟨_, hd⟩
  · rw [disposeData_own (s := s.bump .framesAccepted) _ hown, if_neg hd]
    rfl
  · rw [disposeData_broadcast _ hd, if_pos hd]
    rfl

/-- Settles O12: the disposal of a request at an empty Reply Slot, by its destination. -/
theorem requestIsHandedOver : Obligations.RequestIsHandedOver := by
  rintro c k f s r hc hk rfl
  refine ⟨fun ⟨⟨hlistens, hwf, hreply, hscope⟩, hown, hslot⟩ => ?own,
    fun ⟨hlistens, hwf, hreply, hscope⟩ hslot hassign hdest haddr => ?assign⟩
  case own =>
    refine frame_leaves hc hlistens hwf ?_
    rw [dispose_management (s := s.bump .framesAccepted) hreply hscope _ hk,
      disposeManagement_own (s := s.bump .framesAccepted) _ hown,
      handManagement_empty (s := s.bump .framesAccepted) hslot]
    rfl
  case assign =>
    subst hassign
    have hown : ¬ s.IsOwn f := by
      rcases hdest with hd | ⟨_, ha⟩
      · exact not_isOwn_broadcast hd
      · rintro ⟨_, hmin, _⟩
        omega
    refine frame_leaves hc hlistens hwf ?_
    rw [dispose_management (s := s.bump .framesAccepted) hreply hscope _ hk,
      disposeManagement_assign (s := s.bump .framesAccepted) _ hown hdest,
      handManagement_empty (s := s.bump .framesAccepted) hslot]
    rfl

/-- Settles O13: the frame is only forwarded, by its hops and the places of the Forward Queue. -/
theorem frameForOthersIsForwarded : Obligations.FrameForOthersIsForwarded := by
  intro c k f s hc hlistens hwf hothers
  have hforward := dispose_others (s := s.bump .framesAccepted) (frameBody k.code f) hothers
  exact ⟨fun hop => frame_leaves hc hlistens hwf (hforward.trans (forward_expired hop)),
    fun hop hroom => frame_leaves hc hlistens hwf (hforward.trans (forward_queued hop hroom)),
    fun hop hfull => frame_leaves hc hlistens hwf (hforward.trans (forward_overrun hop hfull))⟩

/-- A frame of unrecognised kind is forwarded, and then answered when it was addressed here (R10; log 17). -/
theorem unknownKind_eq {s : State} {f : FeedFrame} {kind : Byte} (body : List Byte) :
    s.unknownKind body (frameHeader kind f) =
      if s.IsOwn f ∧ f.flags.getLsbD 0 = true then
        ((s.bump .unknownKind).forward body (frameHeader kind f)).offerReply f.tag
          (outcomeReplyKind, [kind, b8 OutcomeCode.unknownKind.code])
      else (s.bump .unknownKind).forward body (frameHeader kind f) := by
  have hcond : (s.feed.ownAddress (frameHeader kind f) && (frameHeader kind f).wantOutcome) = true ↔
      s.IsOwn f ∧ f.flags.getLsbD 0 = true := by
    rw [Bool.and_eq_true, ownAddress_iff]
    rfl
  exact if_congr hcond rfl rfl

/-- Settles O14: a full Reply Slot, a request to every unit, and an unrecognised kind. -/
theorem requestsAreTurnedAway : Obligations.RequestsAreTurnedAway := by
  refine ⟨?full, ?broadcast, ?unknown⟩
  case full =>
    rintro c k f s r hc hk ⟨hlistens, hwf, hreply, hscope⟩ hown hslot
    refine frame_leaves hc hlistens hwf ?_
    rw [dispose_management (s := s.bump .framesAccepted) hreply hscope _ hk,
      disposeManagement_own (s := s.bump .framesAccepted) _ hown,
      handManagement_full (s := s.bump .framesAccepted) hslot]
  case broadcast =>
    rintro c k f s hc hk hassign ⟨hlistens, hwf, hreply, hscope⟩ hdest _
    refine frame_leaves hc hlistens hwf ?_
    rw [dispose_management (s := s.bump .framesAccepted) hreply hscope _ hk,
      disposeManagement_broadcast _ hassign hdest]
  case unknown =>
    rintro kind f s u hrun hrx hbuf hwf hkind hunknown hreply hscope rfl
    have harrive := arrive_frame (s.setRx .wait []) hwf hkind
    rw [dispose_unknown (s := (s.setRx .wait []).bump .framesAccepted) hreply hscope _ hunknown,
      unknownKind_eq] at harrive
    exact frameArrival_leaves hrun ((rxEnd_body hrx).trans (hbuf ▸ harrive))

/-! ### The out-port (R15 to R17) -/

section Select

variable {f : Feed} (hfree : f.tx = .free)
include hfree

theorem select_nothing (hslot : f.slot = none) (hqueue : f.queue = []) : f.select = f := by
  simp [Feed.select, hfree, hslot, hqueue]

theorem select_frameAlone {q : List Byte} {rest : List (List Byte)} (hslot : f.slot = none) (hqueue : f.queue = q :: rest) :
    f.select = { f with tx := .forward q true } := by
  simp [Feed.select, Feed.sendForward, hfree, hslot, hqueue]

theorem select_replyAlone {r : List Byte} (hslot : f.slot = some r) (hqueue : f.queue = []) :
    f.select = { f with tx := .reply r, replyWait := 0 } := by
  simp [Feed.select, Feed.sendReply, hfree, hslot, hqueue]

theorem select_replyDue {r q : List Byte} {rest : List (List Byte)} (hslot : f.slot = some r)
    (hqueue : f.queue = q :: rest) (hwait : f.replyWait = 4) : f.select = { f with tx := .reply r, replyWait := 0 } := by
  simp [Feed.select, Feed.sendReply, hfree, hslot, hqueue, hwait]

theorem select_frameFirst {r q : List Byte} {rest : List (List Byte)} (hslot : f.slot = some r)
    (hqueue : f.queue = q :: rest) (hwait : f.replyWait < 4) :
    f.select = { f with tx := .forward q true, replyWait := f.replyWait + 1 } := by
  simp [Feed.select, Feed.sendForward, hfree, hslot, hqueue, Nat.ne_of_lt hwait]

end Select

/-- At the end of a gap FDO is free, and what the arbiter selects is all that changes (R16). -/
theorem idleGapEnd_leaves {s : State} {f : Feed} (hrun : s.inReset = false) (hgap : s.feed.tx = .gap)
    (hf : ({ s.feed with tx := .free } : Feed).select = f) : Leaves .idleGapEnd s (s.setFeed f) := by
  have hgapEnd : s.gapEnd = s.setFeed f := by
    unfold State.gapEnd
    simp only [hgap, hf]
  exact hgapEnd ▸ live_running State.gapEnd hrun

/-- Settles O15: the five choices of the arbiter, and the two ends of transmission. -/
theorem outPortSendsInTurn : Obligations.OutPortSendsInTurn := by
  refine ⟨fun s hrun hgap => ⟨?nothing, ?frameAlone, ?replyAlone, ?replyDue, ?frameFirst⟩, ?frameSent, ?replySent⟩
  case nothing =>
    exact fun hslot hqueue => idleGapEnd_leaves hrun hgap (select_nothing rfl hslot hqueue)
  case frameAlone =>
    exact fun q rest hslot hqueue => idleGapEnd_leaves hrun hgap (select_frameAlone rfl hslot hqueue)
  case replyAlone =>
    exact fun r hslot hqueue => idleGapEnd_leaves hrun hgap (select_replyAlone rfl hslot hqueue)
  case replyDue =>
    exact fun r q rest hslot hqueue hwait => idleGapEnd_leaves hrun hgap (select_replyDue rfl hslot hqueue hwait)
  case frameFirst =>
    exact fun r q rest hslot hqueue hwait => idleGapEnd_leaves hrun hgap (select_frameFirst rfl hslot hqueue hwait)
  case frameSent =>
    intro s q hrun htx
    have hsent : s.forwardSent = s.setFeed { s.feed with tx := .gap, queue := s.feed.queue.drop 1 } := by
      simp [State.forwardSent, htx]
    exact hsent ▸ live_running State.forwardSent hrun
  case replySent =>
    intro s r hrun htx hwaiting
    have hsent : s.replySent = (s.setFeed { s.feed with tx := .gap, slot := none }).bump .repliesSent := by
      simp [State.replySent, htx, hwaiting]
    exact hsent ▸ live_running State.replySent hrun

end Sys2Proof.Machine
end

section
/-! PROOFS. What the commands leave of the stores: the board, the clock, the names, the fonts, the settings and the straps. The
blocks beside them (feed port, Layout and Page Control, Composer, Frame Store, Panel Link, and Management but for Configure)
change none of them; a property of the stores is kept by every command that the operations on the stores keep it under. -/

namespace Sys2Proof.Machine

/-- The stores of the part, with the settings and straps that their rules read. -/
structure Stores where
  board    : Board
  clock    : Clock
  names    : Names
  fonts    : Fonts
  settings : Settings
  straps   : Straps

/-- The stores of a state. -/
def State.stores (s : State) : Stores := ⟨s.board, s.clock, s.names, s.fonts, s.mgmt.settings, s.straps⟩

/-! ### Counters, events and updates of the other blocks -/

@[simp] theorem bumpBy_stores (s : State) (c : Ctr) (n : Nat) : (s.bumpBy c n).stores = s.stores := rfl

@[simp] theorem bump_stores (s : State) (c : Ctr) : (s.bump c).stores = s.stores := rfl

@[simp] theorem bumpAll_stores (l : List Ctr) : ∀ s : State, (s.bumpAll l).stores = s.stores := by
  induction l with
  | nil => exact fun _ => rfl
  | cons c l ih => exact fun s => ih (s.bump c)

@[simp] theorem bumpOpt_stores (s : State) (c : Option Ctr) : (s.bumpOpt c).stores = s.stores := by
  cases c <;> rfl

@[simp] theorem tally_stores (s : State) (l : List (Ctr × Nat)) : (s.tally l).stores = s.stores :=
  (congrArg State.stores (tally_frame l s)).trans rfl

@[simp] theorem raise_stores (s : State) (e : Event) : (s.raise e).stores = s.stores := rfl

@[simp] theorem raiseAll_stores (l : List Event) : ∀ s : State, (s.raiseAll l).stores = s.stores := by
  induction l with
  | nil => exact fun _ => rfl
  | cons e l ih => exact fun s => ih (s.raise e)

@[simp] theorem holdLevels_stores (s : State) : s.holdLevels.stores = s.stores := rfl

@[simp] theorem setHead_stores (s : State) (i : HeadIx) (h : Option Head) : (s.setHead i h).stores = s.stores := rfl

@[simp] theorem setBuffers_stores (s : State) (i : HeadIx) (b : Buffers) : (s.setBuffers i b).stores = s.stores := rfl

@[simp] theorem setBack_stores (s : State) (i : HeadIx) (px : Pixels) : (s.setBack i px).stores = s.stores := rfl

@[simp] theorem setComp_stores (s : State) (i : HeadIx) (c : Option Composition) : (s.setComp i c).stores = s.stores := rfl

@[simp] theorem setLinkHead_stores (s : State) (i : HeadIx) (l : LinkHead) : (s.setLinkHead i l).stores = s.stores := rfl

@[simp] theorem setSending_stores (s : State) (f : Option HeadFrame) : (s.setSending f).stores = s.stores := rfl

@[simp] theorem setPlo_stores (s : State) (out : List Sym) : (s.setPlo out).stores = s.stores := rfl

@[simp] theorem setTimeBase_stores (s : State) (t : TimeBase) : (s.setTimeBase t).stores = s.stores := rfl

@[simp] theorem setLreq_stores (s : State) (level : Bool) : (s.setLreq level).stores = s.stores := rfl

@[simp] theorem setRx_stores (s : State) (rx : RxState) (buffer : List Byte) : (s.setRx rx buffer).stores = s.stores := rfl

/-- What changes heads, compositions, buffers and counters alone leaves the stores. -/
theorem State.HeadsOnly.stores {s t : State} (h : s.HeadsOnly t) : t.stores = s.stores :=
  (congrArg State.stores h).trans rfl

/-- An operation for each head leaves the stores when it does at each. -/
theorem forHeads_stores {f : HeadIx → State → State} (hf : ∀ i s, (f i s).stores = s.stores) (s : State) :
    (s.forHeads f).stores = s.stores :=
  forHeads_keeps (P := fun t => t.stores = s.stores) (fun i t h => (hf i t).trans h) rfl

/-! ### Heads, compositions and buffers -/

@[simp] theorem onHead_stores (s : State) (i : HeadIx) (f : Head → Head) : (s.onHead i f).stores = s.stores := by
  unfold State.onHead
  split <;> rfl

@[simp] theorem swapIfReady_stores (s : State) (i : HeadIx) : (s.swapIfReady i).stores = s.stores :=
  (congrArg State.stores (swapIfReady_frame s i).1).trans rfl

@[simp] theorem abandon_stores (s : State) (i : HeadIx) : (s.abandon i).stores = s.stores := (abandon_at s i).1.stores

@[simp] theorem clearBuffers_stores (s : State) (i : HeadIx) : (s.clearBuffers i).stores = s.stores := by
  unfold State.clearBuffers
  split
  · split <;> rfl
  · rfl

/-! ### The Panel Link -/

@[simp] theorem beginFrame_stores (s : State) (i : HeadIx) (h : Head) : (s.beginFrame i h).stores = s.stores := by
  unfold State.beginFrame
  dsimp only
  split <;> rfl

@[simp] theorem nextOfRound_stores (l : List HeadIx) (s : State) : (s.nextOfRound l).stores = s.stores := by
  induction l with
  | nil => rfl
  | cons i l ih =>
    unfold State.nextOfRound
    split
    · exact beginFrame_stores _ i _
    · exact ih

@[simp] theorem continueRound_stores (s : State) : s.continueRound.stores = s.stores := by
  unfold State.continueRound
  split
  · exact nextOfRound_stores _ s
  · rfl

@[simp] theorem frameRound_stores (s : State) : s.frameRound.stores = s.stores :=
  (congrArg State.stores (frameRound_frame s).1).trans rfl

@[simp] theorem loseLink_stores (s : State) (o : Ownership) : (s.loseLink o).stores = s.stores :=
  forHeads_stores (fun i t => swapIfReady_stores t i) _

@[simp] theorem lreqSeen_stores (s : State) : s.lreqSeen.stores = s.stores := by
  unfold State.lreqSeen
  split
  · split
    · rfl
    · exact loseLink_stores s _
  · rfl

@[simp] theorem lreqGone_stores (s : State) : s.lreqGone.stores = s.stores := by
  unfold State.lreqGone
  split
  · split <;> rfl
  · rfl

@[simp] theorem seeActivity_stores (s : State) : s.seeActivity.stores = s.stores := by
  unfold State.seeActivity
  split <;> rfl

@[simp] theorem lgntSeen_stores (s : State) : s.lgntSeen.stores = s.stores := by
  unfold State.lgntSeen
  split <;> rfl

@[simp] theorem windowExpires_stores (s : State) : s.windowExpires.stores = s.stores := by
  unfold State.windowExpires
  split
  · split <;> rfl
  · rfl

@[simp] theorem takeLinkRequest_stores (s : State) : s.takeLinkRequest.1.stores = s.stores := by
  unfold State.takeLinkRequest
  split
  · rfl
  · split <;> rfl

@[simp] theorem giveLinkRequest_stores (s : State) : s.giveLinkRequest.1.stores = s.stores := by
  unfold State.giveLinkRequest
  split
  · rfl
  · split
    · split
      · rfl
      · dsimp only
        exact loseLink_stores s _
    all_goals rfl

@[simp] theorem afterFrame_stores (s : State) : s.afterFrame.stores = s.stores := by
  unfold State.afterFrame
  split
  · exact loseLink_stores s _
  · split
    · exact loseLink_stores s _
    · exact continueRound_stores s

@[simp] theorem endFrame_stores (s : State) (f : HeadFrame) (e : FrameEnd) : (s.endFrame f e).stores = s.stores := by
  unfold State.endFrame
  refine (afterFrame_stores _).trans ((swapIfReady_stores _ _).trans ((setBuffers_stores _ _ _).trans
    ((setSending_stores _ _).trans ?_)))
  split <;> simp

@[simp] theorem takeAck_stores (s : State) (head ambient : Byte) : (s.takeAck head ambient).stores = s.stores := by
  unfold State.takeAck
  split
  · split
    · exact endFrame_stores s _ _
    · rfl
  · rfl

@[simp] theorem takeNak_stores (s : State) (head code : Byte) : (s.takeNak head code).stores = s.stores := by
  unfold State.takeNak
  split
  · split
    · exact endFrame_stores s _ _
    · rfl
  · rfl

theorem takeAnswer_stores (s : State) (a : Option Answer) : (s.takeAnswer a).stores = s.stores := by
  unfold State.takeAnswer
  split
  · exact takeAck_stores s _ _
  · exact takeNak_stores s _ _
  · rfl

theorem takeAnswers_stores (l : List (Option Answer)) : ∀ s : State, (l.foldl State.takeAnswer s).stores = s.stores := by
  induction l with
  | nil => exact fun _ => rfl
  | cons a l ih => exact fun s => (ih _).trans (takeAnswer_stores s a)

@[simp] theorem takeGroups_stores (s : State) (groups : List (BitVec 5)) : (s.takeGroups groups).stores = s.stores := by
  unfold State.takeGroups
  rw [takeAnswers_stores]
  split
  · exact seeActivity_stores s
  · rfl

@[simp] theorem ackTimesOut_stores (s : State) : s.ackTimesOut.stores = s.stores := by
  unfold State.ackTimesOut
  split
  · exact endFrame_stores s _ _
  · rfl

@[simp] theorem testHold_stores (s : State) (f : HeadFrame) (y : Nat) (holdn : Bool) :
    (s.testHold f y holdn).stores = s.stores := by
  unfold State.testHold
  split <;> rfl

@[simp] theorem headerDone_stores (s : State) (holdn : Bool) : (s.headerDone holdn).stores = s.stores := by
  unfold State.headerDone
  split
  · split
    · exact testHold_stores s _ _ _
    all_goals rfl
  · rfl

@[simp] theorem rowDone_stores (s : State) (holdn : Bool) : (s.rowDone holdn).stores = s.stores := by
  unfold State.rowDone
  split
  · split
    · split
      · exact testHold_stores s _ _ _
      · rfl
    all_goals rfl
  · rfl

@[simp] theorem holdReleased_stores (s : State) : s.holdReleased.stores = s.stores := by
  unfold State.holdReleased
  split
  · split <;> rfl
  · rfl

@[simp] theorem holdExpires_stores (s : State) : s.holdExpires.stores = s.stores := by
  unfold State.holdExpires
  split
  · split
    · exact endFrame_stores s _ _
    all_goals rfl
  · rfl

theorem putBrightness_stores (s : State) (p : List Byte) : (s.putBrightness p).1.stores = s.stores := by
  unfold State.putBrightness
  split <;> rfl

/-! ### Layout and Page Control -/

@[simp] theorem emptyNotice_stores (s : State) (slot : HeadIx) : (s.emptyNotice slot).stores = s.stores :=
  forHeads_stores (fun i t => (releaseHead_at t slot i).1.stores) _

@[simp] theorem defineHead_stores (s : State) (i : HeadIx) (d : HeadData) : (s.defineHead i d).stores = s.stores := by
  unfold State.defineHead
  split
  · rfl
  · split
    · rfl
    · simp

theorem putHead_stores (s : State) (p : List Byte) : (s.putHead p).1.stores = s.stores := by
  unfold State.putHead
  split
  · rfl
  · exact defineHead_stores s _ _

theorem dropHead_stores (s : State) (p : List Byte) : (s.dropHead p).1.stores = s.stores := by
  unfold State.dropHead
  split
  · rfl
  · split
    · rfl
    · split
      · rfl
      · exact (clearBuffers_stores _ _).trans (abandon_stores _ _)

theorem putField_stores (s : State) (p : List Byte) : (s.putField p).1.stores = s.stores := by
  unfold State.putField
  split
  · rfl
  · split <;> rfl

theorem dropField_stores (s : State) (p : List Byte) : (s.dropField p).1.stores = s.stores := by
  unfold State.dropField
  split
  · rfl
  · split
    · rfl
    · split
      · rfl
      · split <;> rfl

theorem advancePages_stores (s : State) (mask : Byte) : (s.advancePages mask).1.stores = s.stores := by
  unfold State.advancePages
  split
  · refine forHeads_stores (fun i t => ?_) s
    split
    · exact onHead_stores t i _
    · rfl
  · rfl

theorem noticeFrame_stores (s : State) (p : List Byte) : (s.noticeFrame p).1.stores = s.stores := by
  unfold State.noticeFrame State.appendNotice State.putNotice
  split
  · split
    · rfl
    · split
      · rfl
      · split <;> rfl
  · split
    · rfl
    · exact forHeads_stores (fun i t => (noticeOnHead_local _ _ i t).1.stores) _

theorem clearNotice_stores (s : State) (p : List Byte) : (s.clearNotice p).1.stores = s.stores := by
  unfold State.clearNotice
  split
  · rfl
  · split
    · rfl
    · split
      · rfl
      · exact emptyNotice_stores s _

@[simp] theorem countDwellOf_stores (s : State) (i : HeadIx) : (s.countDwellOf i).stores = s.stores := onHead_stores s i _

@[simp] theorem countHoldOf_stores (s : State) (i : HeadIx) : (s.countHoldOf i).stores = s.stores := by
  unfold State.countHoldOf
  split
  · dsimp only
    split <;> rfl
  · rfl

@[simp] theorem dwellSecond_stores (s : State) : s.dwellSecond.stores = s.stores :=
  forHeads_stores (fun i t => by split <;> simp) s

@[simp] theorem holdSecond_stores (s : State) : s.holdSecond.stores = s.stores :=
  forHeads_stores (fun i t => by split <;> simp) s

@[simp] theorem pageSecond_stores (s : State) : s.pageSecond.stores = s.stores := by
  refine forHeads_stores (fun i t => ?_) s
  split
  · exact countDwellOf_stores t i
  · split
    · exact countHoldOf_stores t i
    · rfl

@[simp] theorem countNotice_stores (s : State) (slot : HeadIx) : (s.countNotice slot).stores = s.stores := by
  unfold State.countNotice
  split
  · split
    · split
      · exact emptyNotice_stores s slot
      · rfl
    · rfl
  · rfl

@[simp] theorem noticeSecond_stores (s : State) : s.noticeSecond.stores = s.stores :=
  forHeads_stores (fun i t => countNotice_stores t i) s

@[simp] theorem layoutSecond_stores (s : State) : s.layoutSecond.stores = s.stores := by
  unfold State.layoutSecond
  split <;> simp

/-! ### The Composer -/

@[simp] theorem paintField_stores (s : State) (i : HeadIx) (h : Head) (snap : Snapshot) (idx : Nat) (r : FieldRecord) :
    (s.paintField i h snap idx r).stores = s.stores := by
  unfold State.paintField
  dsimp only
  split <;> simp

@[simp] theorem paintOverlay_stores (s : State) (i : HeadIx) (h : Head) (slot : HeadIx) (n : Nat) :
    (s.paintOverlay i h slot n).stores = s.stores := by
  unfold State.paintOverlay
  dsimp only
  split <;> simp

@[simp] theorem completeComp_stores (s : State) (i : HeadIx) : (s.completeComp i).stores = s.stores :=
  swapIfReady_stores _ i

@[simp] theorem completeIfLast_stores (s : State) (i : HeadIx) (painted : Nat) :
    (s.completeIfLast i painted).stores = s.stores := by
  unfold State.completeIfLast
  split
  · split <;> simp
  · rfl

@[simp] theorem paintNext_stores (s : State) (i : HeadIx) : (s.paintNext i).stores = s.stores := by
  unfold State.paintNext
  split
  · split
    · simp
    · split <;> simp
  · rfl

@[simp] theorem frameCompose_stores (s : State) : s.frameCompose.stores = s.stores := (frameCompose_frame s).1.stores

@[simp] theorem frameEvent_stores (s : State) : s.frameEvent.stores = s.stores := by
  unfold State.frameEvent
  dsimp only
  split
  · split
    · exact (frameRound_stores _).trans (frameCompose_stores _)
    · exact (frameCompose_stores _).trans (frameRound_stores _)
  · exact (frameRound_stores _).trans (frameCompose_stores _)

@[simp] theorem frameTimer_stores (s : State) : s.frameTimer.stores = s.stores := by
  unfold State.frameTimer
  split <;> simp

@[simp] theorem fsyncEdge_stores (s : State) : s.fsyncEdge.stores = s.stores := by
  unfold State.fsyncEdge
  split <;> simp

@[simp] theorem fsyncWatch_stores (s : State) : s.fsyncWatch.stores = s.stores := by
  unfold State.fsyncWatch
  split <;> simp

/-! ### Management, but for Configure and Restart -/

@[simp] theorem freezeSecond_stores (s : State) : s.freezeSecond.stores = s.stores := by
  unfold State.freezeSecond
  split
  · split <;> rfl
  · rfl

theorem fill_stores (l : List (Option Byte)) : ∀ s : State, (s.fill l).2.stores = s.stores := by
  induction l with
  | nil => exact fun _ => rfl
  | cons b l ih =>
    intro s
    cases b with
    | none => exact ih s.takeFreeByte.2
    | some b => exact ih s

theorem request_stores (s : State) (x : Header) (n : Nat) {act : State → State × OutcomeCode}
    (hact : (act s).1.stores = s.stores) : (s.request x n act).1.stores = s.stores := by
  unfold State.request
  split
  · exact hact
  · rfl

theorem unfreeze_stores (s : State) : s.unfreeze.1.stores = s.stores := by
  unfold State.unfreeze
  split <;> rfl

theorem counterRead_stores (s : State) (x : Header) : (s.counterRead x).1.stores = s.stores := by
  unfold State.counterRead
  split
  · dsimp only
    split <;> rfl
  · rfl

theorem readRequest_stores (s : State) (a : ReadAnswer) : (s.readRequest a).1.stores = s.stores := fill_stores _ _

theorem assignAddress_stores (s : State) (x : Header) : (s.assignAddress x).1.stores = s.stores := by
  unfold State.assignAddress
  split
  · rfl
  · split
    · split <;> rfl
    · rfl

/-- Of the management requests only a Configure and a Restart act on the stores. -/
theorem manage_stores (s : State) (x : Header) {k : Kind} (hconf : k ≠ .configure) (hrestart : k ≠ .restart) :
    (s.manage x k).1.stores = s.stores := by
  cases k
  case configure => exact absurd rfl hconf
  case restart => exact absurd rfl hrestart
  case statusQuery => exact fill_stores _ s
  case counterRead => exact counterRead_stores s x
  case eventClear => exact request_stores s x 1 rfl
  case eventEnable => exact request_stores s x 1 rfl
  case freeze => exact request_stores s x 0 rfl
  case unfreeze => exact request_stores s x 0 (unfreeze_stores s)
  case advance => exact request_stores s x 1 (advancePages_stores s _)
  case blank => exact request_stores s x 1 rfl
  case unblank => exact request_stores s x 1 rfl
  case takeLink => exact request_stores s x 0 (takeLinkRequest_stores s)
  case giveLink => exact request_stores s x 0 (giveLinkRequest_stores s)
  case readBack => exact readRequest_stores s _
  case readNext => exact readRequest_stores s _
  case addressAssign => exact assignAddress_stores s x
  all_goals rfl

/-! ### The feed port -/

@[simp] theorem forward_stores (s : State) (body : List Byte) (h : Header) : (s.forward body h).stores = s.stores := by
  rcases forward_cases s body h with e | e | e <;> rw [e] <;> rfl

@[simp] theorem offerReply_stores (s : State) (tag : Byte) (r : Reply) : (s.offerReply tag r).stores = s.stores := by
  rcases offerReply_cases s tag r with ⟨_, e⟩ | ⟨_, e⟩ <;> rw [e] <;> rfl

@[simp] theorem offerOpt_stores (s : State) (tag : Byte) (r : Option Reply) : (s.offerOpt tag r).stores = s.stores := by
  cases r with
  | none => rfl
  | some r => exact offerReply_stores s tag r

@[simp] theorem unknownKind_stores (s : State) (body : List Byte) (h : Header) :
    (s.unknownKind body h).stores = s.stores := by
  unfold State.unknownKind
  dsimp only
  split <;> simp

theorem rxIdle_stores (s : State) : s.rxIdle.stores = s.stores := by
  unfold State.rxIdle
  split <;> rfl

theorem rxSync_stores (s : State) : s.rxSync.stores = s.stores := by
  unfold State.rxSync
  split <;> rfl

theorem rxData_stores (s : State) (b : Byte) : (s.rxData b).stores = s.stores := by
  unfold State.rxData
  split
  · rfl
  · rfl
  · split <;> rfl

theorem rxBody_stores (body : List Byte) : ∀ s : State, (body.foldl State.rxData s).stores = s.stores := by
  induction body with
  | nil => exact fun _ => rfl
  | cons b body ih => exact fun s => (ih _).trans (rxData_stores s b)

theorem rxInvalid_stores (s : State) : s.rxInvalid.stores = s.stores := by
  unfold State.rxInvalid
  split <;> rfl

theorem forwardSent_stores (s : State) : s.forwardSent.stores = s.stores := by
  unfold State.forwardSent
  split <;> rfl

theorem gapEnd_stores (s : State) : s.gapEnd.stores = s.stores := by
  unfold State.gapEnd
  split <;> rfl

/-! ### Every command -/

/-- A property of the stores that each operation on them keeps: the owners' frames, a setting, the clock's updates, the two
counts of a second event, and the resets. -/
structure StoreInvariant (P : State → Prop) : Prop where
  /-- Nothing beside the stores matters to it. -/
  same {s t : State} : t.stores = s.stores → P s → P t
  board {s : State} {k : Kind} : k ∈ [Kind.departurePut, .departureAmend, .departureRemove, .stops, .stopAmend] →
    ∀ p, P s → P (s.own p k).1
  names {s : State} (p : List Byte) {t : List NameEntry} : t ∈ [(putNameFrame s.names.table p).table,
    (dropNameFrame s.names.table p).table, (clearNamesFrame s.names.table p).table] →
    P s → P { s with names := { s.names with table := t } }
  fonts {s : State} (p : List Byte) {f : Fonts} : f ∈ [(defineFont s.fonts p).fonts, (putGlyph s.fonts p).fonts] →
    P s → P { s with fonts := f }
  setting {s : State} (n v : Nat) : P s → P (s.applySetting n v).1
  advance {s : State} : P s → P (s.setClock s.clock.advance)
  edge {s : State} (micros : Nat) : P s → P (s.setClock (s.clock.acceptEdge micros))
  loss {s : State} : s.straps.csrc = .pulse → P s → P (s.setClock { s.clock with lost := true, counted := 2 })
  instant {s : State} : P s → P (s.setClock { s.clock with counted := s.clock.counted + 1 })
  time {s : State} {p : List Byte} {h m sec : Nat} : timeOf p = some (h, m, sec) → P s →
    P (s.setClock (s.clock.setTo h m sec))
  departures {s : State} (second : Bool) (expiry : Option Nat) : P s → P (s.departureSecond second expiry)
  builds {s : State} : P s → P s.buildSecond
  restart {s : State} : P s → P s.restart
  reset {s : State} (straps : Straps) : P s → P (s.endReset straps)

namespace StoreInvariant

variable {P : State → Prop} (inv : StoreInvariant P)
include inv

theorem own {s : State} (h : P s) (p : List Byte) (k : Kind) : P (s.own p k).1 := by
  have hnames : ∀ r : NameResult, r.table ∈ [(putNameFrame s.names.table p).table, (dropNameFrame s.names.table p).table,
      (clearNamesFrame s.names.table p).table] → P (s.takeNames r).1 := fun r hr =>
    inv.same (bumpAll_stores _ _) (inv.names p hr h)
  cases k
  case departurePut | departureAmend | departureRemove | stops | stopAmend => exact inv.board (by decide) p h
  case noticePut => exact inv.same (noticeFrame_stores s p) h
  case noticeClear => exact inv.same (clearNotice_stores s p) h
  case timeSet =>
    show P (s.timeFrame p).1
    unfold State.timeFrame
    split
    · exact h
    · next ht =>
      dsimp only
      split
      · exact inv.departures _ _ (inv.time ht h)
      · exact inv.time ht h
  case namePut | nameDrop | namesClear => exact hnames _ (by simp)
  case fontDefine | glyphPut => exact inv.fonts p (by simp) h
  case headDefine => exact inv.same (putHead_stores s p) h
  case headDrop => exact inv.same (dropHead_stores s p) h
  case fieldPut => exact inv.same (putField_stores s p) h
  case fieldDrop => exact inv.same (dropField_stores s p) h
  case brightnessTablePut => exact inv.same (putBrightness_stores s p) h
  all_goals exact h

theorem applyPairs {s : State} (h : P s) (l : List (Nat × Nat)) : P (s.applyPairs l).1 := by
  unfold State.applyPairs
  suffices H : ∀ r : State × Bool, P r.1 →
      P (l.foldl (fun r p => ((r.1.applySetting p.1 p.2).1, r.2 || (r.1.applySetting p.1 p.2).2)) r).1 from H (s, false) h
  induction l with
  | nil => exact fun _ hr => hr
  | cons p l ih => exact fun r hr => ih _ (inv.setting p.1 p.2 hr)

theorem manage {s : State} (h : P s) (x : Header) (k : Kind) : P (s.manage x k).1 := by
  by_cases hconf : k = .configure
  · subst hconf
    show P (s.configure x.payload).1
    unfold State.configure
    split
    · exact h
    · exact inv.applyPairs h _
  · by_cases hrestart : k = .restart
    · subst hrestart
      show P (s.restartRequest x).1
      unfold State.restartRequest
      split
      · exact h
      · split
        · exact inv.same (by rfl) h
        · exact inv.restart h
    · exact inv.same (manage_stores s x hconf hrestart) h

theorem handData {s : State} (h : P s) (k : Kind) (x : Header) (reply : Bool) : P (s.handData k x reply) := by
  have howned := inv.own (inv.same (bump_stores s .framesActedOn) h) x.payload k
  unfold State.handData
  dsimp only
  split
  · exact inv.same (offerReply_stores _ _ _) howned
  · exact howned

theorem handManagement {s : State} (h : P s) (k : Kind) (x : Header) : P (s.handManagement k x) := by
  unfold State.handManagement
  split
  · exact inv.same (by rfl) h
  · exact inv.same (offerOpt_stores _ _ _) (inv.manage (inv.same (bump_stores s .framesActedOn) h) x k)

theorem disposeData {s : State} (h : P s) (k : Kind) (body : List Byte) (x : Header) : P (s.disposeData k body x) := by
  unfold State.disposeData
  split
  · exact inv.handData h _ _ _
  · split
    · exact inv.same (forward_stores _ _ _) (inv.handData h _ _ _)
    · exact inv.same (forward_stores _ _ _) h

theorem disposeManagement {s : State} (h : P s) (k : Kind) (body : List Byte) (x : Header) :
    P (s.disposeManagement k body x) := by
  have hforward : P (s.forward body x) := inv.same (forward_stores s body x) h
  unfold State.disposeManagement
  split
  · exact inv.handManagement h _ _
  · split
    · split
      · exact inv.same (forward_stores _ _ _) (inv.handManagement h _ _)
      · exact hforward
    · split
      · exact inv.same (forward_stores (s.bump .unknownKind) body x) (inv.same (bump_stores s .unknownKind) h)
      · exact hforward

theorem dispose {s : State} (h : P s) (body : List Byte) (x : Header) : P (s.dispose body x) := by
  unfold State.dispose
  split
  · exact inv.same (forward_stores s body x) h
  · split
    · exact inv.same (unknownKind_stores s body x) h
    · split
      · exact inv.disposeData h _ _ _
      · exact inv.disposeManagement h _ _ _

theorem arrive {s : State} (h : P s) (body : List Byte) : P (s.arrive body) := by
  have hcounted : ∀ c, P (s.bump c) := fun c => inv.same (bump_stores s c) h
  unfold State.arrive
  split
  · exact hcounted _
  · split
    · exact inv.same (raise_stores _ _) (hcounted _)
    · split
      · exact hcounted _
      · split
        · exact inv.dispose (hcounted _) _ _
        · exact hcounted _

theorem rxEnd {s : State} (h : P s) : P s.rxEnd := by
  unfold State.rxEnd
  split
  · exact h
  · exact h
  · exact inv.arrive (inv.same (setRx_stores s _ _) h) _

theorem receive {s : State} (h : P s) (body : List Byte) : P (s.receive body) :=
  inv.rxEnd (inv.same ((rxBody_stores body _).trans (rxSync_stores s)) h)

theorem replySent {s : State} (h : P s) : P s.replySent := by
  unfold State.replySent
  split
  · dsimp only
    split
    · exact inv.restart (inv.same (by rfl) h)
    · exact inv.same (by rfl) h
  all_goals exact h

/-- The blocks' shares of a second event, in any order (R75; log 7). -/
theorem shares (expiry : Option Nat) (l : List Share) : ∀ {s : State}, P s → P (l.foldl (Share.act expiry) s) := by
  induction l with
  | nil => exact fun h => h
  | cons x l ih =>
    intro s h
    refine ih ?_
    cases x with
    | departures => exact inv.departures _ _ h
    | builds => exact inv.builds h
    | layout => exact inv.same (layoutSecond_stores s) h
    | link => exact inv.same (by rfl) h
    | freeze => exact inv.same (freezeSecond_stores s) h

theorem secondEvent {s : State} (h : P s) (expiry : Option Nat) : P (s.secondEvent expiry) := by
  unfold State.secondEvent
  split
  · exact inv.shares _ _ (inv.same (by rfl) h)
  · exact inv.shares _ _ h

theorem advanceClock {s : State} (h : P s) : P s.advanceClock := inv.secondEvent (inv.advance h) _

theorem internalTick {s : State} (h : P s) : P s.internalTick := by
  unfold State.internalTick
  split
  · exact inv.advanceClock h
  · exact h

theorem secpEdge {s : State} (h : P s) (micros : Nat) : P (s.secpEdge micros) := by
  unfold State.secpEdge
  split
  · exact h
  · dsimp only
    split
    · exact inv.advanceClock (inv.edge micros h)
    · exact inv.edge micros h

theorem watchExpires {s : State} (h : P s) : P s.watchExpires := by
  unfold State.watchExpires
  split
  · next hpulse => exact inv.advanceClock (inv.advanceClock (inv.loss hpulse.1 h))
  · exact h

theorem scheduledTick {s : State} (h : P s) : P s.scheduledTick := by
  unfold State.scheduledTick
  split
  · exact inv.advanceClock (inv.instant h)
  · exact h

/-- A command taken while the part runs keeps the property when its effect does. -/
theorem live {s t : State} {effect : State → State} (h : P s) (e : Machine.live s effect = .next t)
    (heffect : P s → P (effect s)) : P t := by
  rcases live_next e with ⟨_, rfl⟩ | ⟨_, rfl⟩
  · exact inv.same (holdLevels_stores _) (heffect h)
  · exact h

/-- An effect beside the stores keeps the property. -/
theorem liveBeside {s t : State} {effect : State → State} (h : P s) (e : Machine.live s effect = .next t)
    (heffect : (effect s).stores = s.stores) : P t := inv.live h e (inv.same heffect)

theorem unlessFrozen {s t : State} {f : State → State} (h : P s)
    (e : Machine.live s (fun s => if s.mgmt.frozen then s else f s) = .next t)
    (hf : (f s).stores = s.stores) : P t := by
  refine inv.liveBeside h e ?_
  split
  · rfl
  · exact hf

/-- Every command keeps a property of the stores that each operation on them keeps. -/
theorem exec (c : Instr) (s t : State) (h : P s) (e : Machine.exec c s = .next t) : P t := by
  cases hframe : c.frame with
  | some kf =>
    rw [exec_frame hframe] at e
    exact inv.live h e (fun hs => inv.receive hs _)
  | none =>
    cases c
    case hardReset =>
      cases e
      exact inv.same (by rfl) h
    case hardResetEnd straps =>
      cases e
      split
      · exact inv.reset straps h
      · exact h
    case idleMarker => exact inv.liveBeside h e (rxIdle_stores s)
    case syncMarker => exact inv.liveBeside h e (rxSync_stores s)
    case dataByte b => exact inv.liveBeside (effect := fun s => s.rxData b) h e (rxData_stores s b)
    case invalidCharacter => exact inv.liveBeside h e (rxInvalid_stores s)
    case frameArrival => exact inv.live h e inv.rxEnd
    case idleGapEnd => exact inv.liveBeside h e (gapEnd_stores s)
    case forwardedFrameSent => exact inv.liveBeside h e (forwardSent_stores s)
    case replySent => exact inv.live h e inv.replySent
    case internalTick => exact inv.live h e inv.internalTick
    case secpRisingEdge micros =>
      exact inv.live (effect := fun s => s.secpEdge micros) h e fun hs => inv.secpEdge hs micros
    case clockWatchExpiry => exact inv.live h e inv.watchExpires
    case scheduledInstantTick => exact inv.live h e inv.scheduledTick
    case lingerExpiry => exact inv.live h e (inv.departures true none)
    case buildTimeout => exact inv.live h e inv.builds
    case dwellExpiry => exact inv.unlessFrozen h e (dwellSecond_stores s)
    case holdTimeout => exact inv.unlessFrozen h e (holdSecond_stores s)
    case noticeExpiry => exact inv.unlessFrozen h e (noticeSecond_stores s)
    case freezeTimeout => exact inv.liveBeside h e (freezeSecond_stores s)
    case frameTimerExpiry => exact inv.liveBeside h e (frameTimer_stores s)
    case fsyncRisingEdge => exact inv.liveBeside h e (fsyncEdge_stores s)
    case fsyncWatchExpiry => exact inv.liveBeside h e (fsyncWatch_stores s)
    case fieldPaint i => exact inv.liveBeside (effect := fun s => s.paintNext i) h e (paintNext_stores s i)
    case rowSent holdn => exact inv.liveBeside (effect := fun s => s.rowDone holdn) h e (rowDone_stores s holdn)
    case holdnRelease => exact inv.liveBeside h e (holdReleased_stores s)
    case holdLimitExpiry => exact inv.liveBeside h e (holdExpires_stores s)
    case ackReceived head ambient =>
      exact inv.liveBeside (effect := fun s => s.seeActivity.takeAck head ambient) h e
        ((takeAck_stores _ head ambient).trans (seeActivity_stores s))
    case nakReceived head code =>
      exact inv.liveBeside (effect := fun s => s.seeActivity.takeNak head code) h e
        ((takeNak_stores _ head code).trans (seeActivity_stores s))
    case ackTimeout => exact inv.liveBeside h e (ackTimesOut_stores s)
    case answerNotWellFormed groups =>
      exact inv.liveBeside (effect := fun s => s.takeGroups groups) h e (takeGroups_stores s groups)
    case lreqAsserted =>
      exact inv.liveBeside (inv.same (setLreq_stores s true) h) e (lreqSeen_stores (s.setLreq true))
    case lreqReleased =>
      exact inv.liveBeside (inv.same (setLreq_stores s false) h) e (lreqGone_stores (s.setLreq false))
    case lgntAsserted => exact inv.liveBeside h e (lgntSeen_stores s)
    case activity => exact inv.liveBeside h e (seeActivity_stores s)
    case grantWaitExpiry => exact inv.liveBeside h e (windowExpires_stores s)
    case headerSent holdn => exact inv.liveBeside (effect := fun s => s.headerDone holdn) h e (headerDone_stores s holdn)
    all_goals cases hframe

end StoreInvariant

end Sys2Proof.Machine
end

section
/-! PROOFS. The board's operations: order of the table, Removal Memory, and the blocks of the Calling Pool. -/

namespace Sys2Proof.Machine

/-! ### The order of keys (R23) -/

theorem keyLt_iff (a b : Nat × Nat) : keyLt a b = true ↔ a.1 < b.1 ∨ a.1 = b.1 ∧ a.2 < b.2 := by
  simp [keyLt]

theorem keyLt_trans {a b c : Nat × Nat} (h : keyLt a b = true) (g : keyLt b c = true) : keyLt a c = true := by
  rw [keyLt_iff] at *
  omega

/-- Two keys of different services are ordered one way or the other. -/
theorem keyLt_of_not {a b : Nat × Nat} (hne : a.2 ≠ b.2) (h : keyLt a b ≠ true) : keyLt b a = true := by
  rw [ne_eq, keyLt_iff] at h
  rw [keyLt_iff]
  omega

/-- The entries stand in key order. -/
def KeyOrdered (dayStart : Nat) (t : List Entry) : Prop :=
  t.Pairwise (fun x y => keyLt (x.key dayStart) (y.key dayStart) = true)

/-- An entry of a service not in the table takes the place of its key. -/
theorem insertEntry_keyOrdered {d : Nat} {e : Entry} {t : List Entry} (h : KeyOrdered d t) (hnew : ∀ x ∈ t, x.id ≠ e.id) :
    KeyOrdered d (insertEntry d e t) := by
  induction t with
  | nil => exact List.pairwise_singleton _ _
  | cons x xs ih =>
    obtain ⟨hx, hxs⟩ := List.pairwise_cons.1 h
    unfold insertEntry
    split
    · next hlt =>
      refine List.pairwise_cons.2 ⟨fun y hy => ?_, h⟩
      rcases List.mem_cons.1 hy with rfl | hy
      · exact hlt
      · exact keyLt_trans hlt (hx y hy)
    · next hge =>
      refine List.pairwise_cons.2 ⟨fun y hy => ?_, ih hxs fun y hy => hnew y (List.mem_cons_of_mem x hy)⟩
      rcases List.mem_cons.1 ((insertEntry_perm d e xs).mem_iff.1 hy) with rfl | hy
      · exact keyLt_of_not (hnew x (List.mem_cons_self ..)).symm hge
      · exact hx y hy

/-- Entries of different services, ordered anew (R24). -/
theorem reorder_keyOrdered (d : Nat) {t : List Entry} (h : (t.map Entry.id).Nodup) : KeyOrdered d (reorder d t) := by
  induction t with
  | nil => exact List.Pairwise.nil
  | cons x xs ih =>
    obtain ⟨hx, hxs⟩ := List.nodup_cons.1 h
    refine insertEntry_keyOrdered (ih hxs) fun y hy he => hx ?_
    rw [← he]
    exact List.mem_map_of_mem ((reorder_perm d xs).mem_iff.1 hy)

/-- A change in place that keeps each entry's service and scheduled time keeps the order. -/
theorem map_keyOrdered {d : Nat} {f : Entry → Entry} {t : List Entry} (h : KeyOrdered d t)
    (hf : ∀ e ∈ t, (f e).key d = e.key d) : KeyOrdered d (t.map f) := by
  refine List.pairwise_map.2 (h.imp_of_mem fun {x y} hx hy hlt => ?_)
  rw [hf x hx, hf y hy]
  exact hlt

/-! ### One entry of each service (R22) -/

/-- With one entry for each service, an entry of the table is the one found for its service. -/
theorem eq_of_id_eq {t : List Entry} (h : (t.map Entry.id).Nodup) {x y : Entry} (hx : x ∈ t) (hy : y ∈ t)
    (hid : x.id = y.id) : x = y := List.inj_on_of_nodup_map h hx hy hid

/-- The table is an entry and the entries of the other services. -/
theorem perm_cons_others {t : List Entry} (h : (t.map Entry.id).Nodup) {e : Entry} (he : e ∈ t) :
    t.Perm (e :: t.filter (fun x => x.id != e.id)) := by
  induction t with
  | nil => cases he
  | cons x xs ih =>
    obtain ⟨hx, hxs⟩ := List.nodup_cons.1 h
    have hothers : ∀ y ∈ xs, y.id ≠ x.id := fun y hy hid => hx (hid ▸ List.mem_map_of_mem hy)
    by_cases hex : e = x
    · subst hex
      have hkeep : xs.filter (fun y => y.id != e.id) = xs := List.filter_eq_self.2 (by simpa using hothers)
      simp [hkeep]
    · have hmem : e ∈ xs := (List.mem_cons.1 he).resolve_left hex
      have hne : (x.id != e.id) = true := by simpa using (hothers e hmem).symm
      rw [List.filter_cons_of_pos (by exact hne)]
      exact ((ih hxs hmem).cons x).trans (List.Perm.swap e x _)

theorem others_not_mem {t : List Entry} {id : Nat} {x : Entry} (h : x ∈ t.filter (fun x => x.id != id)) : x.id ≠ id := by
  simpa using (List.mem_filter.1 h).2

/-! ### The parts of the invariant (R22, R23, R26, R48) -/

/-- The board's part of `State.BoardSound`. -/
structure Board.Sound (dayStart : Nat) (b : Board) : Prop where
  ordered : b.Ordered dayStart
  remembers : b.Remembers
  conserves : b.Conserves

theorem boardSound_iff (s : State) : s.BoardSound ↔ s.board.Sound s.mgmt.settings.dayStart :=
  ⟨fun ⟨ho, hr, hc⟩ => ⟨ho, hr, hc⟩, fun ⟨ho, hr, hc⟩ => ⟨ho, hr, hc⟩⟩

/-- Leaving entries out keeps the order. -/
theorem Board.Ordered.filter {d : Nat} {b : Board} (h : b.Ordered d) (p : Entry → Bool) (mem : List Removal)
    (free : List Nat) : (Board.mk (b.table.filter p) mem free).Ordered d := by
  obtain ⟨hkeys, hids, hlen⟩ := h
  exact ⟨hkeys.sublist List.filter_sublist, hids.sublist (List.filter_sublist.map _),
    (List.length_filter_le p b.table).trans hlen⟩

theorem Board.Ordered.insert {d : Nat} {b : Board} (h : b.Ordered d) {e : Entry} (hnew : ∀ x ∈ b.table, x.id ≠ e.id)
    (hroom : b.table.length < Config.maxEntries) : { b with table := insertEntry d e b.table }.Ordered d := by
  obtain ⟨hkeys, hids, _⟩ := h
  have hperm := insertEntry_perm d e b.table
  refine ⟨insertEntry_keyOrdered hkeys hnew, (hperm.map Entry.id).nodup_iff.2 ?_, hperm.length_eq.trans_le hroom⟩
  refine List.nodup_cons.2 ⟨fun hmem => ?_, hids⟩
  obtain ⟨x, hx, hid⟩ := List.mem_map.1 hmem
  exact hnew x hx hid

/-- A change in place of what is neither service nor scheduled time keeps the order. -/
theorem Board.Ordered.map {d : Nat} {b : Board} (h : b.Ordered d) {f : Entry → Entry}
    (hid : ∀ e ∈ b.table, (f e).id = e.id) (hsched : ∀ e ∈ b.table, (f e).sched = e.sched) (mem : List Removal)
    (free : List Nat) : (Board.mk (b.table.map f) mem free).Ordered d := by
  obtain ⟨hkeys, hids, hlen⟩ := h
  have hkey : ∀ e ∈ b.table, (f e).key d = e.key d := fun e he => by simp [Entry.key, hid e he, hsched e he]
  have hsame : (b.table.map f).map Entry.id = b.table.map Entry.id := by
    rw [List.map_map]
    exact List.map_congr_left hid
  exact ⟨map_keyOrdered hkeys hkey, by rwa [hsame], (List.length_map f).trans_le hlen⟩

/-- The memory needs the services of the table alone. -/
theorem Board.Remembers.ofIds {b c : Board} (h : b.Remembers) (hmem : c.memory = b.memory)
    (hids : ∀ x ∈ c.table, ∃ y ∈ b.table, y.id = x.id) : c.Remembers := by
  obtain ⟨hlen, hnodup, hapart⟩ := h
  refine ⟨by rwa [hmem], by rwa [hmem], fun r hr x hx hid => ?_⟩
  obtain ⟨y, hy, hyx⟩ := hids x hx
  exact hapart r (hmem ▸ hr) y hy (hid.trans hyx.symm)

/-- Records of services leave the memory (R26). -/
theorem Board.Remembers.forget {b : Board} (h : b.Remembers) (id : Nat) :
    { b with memory := Machine.forget b.memory id }.Remembers := by
  obtain ⟨hlen, hnodup, hapart⟩ := h
  exact ⟨(List.length_filter_le _ _).trans hlen, hnodup.sublist (List.filter_sublist.map _),
    fun r hr => hapart r (List.mem_of_mem_filter hr)⟩

theorem forget_not_mem {mem : List Removal} {id : Nat} {r : Removal} (h : r ∈ forget mem id) : r.id ≠ id := by
  simpa using (List.mem_filter.1 h).2

/-- What the memory keeps of its records when one is added, in their order. -/
theorem remember_eq (mem : List Removal) (r : Removal) : ∃ kept, kept.Sublist mem ∧ remember mem r = kept ++ [r] := by
  unfold remember
  split
  · exact ⟨_, List.drop_sublist _ _, rfl⟩
  · exact ⟨mem, List.Sublist.refl _, rfl⟩

/-- A record of a service that is neither in the table nor in the memory joins the memory (R26). -/
theorem Board.Remembers.remember {b : Board} (h : b.Remembers) {id : Nat} (rev : Nat) (hmem : ∀ r ∈ b.memory, r.id ≠ id)
    (htable : ∀ e ∈ b.table, e.id ≠ id) : { b with memory := Machine.remember b.memory ⟨id, rev⟩ }.Remembers := by
  obtain ⟨hlen, hnodup, hapart⟩ := h
  obtain ⟨kept, hkept, e⟩ := remember_eq b.memory ⟨id, rev⟩
  refine ⟨remember_length _ _ hlen, ?_, ?_⟩
  · rw [e, List.map_append, List.map_singleton]
    refine (hnodup.sublist (hkept.map _)).append (List.nodup_singleton _) ?_
    rw [List.disjoint_singleton]
    intro hid
    obtain ⟨r, hr, hrid⟩ := List.mem_map.1 hid
    exact hmem r (hkept.subset hr) hrid
  · rw [e]
    intro r hr x hx
    rcases List.mem_append.1 hr with hr | hr
    · exact hapart r (hkept.subset hr) x hx
    · cases List.mem_singleton.1 hr
      exact (htable x hx).symm

/-- The blocks that the entries of a table hold. -/
def tableBlocks (t : List Entry) : List Nat := t.flatMap Entry.blocks

theorem tableBlocks_cons (e : Entry) (t : List Entry) : tableBlocks (e :: t) = e.blocks ++ tableBlocks t := rfl

theorem tableBlocks_perm {t u : List Entry} (h : t.Perm u) : (tableBlocks t).Perm (tableBlocks u) := h.flatMap_right _

/-- A change in place that keeps each entry's blocks keeps the table's. -/
theorem tableBlocks_map {t : List Entry} {f : Entry → Entry} (h : ∀ e ∈ t, (f e).blocks = e.blocks) :
    tableBlocks (t.map f) = tableBlocks t := by
  unfold tableBlocks
  rw [List.flatMap_map]
  exact List.flatMap_congr h

/-- Every block stays in one place when free list and table exchange blocks. -/
theorem Board.Conserves.exchange {b c : Board} (h : b.Conserves)
    (hperm : (c.free ++ tableBlocks c.table).Perm (b.free ++ tableBlocks b.table)) : c.Conserves := hperm.trans h

/-! ### Operations that keep the invariant -/

section Sound

variable {d : Nat} {b : Board} (h : b.Sound d)
include h

/-- A removal of an entry whose service stands in the table with the same blocks (R27, R60). -/
theorem Board.Sound.remove {e x : Entry} (hx : x ∈ b.table) (hid : x.id = e.id) (hblocks : x.blocks = e.blocks)
    (rev : Nat) : (b.remove e rev).Sound d := by
  obtain ⟨ho, hr, hc⟩ := h
  refine ⟨ho.filter _ _ _, ?_, hc.exchange ?_⟩
  · have hleft : { b with table := b.table.filter (fun x => x.id != e.id) }.Remembers :=
      hr.ofIds rfl fun y hy => ⟨y, List.mem_of_mem_filter hy, rfl⟩
    exact (hleft.remember rev (fun r hrec hrid => hr.2.2 r hrec x hx (hrid.trans hid.symm))
      fun y hy => others_not_mem hy).ofIds rfl fun y hy => ⟨y, hy, rfl⟩
  · have hsplit : (tableBlocks b.table).Perm (e.blocks ++ tableBlocks (b.table.filter (fun x => x.id != e.id))) := by
      have hcons := tableBlocks_perm (perm_cons_others ho.2.1 hx)
      rwa [hid, tableBlocks_cons, hblocks] at hcons
    show ((b.free ++ e.blocks) ++ tableBlocks (b.table.filter (fun x => x.id != e.id))).Perm _
    rw [List.append_assoc]
    exact (hsplit.symm).append_left b.free

/-- An entry of the table is removed at once when a linger of it stands at 0 (R29, R33). -/
theorem Board.Sound.removeIfEnded {e : Entry} (he : e ∈ b.table) : (b.removeIfEnded e).Sound d := by
  unfold Board.removeIfEnded
  split
  · exact h.remove he rfl rfl _
  · exact h

/-- Records of a service leave the memory (R26). -/
theorem Board.Sound.forget (id : Nat) : { b with memory := Machine.forget b.memory id }.Sound d :=
  ⟨h.ordered, h.remembers.forget id, h.conserves⟩

/-- A record of a service that is nowhere on the board joins the memory (R30). -/
theorem Board.Sound.remember {id : Nat} (rev : Nat) (hmem : ∀ r ∈ b.memory, r.id ≠ id)
    (htable : ∀ e ∈ b.table, e.id ≠ id) : { b with memory := Machine.remember b.memory ⟨id, rev⟩ }.Sound d :=
  ⟨h.ordered, h.remembers.remember rev hmem htable, h.conserves⟩

/-- An entry without blocks, of a service that is nowhere on the board, joins a table with room (R30). -/
theorem Board.Sound.insert {e : Entry} (hmem : ∀ r ∈ b.memory, r.id ≠ e.id) (htable : ∀ x ∈ b.table, x.id ≠ e.id)
    (hroom : b.table.length < Config.maxEntries) (hblocks : e.blocks = []) :
    { b with table := insertEntry d e b.table }.Sound d := by
  obtain ⟨ho, ⟨hlen, hnodup, hapart⟩, hc⟩ := h
  have hperm := insertEntry_perm d e b.table
  refine ⟨ho.insert htable hroom, ⟨hlen, hnodup, fun r hr x hx => ?_⟩, hc.exchange ?_⟩
  · rcases List.mem_cons.1 (hperm.mem_iff.1 hx) with rfl | hx
    · exact hmem r hr
    · exact hapart r hr x hx
  · have hjoin := tableBlocks_perm hperm
    rw [tableBlocks_cons, hblocks] at hjoin
    exact hjoin.append_left b.free

/-- An entry moves to the place of its new key with the blocks it had (R29). -/
theorem Board.Sound.replace {e e' : Entry} (he : e ∈ b.table) (hid : e'.id = e.id) (hblocks : e'.blocks = e.blocks) :
    { b with table := insertEntry d e' (b.table.filter (fun x => x.id != e.id)) }.Sound d := by
  obtain ⟨ho, hr, hc⟩ := h
  have hperm := insertEntry_perm d e' (b.table.filter (fun x => x.id != e.id))
  have hsplit := perm_cons_others ho.2.1 he
  refine ⟨(ho.filter _ b.memory b.free).insert (fun x hx => hid ▸ others_not_mem hx) ?_, hr.ofIds rfl fun x hx => ?_,
    hc.exchange ?_⟩
  · have hlen := hsplit.length_eq.symm.trans_le ho.2.2
    exact hlen
  · rcases List.mem_cons.1 (hperm.mem_iff.1 hx) with rfl | hx
    · exact ⟨e, he, hid.symm⟩
    · exact ⟨x, List.mem_of_mem_filter hx, rfl⟩
  · have hmoved := tableBlocks_perm hperm
    have hheld := tableBlocks_perm hsplit
    rw [tableBlocks_cons] at hmoved hheld
    rw [hblocks] at hmoved
    exact (hmoved.trans hheld.symm).append_left b.free

/-- Entries change in place, and the free list exchanges blocks with them. -/
theorem Board.Sound.map {f : Entry → Entry} (hid : ∀ e ∈ b.table, (f e).id = e.id)
    (hsched : ∀ e ∈ b.table, (f e).sched = e.sched) {free : List Nat}
    (hperm : (free ++ tableBlocks (b.table.map f)).Perm (b.free ++ tableBlocks b.table)) :
    (Board.mk (b.table.map f) b.memory free).Sound d := by
  obtain ⟨ho, hr, hc⟩ := h
  refine ⟨ho.map hid hsched _ _, hr.ofIds rfl fun x hx => ?_, hc.exchange hperm⟩
  obtain ⟨y, hy, rfl⟩ := List.mem_map.1 hx
  exact ⟨y, hy, (hid y hy).symm⟩

/-- Entries change in place and keep their blocks. -/
theorem Board.Sound.mapBeside {f : Entry → Entry} (hid : ∀ e ∈ b.table, (f e).id = e.id)
    (hsched : ∀ e ∈ b.table, (f e).sched = e.sched) (hblocks : ∀ e ∈ b.table, (f e).blocks = e.blocks) :
    { b with table := b.table.map f }.Sound d :=
  h.map hid hsched (by rw [tableBlocks_map hblocks])

/-- One entry changes in place, and the free list exchanges blocks with it. -/
theorem Board.Sound.update {e : Entry} (he : e ∈ b.table) {f : Entry → Entry} (hid : (f e).id = e.id)
    (hsched : (f e).sched = e.sched) {free : List Nat}
    (hperm : (free ++ (f e).blocks).Perm (b.free ++ e.blocks)) :
    (Board.mk (updateEntry e.id f b.table) b.memory free).Sound d := by
  have honly : ∀ x ∈ b.table, x.id = e.id → x = e := fun x hx => eq_of_id_eq h.ordered.2.1 hx he
  refine h.map (fun x hx => ?_) (fun x hx => ?_) ?_
  · split
    · next hxe =>
      obtain rfl := honly x hx hxe
      exact hid
    · rfl
  · split
    · next hxe =>
      obtain rfl := honly x hx hxe
      exact hsched
    · rfl
  · have hsplit := perm_cons_others h.ordered.2.1 he
    have hheld := tableBlocks_perm hsplit
    have hchanged := tableBlocks_perm (hsplit.map fun x => if x.id = e.id then f x else x)
    have hothers : tableBlocks ((b.table.filter fun x => x.id != e.id).map fun x => if x.id = e.id then f x else x) =
        tableBlocks (b.table.filter fun x => x.id != e.id) :=
      tableBlocks_map fun x hx => by rw [if_neg (others_not_mem hx)]
    rw [tableBlocks_cons] at hheld
    rw [List.map_cons, if_pos rfl, tableBlocks_cons, hothers] at hchanged
    refine (hchanged.append_left free).trans (List.Perm.trans ?_ (hheld.append_left b.free).symm)
    rw [← List.append_assoc, ← List.append_assoc]
    exact hperm.append_right _

/-- A table ordered anew by another Day Start (R24). -/
theorem Board.Sound.newDayStart (dayStart : Nat) : (b.newDayStart dayStart).Sound dayStart := by
  obtain ⟨⟨_, hids, hlen⟩, hr, hc⟩ := h
  have hperm := reorder_perm dayStart b.table
  exact ⟨⟨reorder_keyOrdered dayStart hids, (hperm.map Entry.id).nodup_iff.2 hids, hperm.length_eq.trans_le hlen⟩,
    hr.ofIds rfl fun x hx => ⟨x, hperm.mem_iff.1 hx, rfl⟩, hc.exchange ((tableBlocks_perm hperm).append_left b.free)⟩

end Sound

/-- Entries of different services are removed in order, each standing in the table with the same blocks (R27). -/
theorem Board.Sound.removeAll {d : Nat} {es : List Entry} : ∀ {b : Board}, b.Sound d → (es.map Entry.id).Nodup →
    (∀ e ∈ es, ∃ x ∈ b.table, x.id = e.id ∧ x.blocks = e.blocks) → (b.removeAll es).Sound d := by
  induction es with
  | nil => exact fun h _ _ => h
  | cons e es ih =>
    intro b h hnodup hin
    obtain ⟨he, hes⟩ := List.nodup_cons.1 hnodup
    obtain ⟨x, hx, hid, hblocks⟩ := hin e (List.mem_cons_self ..)
    refine ih (h.remove hx hid hblocks e.rev) hes fun y hy => ?_
    obtain ⟨z, hz, hzid, hzblocks⟩ := hin y (List.mem_cons_of_mem e hy)
    refine ⟨z, List.mem_filter.2 ⟨hz, ?_⟩, hzid, hzblocks⟩
    rw [hzid, bne_iff_ne]
    exact fun hye => he (hye ▸ List.mem_map_of_mem hy)

/-- Entries of the table that a test picks are removed in rank order (R38, R41). -/
theorem Board.Sound.removeFilter {d : Nat} {b : Board} (h : b.Sound d) (p : Entry → Bool) :
    (b.removeAll (b.table.filter p)).Sound d :=
  h.removeAll (h.ordered.2.1.sublist (List.filter_sublist.map _)) fun e he => ⟨e, List.mem_of_mem_filter he, rfl, rfl⟩

/-! ### Departure frames -/

theorem findEntry_none {t : List Entry} {id : Nat} : findEntry t id = none ↔ ∀ x ∈ t, x.id ≠ id := by
  simp [findEntry]

/-- The evicted entry is one of the table (R31). -/
theorem leastLingering_mem {t : List Entry} {e : Entry} (h : leastLingering t = some e) : e ∈ t := by
  induction t with
  | nil => cases h
  | cons x xs ih =>
    unfold leastLingering at h
    split at h
    · split at h
      · next y hy =>
        split at h
        · cases h
          exact List.mem_cons_of_mem x (ih hy)
        · cases h
          exact List.mem_cons_self ..
      · cases h
        exact List.mem_cons_self ..
    · exact List.mem_cons_of_mem x (ih h)

theorem evicted_mem {d : Nat} {t : List Entry} {key : Nat × Nat} {e : Entry} (h : evicted d t key = some e) : e ∈ t := by
  unfold evicted at h
  split at h
  · next hl =>
    cases h
    exact leastLingering_mem hl
  · split at h
    · next hlast =>
      split at h
      · cases h
        exact List.mem_of_getLast? hlast
      · cases h
    · cases h

/-- The service's record refuses the Put: the Put is not newer than it (R30). -/
def Board.recordRefuses (b : Board) (x : PutData) : Bool := (recordOf b.memory x.id).any (fun r => !newer x.rev r.rev)

/-- A Put for a service not in the table, test by test (R30, R31). -/
theorem putNew_eq (b : Board) (st : Settings) (x : PutData) : b.putNew st x =
    if b.recordRefuses x then b.refuse .stale [.staleUpdates]
    else if (Entry.created st x).lingerEnded then
      ⟨{ b with memory := remember (forget b.memory x.id) ⟨x.id, x.rev⟩ }, doneOr x.clamped, [], []⟩
    else if b.table.length < Config.maxEntries then
      ⟨({ b with memory := forget b.memory x.id }).insertNew st x, doneOr x.clamped, [], []⟩
    else
      match evicted st.dayStart b.table ((Entry.created st x).key st.dayStart) with
      | some e => ⟨(({ b with memory := forget b.memory x.id }).remove e e.rev).insertNew st x, doneOr x.clamped,
          [.entriesEvicted], []⟩
      | none => ⟨b, .full, [.tableFull], [.tableFull]⟩ := by
  unfold Board.putNew Board.recordRefuses
  cases recordOf b.memory x.id <;> rfl

/-- The status table refuses the Amend (R34). -/
def AmendData.refusedFor (a : AmendData) (e : Entry) : Bool := a.status.any (fun named => !amendAllowed e.status named)

/-- An Amend for a service in the table, test by test (R32, R33). -/
theorem amend_found {b : Board} {p : List Byte} {a : AmendData} {e : Entry} (st : Settings)
    (ha : AmendData.ofPayload p = some a) (he : findEntry b.table a.id = some e) : b.amend st p =
    if newer a.rev e.rev = false then b.refuse .stale [.staleUpdates]
    else if a.refusedFor e then b.refuse .notNow
    else if a.resultStatus e = .expected ∧ a.resultExpected e = none then b.refuse .malformed
    else
      ⟨({ b with table := updateEntry e.id (fun _ => e.amendedBy st a) b.table }).removeIfEnded (e.amendedBy st a),
        doneOr a.clamped, [], []⟩ := by
  unfold Board.amend AmendData.refusedFor
  simp only [ha, he]
  cases a.status <;> rfl

theorem putNew_sound {b : Board} {st : Settings} (h : b.Sound st.dayStart) (x : PutData)
    (hnew : findEntry b.table x.id = none) : (b.putNew st x).board.Sound st.dayStart := by
  have htable : ∀ y ∈ b.table, y.id ≠ x.id := findEntry_none.1 hnew
  have hforgot := h.forget x.id
  have hmem : ∀ r ∈ forget b.memory x.id, r.id ≠ x.id := fun r => forget_not_mem
  rw [putNew_eq]
  split
  · exact h
  · split
    · exact hforgot.remember x.rev hmem htable
    · split
      · next hroom => exact hforgot.insert (e := Entry.created st x) hmem htable hroom rfl
      · split
        · next e he =>
          have hin : e ∈ b.table := evicted_mem he
          have hgone := hforgot.remove (x := e) hin rfl rfl e.rev
          refine hgone.insert (e := Entry.created st x) (fun r hr => ?_) (fun y hy => htable y (List.mem_of_mem_filter hy))
            ?_ rfl
          · obtain ⟨kept, hkept, heq⟩ := remember_eq (forget b.memory x.id) ⟨e.id, e.rev⟩
            rw [Board.remove, heq] at hr
            rcases List.mem_append.1 hr with hr | hr
            · exact hmem r (hkept.subset hr)
            · cases List.mem_singleton.1 hr
              exact htable e hin
          · exact (perm_cons_others h.ordered.2.1 hin).length_eq.symm.trans_le h.ordered.2.2
        · exact h

theorem put_sound {b : Board} {st : Settings} (h : b.Sound st.dayStart) (p : List Byte) :
    (b.put st p).board.Sound st.dayStart := by
  unfold Board.put
  split
  · exact h
  · next x _ =>
    split
    · next e he =>
      obtain ⟨hmem, hid⟩ := findEntry_some he
      unfold Board.putExisting
      split
      · exact h
      · exact (h.replace (e' := e.replacedBy st x) hmem rfl rfl).removeIfEnded
          ((insertEntry_perm _ _ _).mem_iff.2 (List.mem_cons_self ..))
    · next hnew => exact putNew_sound h x hnew

theorem amend_sound {b : Board} {st : Settings} (h : b.Sound st.dayStart) (p : List Byte) :
    (b.amend st p).board.Sound st.dayStart := by
  cases ha : AmendData.ofPayload p with
  | none =>
    unfold Board.amend
    rw [ha]
    exact h
  | some a =>
    cases he : findEntry b.table a.id with
    | none =>
      unfold Board.amend
      simp only [ha, he]
      exact h
    | some e =>
      have hmem := (findEntry_some he).1
      rw [amend_found st ha he]
      split
      · exact h
      · split
        · exact h
        · split
          · exact h
          · refine (h.update hmem (f := fun _ => e.amendedBy st a) rfl rfl (List.Perm.refl _)).removeIfEnded ?_
            exact List.mem_map.2 ⟨e, hmem, if_pos rfl⟩

theorem removeFrame_sound {d : Nat} {b : Board} (h : b.Sound d) (p : List Byte) : (b.removeFrame p).board.Sound d := by
  unfold Board.removeFrame
  split
  · exact h
  · split
    · exact h
    · next e he =>
      split
      · exact h
      · exact h.remove (findEntry_some he).1 rfl rfl _

/-! ### Calling lists -/

theorem Entry.blocks_eq (e : Entry) : e.blocks = e.listBlocks ++ e.buildBlocks := rfl

theorem writeLast_ids (x : Stop) (c : List Block) : chainIds (writeLast x c) = chainIds c := by
  induction c with
  | nil => rfl
  | cons a rest ih =>
    cases rest with
    | nil => rfl
    | cons y ys => exact congrArg (List.cons a.id) ih

/-- A stop appended takes at most the block at the head of the free list into the chain (R56). -/
theorem add_blocks (w : Appending) (x : Stop) :
    ((w.add x).free ++ chainIds (w.add x).chain).Perm (w.free ++ chainIds w.chain) := by
  unfold Appending.add
  split
  · exact List.Perm.refl _
  · split
    · exact List.Perm.refl _
    · split
      · rw [writeLast_ids]
      · split
        · exact List.Perm.refl _
        · next f fs hfree =>
          have hids : chainIds (w.chain ++ [⟨f, [x]⟩]) = chainIds w.chain ++ [f] := by simp [chainIds]
          rw [hfree, hids, ← List.append_assoc]
          exact List.perm_append_singleton f _

theorem addAll_blocks (stops : List Stop) : ∀ w : Appending,
    ((w.addAll stops).free ++ chainIds (w.addAll stops).chain).Perm (w.free ++ chainIds w.chain) := by
  induction stops with
  | nil => exact fun _ => List.Perm.refl _
  | cons x stops ih => exact fun w => (ih (w.add x)).trans (add_blocks w x)

/-- A part appended to a chain whose blocks and the free ones are the free ones and the build's of a sound board
(R53, R55, R57, R58). -/
theorem appendPart_sound {d : Nat} {b : Board} (h : b.Sound d) (st : Settings) {e : Entry} (he : e ∈ b.table)
    {free : List Nat} {chain : List Block} (hheld : (free ++ chainIds chain).Perm (b.free ++ e.buildBlocks)) (cut : Bool)
    (x : StopsData) (counts : List Ctr) :
    (Board.appendPart { b with free := free } st e chain cut x counts).board.Sound d := by
  have hall := (addAll_blocks x.stops ⟨free, chain, cut, false⟩).trans hheld
  unfold Board.appendPart
  generalize (Appending.mk free chain cut false).addAll x.stops = w at hall
  have hwith : (w.free ++ (e.listBlocks ++ chainIds w.chain)).Perm (b.free ++ e.blocks) := by
    rw [Entry.blocks_eq]
    exact (List.perm_append_comm_assoc _ _ _).trans
      ((hall.append_left e.listBlocks).trans (List.perm_append_comm_assoc _ _ _))
  dsimp only
  split
  · refine h.update he (f := Entry.abandonBuild) rfl rfl ?_
    show ((w.free ++ chainIds w.chain) ++ (e.listBlocks ++ [])).Perm _
    rw [List.append_nil, List.append_assoc]
    exact (List.perm_append_comm.append_left w.free).trans hwith
  · split
    · refine h.update he (f := fun y => y.completeList x.rev w.chain w.cut) rfl rfl ?_
      show ((w.free ++ e.listBlocks) ++ (chainIds w.chain ++ [])).Perm _
      rwa [List.append_nil, List.append_assoc]
    · exact h.update he (f := fun y => { y with build := some ⟨x.rev, x.part + 1, w.chain, w.cut, st.buildTimeout⟩ })
        rfl rfl hwith

theorem openBuild_sound {d : Nat} {b : Board} (h : b.Sound d) (st : Settings) {e : Entry} (he : e ∈ b.table)
    (x : StopsData) : (b.openBuild st e x).board.Sound d :=
  appendPart_sound h st he (chain := []) (by rw [chainIds, List.map_nil, List.append_nil]) _ _ _

theorem nextPart_sound {d : Nat} {b : Board} (h : b.Sound d) (st : Settings) {e : Entry} (he : e ∈ b.table)
    (x : StopsData) : (b.nextPart st e x).board.Sound d := by
  unfold Board.nextPart
  split
  · exact h
  · next bd hbuild =>
    have hheld : e.buildBlocks = chainIds bd.chain := by rw [Entry.buildBlocks, hbuild]
    split
    · exact h
    · split
      · exact appendPart_sound h st he (by rw [hheld]) _ _ _
      · split
        · exact h
        · refine h.update he (f := Entry.abandonBuild) rfl rfl ?_
          show ((b.free ++ chainIds bd.chain) ++ (e.listBlocks ++ [])).Perm _
          rw [List.append_nil, List.append_assoc, Entry.blocks_eq, hheld]
          exact List.perm_append_comm.append_left b.free

theorem stops_sound {d : Nat} {b : Board} (h : b.Sound d) (st : Settings) (p : List Byte) :
    (b.stops st p).board.Sound d := by
  unfold Board.stops
  split
  · exact h
  · split
    · exact h
    · next e he =>
      have hmem := (findEntry_some he).1
      split
      · unfold Board.firstPart
        split
        · exact h
        · split
          · split
            · exact openBuild_sound h st hmem _
            · exact h
          · exact openBuild_sound h st hmem _
      · exact nextPart_sound h st hmem _

/-- A stop changed leaves the blocks of its chain (R61). -/
theorem amendChain_ids (f : Stop → Stop) (c : List Block) : ∀ i, chainIds (amendChain i f c) = chainIds c := by
  induction c with
  | nil => exact fun _ => rfl
  | cons a rest ih =>
    intro i
    unfold amendChain
    split
    · rfl
    · exact congrArg (List.cons a.id) (ih _)

theorem amendStop_blocks (i : Nat) (kind : StopKind) (time : Option Nat) (e : Entry) :
    (e.amendStop i kind time).blocks = e.blocks := by
  have hlist : (e.amendStop i kind time).listBlocks = e.listBlocks := by
    unfold Entry.amendStop Entry.listBlocks
    cases e.list with
    | none => rfl
    | some l => exact amendChain_ids _ l.chain i
  exact congrArg (· ++ e.buildBlocks) hlist

theorem stopAmend_sound {d : Nat} {b : Board} (h : b.Sound d) (p : List Byte) : (b.stopAmend p).board.Sound d := by
  unfold Board.stopAmend
  split
  · exact h
  · split
    · exact h
    · split
      · exact h
      · next e he =>
        split
        · exact h
        · split
          · exact h.update (findEntry_some he).1 rfl rfl (by rw [amendStop_blocks])
          · exact h

/-! ### Counts of a second event -/

/-- A build's count at a second event (R59). -/
def Entry.countBuild (e : Entry) : Entry :=
  match e.build with
  | some bd => if bd.timeout ≤ 1 then e.abandonBuild else { e with build := some { bd with timeout := bd.timeout - 1 } }
  | none => e

/-- The count of the entry's build ends at this second event (R59). -/
def Entry.buildEnds (e : Entry) : Bool := e.build.any (fun bd => decide (bd.timeout ≤ 1))

/-- The counts of a second event: each entry counted in its place, and the builds that end, in rank order (R59). -/
theorem countBuildEntries_eq (t : List Entry) : countBuildEntries t =
    (t.map Entry.countBuild, (t.filter Entry.buildEnds).flatMap Entry.buildBlocks, (t.filter Entry.buildEnds).length) := by
  induction t with
  | nil => rfl
  | cons e t ih =>
    unfold countBuildEntries
    rw [ih]
    cases hb : e.build with
    | none => simp [Entry.countBuild, Entry.buildEnds, hb]
    | some bd =>
      by_cases ht : bd.timeout ≤ 1 <;> simp [Entry.countBuild, Entry.buildEnds, Entry.buildBlocks, hb, ht]

/-- An entry's blocks after a second event, and the blocks of its build if it ends, are the blocks it had. -/
theorem countBuild_blocks (e : Entry) :
    ((if e.buildEnds then e.buildBlocks else []) ++ e.countBuild.blocks).Perm e.blocks := by
  unfold Entry.buildEnds Entry.countBuild
  cases hb : e.build with
  | none => exact List.Perm.refl _
  | some bd =>
    by_cases ht : bd.timeout ≤ 1
    · have hnone : e.abandonBuild.blocks = e.listBlocks := List.append_nil _
      simp only [Option.any_some, ht, decide_true, if_true, hnone]
      exact List.perm_append_comm
    · simp only [Option.any_some, ht, decide_false, if_false, Bool.false_eq_true, List.nil_append]
      rw [Entry.blocks_eq e, Entry.buildBlocks, hb]
      exact List.Perm.refl _

theorem countBuilds_blocks (t : List Entry) :
    ((t.filter Entry.buildEnds).flatMap Entry.buildBlocks ++ tableBlocks (t.map Entry.countBuild)).Perm
      (tableBlocks t) := by
  induction t with
  | nil => exact List.Perm.refl _
  | cons e t ih =>
    have hfreed : ((e :: t).filter Entry.buildEnds).flatMap Entry.buildBlocks =
        (if e.buildEnds then e.buildBlocks else []) ++ (t.filter Entry.buildEnds).flatMap Entry.buildBlocks := by
      cases he : e.buildEnds <;> simp [he]
    have hboth := (countBuild_blocks e).append ih
    rw [hfreed]
    refine List.Perm.trans ?_ hboth
    rw [List.append_assoc, List.append_assoc]
    exact (List.perm_append_comm_assoc _ _ _).append_left _

theorem countBuild_keeps (e : Entry) : e.countBuild.id = e.id ∧ e.countBuild.sched = e.sched := by
  unfold Entry.countBuild
  split
  · split <;> exact ⟨rfl, rfl⟩
  · exact ⟨rfl, rfl⟩

theorem countBuilds_sound {d : Nat} {b : Board} (h : b.Sound d) : b.countBuilds.1.Sound d := by
  unfold Board.countBuilds
  rw [countBuildEntries_eq]
  refine h.map (fun e _ => (countBuild_keeps e).1) (fun e _ => (countBuild_keeps e).2) ?_
  rw [List.append_assoc]
  exact (countBuilds_blocks b.table).append_left b.free

theorem timeEvent_sound {d : Nat} {b : Board} (h : b.Sound d) (st : Settings) (second : Bool) (expiry : Option Nat) :
    (b.timeEvent st second expiry).1.Sound d := by
  unfold Board.timeEvent
  cases second with
  | false => exact h.removeFilter _
  | true =>
    have hcounted := h.mapBeside (f := Entry.countLingers) (fun _ _ => rfl) (fun _ _ => rfl) fun _ _ => rfl
    exact hcounted.removeFilter _

/-! ### Settings -/

theorem settleOwn_keeps (st : Settings) (own : Platform) (e : Entry) : (e.settleOwn st own).id = e.id ∧
    (e.settleOwn st own).sched = e.sched ∧ (e.settleOwn st own).blocks = e.blocks := by
  unfold Entry.settleOwn
  split
  · split <;> exact ⟨rfl, rfl, rfl⟩
  · split <;> exact ⟨rfl, rfl, rfl⟩

theorem newOwnPlatform_sound {d : Nat} {b : Board} (h : b.Sound d) (st : Settings) (own : Platform) :
    (b.newOwnPlatform st own).Sound d := by
  have hsettled := h.mapBeside (f := Entry.settleOwn st own) (fun e _ => (settleOwn_keeps st own e).1)
    (fun e _ => (settleOwn_keeps st own e).2.1) fun e _ => (settleOwn_keeps st own e).2.2
  refine hsettled.removeAll (h.ordered.2.1.sublist (List.filter_sublist.map _)) fun e he => ?_
  obtain ⟨hid, _, hblocks⟩ := settleOwn_keeps st own e
  exact ⟨e.settleOwn st own, List.mem_map_of_mem (List.mem_of_mem_filter he), hid, hblocks⟩

theorem setSyncSource_board (s : State) (x : SyncSource) :
    (s.setSyncSource x).board = s.board ∧ (s.setSyncSource x).mgmt.settings.dayStart = s.mgmt.settings.dayStart := by
  unfold State.setSyncSource
  split <;> exact ⟨rfl, rfl⟩

theorem applySetting_boardSound {s : State} (h : s.BoardSound) (n v : Nat) : (s.applySetting n v).1.BoardSound := by
  unfold State.applySetting
  split
  case h_3 =>
    unfold State.setOwnPlatform
    split
    · exact h
    · exact (boardSound_iff _).2 (newOwnPlatform_sound ((boardSound_iff s).1 h) _ _)
  case h_4 =>
    unfold State.setDayStart
    split
    · exact h
    · exact (boardSound_iff _).2 (((boardSound_iff s).1 h).newDayStart _)
  case h_15 =>
    obtain ⟨hboard, hday⟩ := setSyncSource_board s (if v = 0 then .internal else .fsync)
    rw [boardSound_iff, hboard, hday]
    exact (boardSound_iff s).1 h
  all_goals exact h

/-! ### Every step -/

/-- A board without entries whose blocks are all free (R46, R66). -/
theorem boardEmpty_sound (d : Nat) : Board.empty.Sound d := by
  refine ⟨⟨List.Pairwise.nil, List.nodup_nil, Nat.zero_le _⟩, ⟨Nat.zero_le _, List.nodup_nil, nofun⟩, ?_⟩
  show (List.range Config.poolBlocks ++ []).Perm (List.range Config.poolBlocks)
  rw [List.append_nil]

/-- What the board's owners answer to a frame. -/
theorem takeBoard_boardSound {s : State} {r : BoardResult} (h : r.board.Sound s.mgmt.settings.dayStart) :
    (s.takeBoard r).1.BoardSound := by
  have hstores : (s.takeBoard r).1.stores = { s.stores with board := r.board } :=
    (raiseAll_stores _ _).trans (bumpAll_stores _ _)
  have hboard : (s.takeBoard r).1.board = r.board := congrArg Stores.board hstores
  have hsettings : (s.takeBoard r).1.mgmt.settings = s.mgmt.settings := congrArg Stores.settings hstores
  rw [boardSound_iff, hboard, hsettings]
  exact h

theorem boardSound_invariant : StoreInvariant State.BoardSound where
  same := by
    intro s t e h
    have hboard : t.board = s.board := congrArg Stores.board e
    have hsettings : t.mgmt.settings = s.mgmt.settings := congrArg Stores.settings e
    rw [boardSound_iff, hboard, hsettings]
    exact (boardSound_iff s).1 h
  board := by
    intro s k hk p h
    rw [boardSound_iff] at h
    simp only [List.mem_cons, List.not_mem_nil, or_false] at hk
    rcases hk with rfl | rfl | rfl | rfl | rfl
    · exact takeBoard_boardSound (put_sound h p)
    · exact takeBoard_boardSound (amend_sound h p)
    · exact takeBoard_boardSound (removeFrame_sound h p)
    · exact takeBoard_boardSound (stops_sound h _ p)
    · exact takeBoard_boardSound (stopAmend_sound h p)
  names _ _ _ h := h
  fonts _ _ _ h := h
  setting n v h := applySetting_boardSound h n v
  advance h := h
  edge _ h := h
  loss _ h := h
  instant h := h
  time _ h := h
  departures second expiry h :=
    (boardSound_iff _).2 (timeEvent_sound ((boardSound_iff _).1 h) _ second expiry)
  builds h := (boardSound_iff _).2 (countBuilds_sound ((boardSound_iff _).1 h))
  restart _ := (boardSound_iff _).2 (boardEmpty_sound _)
  reset _ _ := (boardSound_iff _).2 (boardEmpty_sound _)

/-- Settles O54: every operation of the stores keeps the order of the table, the memory apart from it, and each block in one
place; the others do not touch the board or the Day Start. -/
theorem boardStaysSound : Obligations.BoardStaysSound := fun _ _ h e =>
  step_keeps (P := State.BoardSound) (fun _ _ hs => hs) boardSound_invariant.exec h e

end Sys2Proof.Machine
end

section
/-! PROOFS. What a data frame leaves, given what its owner did: the same but for the out-port, the feed counters and the level
events (R12, R186). -/

namespace Sys2Proof.Machine

/-- `State.Matches` before the level events are held: two states agree but for the out-port and the feed counters. -/
def State.SameButPort (t u : State) : Prop :=
  t = { u with feed := t.feed, counters := t.counters } ∧ t.feed.rx = u.feed.rx ∧ t.feed.buffer = u.feed.buffer ∧
    t.feed.address = u.feed.address ∧ t.feed.zone = u.feed.zone ∧ t.feed.group = u.feed.group ∧
    ∀ c, c ∉ feedCounters → t.counter c = u.counter c

theorem State.SameButPort.refl (s : State) : s.SameButPort s := ⟨rfl, rfl, rfl, rfl, rfl, rfl, fun _ _ => rfl⟩

theorem State.SameButPort.trans {t u v : State} (h : t.SameButPort u) (g : u.SameButPort v) : t.SameButPort v := by
  obtain ⟨hs, hrx, hbuf, haddr, hzone, hgroup, hc⟩ := h
  obtain ⟨gs, grx, gbuf, gaddr, gzone, ggroup, gc⟩ := g
  refine ⟨?_, hrx.trans grx, hbuf.trans gbuf, haddr.trans gaddr, hzone.trans gzone, hgroup.trans ggroup,
    fun c hn => (hc c hn).trans (gc c hn)⟩
  rw [hs, gs]

/-- Once the level events are held the two states match (R186). -/
theorem State.SameButPort.matches {t u : State} (h : t.SameButPort u) : t.holdLevels.Matches u := by
  obtain ⟨hs, hrx, hbuf, haddr, hzone, hgroup, hc⟩ := h
  refine ⟨?_, hrx, hbuf, haddr, hzone, hgroup, hc⟩
  have hlevels : t.levels = u.levels := by
    rw [hs]
    rfl
  unfold State.holdLevels
  rw [hlevels, hs]

/-! ### What the port does -/

theorem bump_sameButPort {c : Ctr} (hc : c ∈ feedCounters) (s : State) : (s.bump c).SameButPort s :=
  ⟨rfl, rfl, rfl, rfl, rfl, rfl, fun _ hd => State.counter_bump_ne s fun e => hd (e ▸ hc)⟩

theorem forward_sameButPort (s : State) (body : List Byte) (h : Header) : (s.forward body h).SameButPort s := by
  rcases forward_cases s body h with e | e | e <;> rw [e]
  · exact bump_sameButPort (by decide) s
  · exact bump_sameButPort (by decide) s
  · obtain ⟨hrx, hbuf, _, _, haddr, hzone, hgroup⟩ :=
      select_frame { s.feed with queue := s.feed.queue ++ [forwardBody body] }
    exact (bump_sameButPort (by decide) _).trans ⟨rfl, hrx, hbuf, haddr, hzone, hgroup, fun _ _ => rfl⟩

theorem offerReply_sameButPort (s : State) (tag : Byte) (r : Reply) : (s.offerReply tag r).SameButPort s := by
  rcases offerReply_cases s tag r with ⟨_, e⟩ | ⟨_, e⟩ <;> rw [e]
  · obtain ⟨hrx, hbuf, _, _, haddr, hzone, hgroup⟩ :=
      select_frame { s.feed with slot := some (replyBody r.1 (b8 s.feed.address) tag r.2) }
    exact ⟨rfl, hrx, hbuf, haddr, hzone, hgroup, fun _ _ => rfl⟩
  · exact bump_sameButPort (by decide) s

/-- A reply offered to an empty slot is the one in the slot (R14). -/
theorem offerReply_slot {s : State} (h : s.feed.slot = none) (tag : Byte) (r : Reply) :
    (s.offerReply tag r).feed.slot = some (replyBody r.1 (b8 s.feed.address) tag r.2) := by
  rcases offerReply_cases s tag r with ⟨_, e⟩ | ⟨hfull, _⟩
  · rw [e]
    exact (select_frame _).2.2.2.1
  · rw [h] at hfull
    cases hfull

/-! ### What the owner does -/

/-- What counts a counter and raises an event keeps two states the same but for the port. -/
theorem State.SameButPort.bump {t u : State} (h : t.SameButPort u) (c : Ctr) : (t.bump c).SameButPort (u.bump c) := by
  obtain ⟨hs, hrx, hbuf, haddr, hzone, hgroup, hc⟩ := h
  refine ⟨?_, hrx, hbuf, haddr, hzone, hgroup, fun d hd => ?_⟩
  · exact congrArg (fun x : State => { x with counters := (t.bump c).counters }) hs
  · by_cases hdc : d = c
    · subst hdc
      rw [State.counter_bump_self, State.counter_bump_self, hc d hd]
    · rw [State.counter_bump_ne _ hdc, State.counter_bump_ne _ hdc, hc d hd]

theorem State.SameButPort.bumpAll (l : List Ctr) : ∀ {t u : State}, t.SameButPort u →
    (t.bumpAll l).SameButPort (u.bumpAll l) := by
  induction l with
  | nil => exact fun h => h
  | cons c l ih => exact fun h => ih (h.bump c)

theorem State.SameButPort.raise {t u : State} (h : t.SameButPort u) (e : Event) :
    (t.raise e).SameButPort (u.raise e) := by
  obtain ⟨hs, hport⟩ := h
  refine ⟨?_, hport⟩
  have hm : t.mgmt = u.mgmt := (congrArg State.mgmt hs).trans rfl
  unfold State.raise
  rw [hm]
  exact congrArg (fun x : State => { x with mgmt := { u.mgmt with
    pendingEvents := u.mgmt.pendingEvents ||| e.mask } }) hs

theorem State.SameButPort.raiseAll (l : List Event) : ∀ {t u : State}, t.SameButPort u →
    (t.raiseAll l).SameButPort (u.raiseAll l) := by
  induction l with
  | nil => exact fun h => h
  | cons e l ih => exact fun h => ih (h.raise e)

theorem State.SameButPort.setBoard {t u : State} (h : t.SameButPort u) (b : Board) :
    ({ t with board := b } : State).SameButPort { u with board := b } :=
  ⟨congrArg (fun x : State => { x with board := b }) h.1, h.2⟩

/-- A board's owner leaves the same state but for the port whatever the feed counters are. -/
theorem State.SameButPort.takeBoard {t u : State} (h : t.SameButPort u) (r : BoardResult) :
    (t.takeBoard r).1.SameButPort (u.takeBoard r).1 := ((h.setBoard r.board).bumpAll r.counts).raiseAll r.raises

theorem bumpAll_feed (l : List Ctr) : ∀ s : State, (s.bumpAll l).feed = s.feed := by
  induction l with
  | nil => exact fun _ => rfl
  | cons c l ih => exact fun s => ih (s.bump c)

theorem raiseAll_feed (l : List Event) : ∀ s : State, (s.raiseAll l).feed = s.feed := by
  induction l with
  | nil => exact fun _ => rfl
  | cons e l ih => exact fun s => ih (s.raise e)

theorem takeBoard_feed (s : State) (r : BoardResult) : (s.takeBoard r).1.feed = s.feed :=
  (raiseAll_feed _ _).trans (bumpAll_feed _ _)

/-! ### A data frame completes -/

/-- The state in which a data frame's owner finds the part: the two counts of the arrival are taken (R4, R12). -/
def State.arrived (s : State) : State := (s.bump .framesAccepted).bump .framesActedOn

theorem arrived_sameButPort (s : State) : s.arrived.SameButPort s :=
  (bump_sameButPort (by decide) (s.bump .framesAccepted)).trans (bump_sameButPort (by decide) s)

/-- A data frame to act on completes with what its owner leaves and with the owner's outcome (R11, R12). -/
theorem dataFrame_completes {c : Instr} {k : Kind} {f : FeedFrame} {s u v : State} {code : OutcomeCode}
    (hc : c.frame = some (k, f)) (hk : k.isData = true) (h : s.TakesData f) (hown : s.arrived.own f.payload k = (v, code))
    (hsame : v.SameButPort u) (hfeed : v.feed = s.feed) : Completes c f k s u code := by
  have hleaves := dataFrameIsHandedOver c k f s (v, code) hc hk h hown.symm
  refine ⟨_, hleaves, ?_, fun hs hwant hslot => ?_⟩
  · refine State.SameButPort.matches ?_
    split
    · exact (forward_sameButPort v _ _).trans hsame
    · split
      · exact (offerReply_sameButPort v _ _).trans hsame
      · exact hsame
  · have hdest : f.dest ≠ 255 := fun hd => not_isOwn_broadcast hd hs
    rw [if_neg hdest, if_pos hwant]
    rw [← hfeed] at hslot
    refine (offerReply_slot hslot _ _).trans ?_
    unfold State.outcomeFor
    rw [hfeed]

/-- A frame that the board's owners take completes with their result (R28 to R40, R51 to R61). -/
theorem boardFrame_completes {c : Instr} {k : Kind} {f : FeedFrame} {s : State} {r : BoardResult}
    (hc : c.frame = some (k, f)) (hk : k.isData = true) (h : s.TakesData f)
    (hown : s.arrived.own f.payload k = s.arrived.takeBoard r) : Completes c f k s (s.takeBoard r).1 r.code :=
  dataFrame_completes hc hk h hown ((arrived_sameButPort s).takeBoard r) (takeBoard_feed _ r)

section BoardFrames

variable {f : FeedFrame} {s : State} {r : BoardResult} (h : s.TakesData f)
include h

theorem departurePut_completes (hr : s.board.put s.mgmt.settings f.payload = r) :
    Completes (.departurePut f) f .departurePut s (s.takeBoard r).1 r.code :=
  boardFrame_completes rfl rfl h (congrArg s.arrived.takeBoard hr)

theorem departureAmend_completes (hr : s.board.amend s.mgmt.settings f.payload = r) :
    Completes (.departureAmend f) f .departureAmend s (s.takeBoard r).1 r.code :=
  boardFrame_completes rfl rfl h (congrArg s.arrived.takeBoard hr)

theorem departureRemove_completes (hr : s.board.removeFrame f.payload = r) :
    Completes (.departureRemove f) f .departureRemove s (s.takeBoard r).1 r.code :=
  boardFrame_completes rfl rfl h (congrArg s.arrived.takeBoard hr)

end BoardFrames

end Sys2Proof.Machine
end

section
/-! PROOFS. Departure Put, Amend and Remove, and the counts of a second event (R25 to R40, R59). -/

namespace Sys2Proof.Machine

/-! ### Departure Put -/

/-- A Put of a service in the table (R29). -/
theorem put_found {b : Board} {p : List Byte} {x : PutData} {e : Entry} (st : Settings)
    (hx : PutData.ofPayload p = some x) (he : findEntry b.table x.id = some e) : b.put st p = b.putExisting st e x := by
  unfold Board.put
  simp only [hx, he]

/-- A Put of a service not in the table (R30). -/
theorem put_newcomer {b : Board} {p : List Byte} {x : PutData} (st : Settings) (hx : PutData.ofPayload p = some x)
    (hnew : findEntry b.table x.id = none) : b.put st p = b.putNew st x := by
  unfold Board.put
  simp only [hx, hnew]

theorem putExisting_stale {b : Board} {e : Entry} {x : PutData} (st : Settings) (h : newer x.rev e.rev = false) :
    b.putExisting st e x = b.refuse .stale [.staleUpdates] := if_pos h

/-- A newer Put that leaves no linger at 0 (R29). -/
theorem putExisting_newer {b : Board} {e : Entry} {x : PutData} {st : Settings} (h : newer x.rev e.rev = true)
    (hlinger : (e.replacedBy st x).lingerEnded = false) : b.putExisting st e x =
    ⟨{ b with table := insertEntry st.dayStart (e.replacedBy st x) (b.table.filter (fun y => y.id != e.id)) },
      doneOr x.clamped, [], []⟩ := by
  unfold Board.putExisting Board.removeIfEnded
  simp only [h, hlinger, Bool.true_eq_false, Bool.false_eq_true, if_false]

theorem lingerEnded_eq_false {e : Entry} : e.lingerEnded = false ↔
    e.departedLinger ≠ some 0 ∧ e.movedLinger ≠ some 0 := by
  simp [Entry.lingerEnded]

/-- Every record of the service is older than the Put, or there is none (R26, R30). -/
theorem recordRefuses_eq_false {b : Board} {x : PutData}
    (h : ∀ r ∈ b.memory, r.id = x.id → newer x.rev r.rev = true) : b.recordRefuses x = false := by
  unfold Board.recordRefuses
  cases hr : recordOf b.memory x.id with
  | none => rfl
  | some r =>
    have hid : r.id = x.id := by simpa using List.find?_some hr
    simp [h r (List.mem_of_find?_eq_some hr) hid]

/-- The newcomer's Moved flag and linger, by its platform (R35). -/
theorem settleMoved_newcomer (st : Settings) (after : Platform) : settleMoved st none none after =
    (decide (after ≠ st.ownPlatform), if after ≠ st.ownPlatform then some (st.movedLinger * 60) else none) := by
  unfold settleMoved
  by_cases h : after = st.ownPlatform <;> simp [h]

/-- The entry that a newcomer's Put creates, field by field (R22, R35, R37). -/
theorem created_eq (st : Settings) (x : PutData) : Entry.created st x =
    ⟨x.id, x.rev, x.sched, x.expected, x.status, x.platform, decide (x.platform ≠ st.ownPlatform), x.dest, x.via, x.cars,
      if x.status = .departed then some st.departedLinger else none,
      if x.platform ≠ st.ownPlatform then some (st.movedLinger * 60) else none, none, none, false, false⟩ := by
  simp [Entry.created, settleMoved_newcomer, settleDeparted]

/-- A newcomer leaves no linger at 0 unless one that starts is set to 0 (R30). -/
theorem created_lingerEnded {st : Settings} {x : PutData} (hdep : ¬ (x.status = .departed ∧ st.departedLinger = 0))
    (hmov : ¬ (x.platform ≠ st.ownPlatform ∧ st.movedLinger = 0)) : (Entry.created st x).lingerEnded = false := by
  rw [lingerEnded_eq_false, created_eq]
  dsimp only
  constructor
  · split
    · next h => simpa using fun h0 => hdep ⟨h, h0⟩
    · nofun
  · split
    · next h => simpa using fun h0 => hmov ⟨h, h0⟩
    · nofun

/-- Settles O17: the newcomer passes the tests of R30 and its entry is inserted. -/
theorem departurePutInsertsNewcomer : Obligations.DeparturePutInsertsNewcomer := by
  intro f s x htakes hx hnew hrecord hroom hdep hmov
  have hput : s.board.put s.mgmt.settings f.payload =
      ⟨({ s.board with memory := forget s.board.memory x.id }).insertNew s.mgmt.settings x, doneOr x.clamped, [], []⟩ := by
    rw [put_newcomer _ hx hnew, putNew_eq, recordRefuses_eq_false hrecord, created_lingerEnded hdep hmov,
      if_neg Bool.false_ne_true, if_neg Bool.false_ne_true]
    exact if_pos hroom
  have hdone := departurePut_completes htakes hput
  unfold Board.insertNew at hdone
  rw [created_eq] at hdone
  exact hdone

/-- The three rows of R35 that depend on the platform before. -/
theorem settleMoved_rows (st : Settings) (before : Option Platform) (after : Platform) (rem : Option Nat) :
    (after = st.ownPlatform → settleMoved st before rem after = (false, none)) ∧
    (after ≠ st.ownPlatform → before = none ∨ before = some st.ownPlatform →
      settleMoved st before rem after = (true, some (st.movedLinger * 60))) ∧
    (∀ b, after ≠ st.ownPlatform → before = some b → b ≠ st.ownPlatform →
      settleMoved st before rem after = if b = after then (true, rem) else (true, some (st.movedLinger * 60))) := by
  refine ⟨fun h => if_pos h, fun h hb => (if_neg h).trans ?_, fun b h hb hne => (if_neg h).trans ?_⟩
  · rcases hb with rfl | rfl
    · rfl
    · exact if_neg fun hsame => hsame.1 rfl
  · subst hb
    exact if_congr (and_iff_right hne) rfl rfl

/-- The departed linger that a status leaves (R29, R37). -/
theorem settleDeparted_eq (st : Settings) (before : Status) (rem : Option Nat) (after : Status) :
    settleDeparted st (some before) rem after =
      if after ≠ .departed then none else if before = .departed then rem else some st.departedLinger := by
  unfold settleDeparted
  by_cases h : after = .departed <;> simp [h]

/-- Settles O18: the replaced entry of R29, and then the rows of R35. -/
theorem departurePutReplacesEntry : Obligations.DeparturePutReplacesEntry := by
  refine ⟨fun f s x e e' m htakes hx he hnewer hm he' hmov hdep => ?_,
    fun st before after rem => settleMoved_rows st before after rem⟩
  have hsame : e' = e.replacedBy s.mgmt.settings x := by
    rw [he', hm, ← settleDeparted_eq]
    rfl
  have hlinger : (e.replacedBy s.mgmt.settings x).lingerEnded = false :=
    lingerEnded_eq_false.2 ⟨hsame ▸ hdep, hsame ▸ hmov⟩
  rw [hsame]
  exact departurePut_completes htakes ((put_found _ hx he).trans (putExisting_newer hnewer hlinger))

/-! ### A full table (R31) -/

/-- The entry lingers: it is DEPARTED or Moved. -/
def Entry.Lingers (e : Entry) : Prop := e.status = .departed ∨ e.moved = true

/-- With no lingering entry there is none to choose. -/
theorem leastLingering_none {t : List Entry} (h : ∀ x ∈ t, ¬ x.Lingers) : leastLingering t = none := by
  induction t with
  | nil => rfl
  | cons x xs ih =>
    unfold leastLingering
    exact (if_neg (h x (List.mem_cons_self ..))).trans (ih fun y hy => h y (List.mem_cons_of_mem x hy))

/-- A choice is a lingering entry. -/
theorem leastLingering_lingers {t : List Entry} {e : Entry} (h : leastLingering t = some e) : e.Lingers := by
  induction t with
  | nil => cases h
  | cons x xs ih =>
    unfold leastLingering at h
    split at h
    · next hx =>
      split at h
      · next y hy =>
        split at h
        · cases h
          exact ih hy
        · cases h
          exact hx
      · cases h
        exact hx
    · exact ih h

/-- The first lingering entry is chosen when none after it has less remaining. -/
theorem leastLingering_head {e : Entry} {after : List Entry} (he : e.Lingers)
    (hafter : ∀ x ∈ after, x.Lingers → e.lingerRemaining.getD 0 ≤ x.lingerRemaining.getD 0) :
    leastLingering (e :: after) = some e := by
  unfold leastLingering
  refine (if_pos he).trans ?_
  split
  · next y hy =>
    exact if_neg (Nat.not_lt.2 (hafter y (leastLingering_mem hy) (leastLingering_lingers hy)))
  · rfl

/-- The entry with the least Linger remaining, the lowest rank among equals, is chosen (R31). -/
theorem leastLingering_eq {before after : List Entry} {e : Entry} (he : e.Lingers)
    (hbefore : ∀ x ∈ before, x.Lingers → e.lingerRemaining.getD 0 < x.lingerRemaining.getD 0)
    (hafter : ∀ x ∈ after, x.Lingers → e.lingerRemaining.getD 0 ≤ x.lingerRemaining.getD 0) :
    leastLingering (before ++ e :: after) = some e := by
  induction before with
  | nil => exact leastLingering_head he hafter
  | cons x xs ih =>
    have hrest := ih fun y hy => hbefore y (List.mem_cons_of_mem x hy)
    rw [List.cons_append]
    unfold leastLingering
    rw [hrest]
    dsimp only
    split
    · next hx => exact if_pos (hbefore x (List.mem_cons_self ..) hx)
    · rfl

theorem evicted_lingering {d : Nat} {t : List Entry} {key : Nat × Nat} {e : Entry} (h : leastLingering t = some e) :
    evicted d t key = some e := by
  unfold evicted
  rw [h]

/-- Without lingering entries the last entry gives way to a smaller key alone (R31). -/
theorem evicted_last {d : Nat} {t : List Entry} {e : Entry} (key : Nat × Nat) (h : ∀ x ∈ t, ¬ x.Lingers)
    (hlast : t.getLast? = some e) : evicted d t key = if keyLt key (e.key d) then some e else none := by
  unfold evicted
  rw [leastLingering_none h, hlast]

/-- Of a service without a record there is nothing to forget. -/
theorem forget_of_recordOf_none {mem : List Removal} {id : Nat} (h : recordOf mem id = none) : forget mem id = mem := by
  unfold recordOf at h
  exact List.filter_eq_self.2 fun r hr => by simpa using List.find?_eq_none.1 h r hr

section FullTable

variable {b : Board} {st : Settings} {p : List Byte} {x : PutData} (hx : PutData.ofPayload p = some x)
  (hnew : findEntry b.table x.id = none) (hrecord : recordOf b.memory x.id = none) (hlen : b.table.length = 32)
  (hlinger : (Entry.created st x).lingerEnded = false)
include hx hnew hrecord hlen hlinger

/-- A newcomer without a record takes the place of the entry that the eviction names in a full table (R31). -/
theorem put_evicts {e : Entry} (hev : evicted st.dayStart b.table ((Entry.created st x).key st.dayStart) = some e) :
    b.put st p = ⟨(b.remove e e.rev).insertNew st x, doneOr x.clamped, [.entriesEvicted], []⟩ := by
  have hrefuses : b.recordRefuses x = false := by simp [Board.recordRefuses, hrecord]
  have hfull : ¬ b.table.length < Config.maxEntries := hlen ▸ Nat.lt_irrefl 32
  rw [put_newcomer st hx hnew, putNew_eq, forget_of_recordOf_none hrecord]
  simp only [hrefuses, hlinger, hfull, hev, Bool.false_eq_true, if_false]

/-- A full table of which the eviction names no entry refuses the newcomer (R31). -/
theorem put_refused (hev : evicted st.dayStart b.table ((Entry.created st x).key st.dayStart) = none) :
    b.put st p = ⟨b, .full, [.tableFull], [.tableFull]⟩ := by
  have hrefuses : b.recordRefuses x = false := by simp [Board.recordRefuses, hrecord]
  have hfull : ¬ b.table.length < Config.maxEntries := hlen ▸ Nat.lt_irrefl 32
  rw [put_newcomer st hx hnew, putNew_eq]
  simp only [hrefuses, hlinger, hfull, hev, Bool.false_eq_true, if_false]

end FullTable

/-- Settles O19: the entry that `evicted` names, or the refusal. -/
theorem fullTableMakesRoomOrRefuses : Obligations.FullTableMakesRoomOrRefuses := by
  rintro f s x n htakes hx hnew hrecord hlen rfl hlinger
  have hkeeps : (∀ y ∈ s.board.table, y.status ≠ .departed ∧ y.moved = false) → ∀ y ∈ s.board.table, ¬ y.Lingers := by
    intro hnone y hy hl
    obtain ⟨hstatus, hmoved⟩ := hnone y hy
    exact hl.elim hstatus (by simp [hmoved])
  refine ⟨fun e he => departurePut_completes htakes (put_evicts hx hnew hrecord hlen hlinger ?evicts),
    fun e hnone hlast hkey => departurePut_completes htakes (put_refused hx hnew hrecord hlen hlinger ?refuses)⟩
  case evicts =>
    rcases he with ⟨before, after, ht, hlingers, hbefore, hafter⟩ | ⟨hnone, hlast, hkey⟩
    · rw [ht]
      exact evicted_lingering (leastLingering_eq hlingers hbefore hafter)
    · rw [evicted_last _ (hkeeps hnone) hlast, if_pos hkey]
  case refuses => rw [evicted_last _ (hkeeps hnone) hlast, if_neg (by simp [hkey])]

/-! ### Stale revisions (R25) -/

/-- The values of a Departure Remove as its sender writes it (R198). -/
theorem removePayload_fields {p : List Byte} {id rev : Nat} (hp : p = b16 id ++ [b8 rev]) (hid : id ≤ 65535)
    (hrev : rev ≤ 255) : p.length = 3 ∧ u16 p 0 = id ∧ u8 p 2 = rev := by
  subst hp
  refine ⟨rfl, u16_append [] [b8 rev] hid, ?_⟩
  simp [u8, b16, b8]
  omega

section Remove

variable {b : Board} {p : List Byte} {id rev : Nat} (hp : p = b16 id ++ [b8 rev]) (hlo : 1 ≤ id) (hid : id ≤ 65535)
  (hrev : rev ≤ 255)
include hp hlo hid hrev

theorem removeFrame_absent (habsent : findEntry b.table id = none) : b.removeFrame p = b.refuse .notFound := by
  obtain ⟨hlen, hu16, _⟩ := removePayload_fields hp hid hrev
  unfold Board.removeFrame
  rw [if_neg (by omega), hu16, habsent]

/-- A Remove of a service in the table (R40). -/
theorem removeFrame_found {e : Entry} (he : findEntry b.table id = some e) : b.removeFrame p =
    if newer rev e.rev = false then b.refuse .stale [.staleUpdates] else ⟨b.remove e rev, .done, [], []⟩ := by
  obtain ⟨hlen, hu16, hu8⟩ := removePayload_fields hp hid hrev
  unfold Board.removeFrame
  rw [if_neg (by omega), hu16, hu8, he]

theorem removeFrame_stale {e : Entry} (he : findEntry b.table id = some e) (hstale : newer rev e.rev = false) :
    b.removeFrame p = b.refuse .stale [.staleUpdates] :=
  (removeFrame_found hp hlo hid hrev he).trans (if_pos hstale)

end Remove

/-- Settles O20: the revision test, and the four comparisons of R25. -/
theorem staleDepartureFrameIsRefused : Obligations.StaleDepartureFrameIsRefused := by
  refine ⟨fun r q hr hq => ?newer, fun f s htakes => ⟨fun x e hx he hstale => ?put, fun x r hx hnew hr hstale => ?record,
    fun a e ha he hstale => ?amend, fun id rev e hp hlo hhi hrev he hstale => ?remove⟩⟩
  case newer =>
    have hmod : modDiff r q 256 = (r + 256 - q) % 256 := by
      unfold modDiff
      omega
    simp [newer, hmod]
  case put => exact departurePut_completes htakes ((put_found _ hx he).trans (putExisting_stale _ hstale))
  case record =>
    have hrefuses : s.board.recordRefuses x = true := by
      unfold Board.recordRefuses
      rw [hr]
      simpa using hstale
    refine departurePut_completes htakes (r := s.board.refuse .stale [.staleUpdates]) ?_
    rw [put_newcomer _ hx hnew, putNew_eq, if_pos hrefuses]
  case amend => exact departureAmend_completes htakes ((amend_found _ ha he).trans (if_pos hstale))
  case remove => exact departureRemove_completes htakes (removeFrame_stale hp hlo hhi hrev he hstale)

/-! ### Departure Amend -/

/-- An allowed status change is not refused (R34). -/
theorem refusedFor_eq_false {a : AmendData} {e : Entry}
    (h : ∀ x ∈ a.status, e.status ≠ .departed ∧ ¬ (e.status = .cancelled ∧ x = .departed)) :
    a.refusedFor e = false := by
  unfold AmendData.refusedFor
  cases hs : a.status with
  | none => rfl
  | some x =>
    obtain ⟨hdep, hcan⟩ := h x hs
    simp only [Option.any_some, Bool.not_eq_false']
    unfold amendAllowed
    split
    · next hc => exact absurd hc hdep
    · next hc => exact absurd ⟨hc, rfl⟩ hcan
    · rfl

/-- Settles O21: the amended entry of R33 replaces the entry in its place. -/
theorem departureAmendChangesNamedItems : Obligations.DepartureAmendChangesNamedItems := by
  intro f s a e e' m htakes ha he hnewer hallowed hm he' hform hdep hmov
  have hsame : e' = e.amendedBy s.mgmt.settings a := by
    rw [he', hm]
    unfold Entry.amendedBy
    cases a.platform <;> rfl
  have hlinger : (e.amendedBy s.mgmt.settings a).lingerEnded = false :=
    lingerEnded_eq_false.2 ⟨hsame ▸ hdep, hsame ▸ hmov⟩
  have hexpected : ¬ (a.resultStatus e = .expected ∧ a.resultExpected e = none) := by
    rw [hsame] at hform
    exact hform
  have hamend : s.board.amend s.mgmt.settings f.payload =
      ⟨{ s.board with table := updateEntry e.id (fun _ => e.amendedBy s.mgmt.settings a) s.board.table },
        doneOr a.clamped, [], []⟩ := by
    rw [amend_found _ ha he]
    simp only [hnewer, refusedFor_eq_false hallowed, hexpected, Board.removeIfEnded, hlinger, Bool.true_eq_false,
      Bool.false_eq_true, if_false]
  rw [hsame]
  exact departureAmend_completes htakes hamend

/-! ### Departure Remove -/

/-- A record added to a memory within its bound: the oldest leaves a full one (R26). -/
theorem remember_of_length {mem : List Removal} (h : mem.length ≤ 16) (r : Removal) :
    remember mem r = (if mem.length = 16 then mem.drop 1 else mem) ++ [r] := by
  unfold remember Config.maxRecords
  by_cases hfull : mem.length = 16
  · rw [if_pos hfull, if_pos (by omega), hfull]
  · rw [if_neg hfull, if_neg (by omega)]

/-- Settles O22: the tests of R40 in their order, and the removal of R27. -/
theorem departureRemoveTakesEntryOut : Obligations.DepartureRemoveTakesEntryOut := by
  refine fun f s htakes => ⟨fun hform => departureRemove_completes htakes (if_pos hform),
    fun id rev hp hlo hhi hrev => ⟨fun habsent => ?absent, fun e he hstale => ?stale, fun e he hnewer hmem => ?removed⟩⟩
  case absent =>
    exact departureRemove_completes htakes (removeFrame_absent hp hlo hhi hrev (findEntry_none.2 habsent))
  case stale => exact departureRemove_completes htakes (removeFrame_stale hp hlo hhi hrev he hstale)
  case removed =>
    have hremove : s.board.removeFrame f.payload = ⟨s.board.remove e rev, .done, [], []⟩ :=
      (removeFrame_found hp hlo hhi hrev he).trans (if_neg (by simp [hnewer]))
    have hdone := departureRemove_completes htakes hremove
    unfold Board.remove at hdone
    rw [(findEntry_some he).2, remember_of_length hmem] at hdone
    exact hdone

/-! ### Counts of a second event (R38, R59) -/

/-- Removing entries in order leaves the entries of the other services, remembers each, and frees their blocks in order (R27). -/
theorem removeAll_eq (es : List Entry) : ∀ b : Board, b.removeAll es =
    ⟨b.table.filter (fun x => es.all (fun e => x.id != e.id)),
      es.foldl (fun m e => remember m ⟨e.id, e.rev⟩) b.memory, b.free ++ es.flatMap Entry.blocks⟩ := by
  induction es with
  | nil => exact fun b => by simp [Board.removeAll]
  | cons e es ih =>
    intro b
    show (b.remove e e.rev).removeAll es = _
    rw [ih]
    simp [Board.remove, List.filter_filter, Bool.and_comm]

/-- Of entries of different services, those whose services are not among the ones a test picks are those it does not pick. -/
theorem filter_others {t : List Entry} (h : (t.map Entry.id).Nodup) (p : Entry → Bool) :
    t.filter (fun x => (t.filter p).all (fun e => x.id != e.id)) = t.filter (fun x => !p x) := by
  refine List.filter_congr fun x hx => ?_
  cases hp : p x with
  | true =>
    rw [Bool.not_true, List.all_eq_false]
    exact ⟨x, List.mem_filter.2 ⟨hx, hp⟩, by simp⟩
  | false =>
    rw [Bool.not_false, List.all_eq_true]
    intro e he
    obtain ⟨hin, hpe⟩ := List.mem_filter.1 he
    refine bne_iff_ne.2 fun hid => ?_
    rw [eq_of_id_eq h hx hin hid, hpe] at hp
    cases hp

/-- Counters within 16 bits stay as they are when nothing is counted. -/
theorem bumpBy_zero {s : State} (h : s.CountersBounded) (c : Ctr) : s.bumpBy c 0 = s := by
  have hmin : min (s.counters[c.index] + 0) Config.counterMax = s.counters[c.index] := Nat.min_eq_left (h c.index)
  unfold State.bumpBy
  rw [hmin]
  simp

/-- The Departure Store's share of a second event alone: the lingers counted, and the entries whose linger ends removed in rank
order (R38). -/
theorem timeEvent_second {b : Board} (h : (b.table.map Entry.id).Nodup) (st : Settings) : b.timeEvent st true none =
    (⟨(b.table.map Entry.countLingers).filter (fun e => !e.lingerEnded),
      ((b.table.map Entry.countLingers).filter Entry.lingerEnded).foldl (fun m e => remember m ⟨e.id, e.rev⟩) b.memory,
      b.free ++ ((b.table.map Entry.countLingers).filter Entry.lingerEnded).flatMap Entry.blocks⟩, 0) := by
  have hids : ((b.table.map Entry.countLingers).map Entry.id).Nodup := by
    rw [List.map_map]
    exact h
  unfold Board.timeEvent
  simp only [Bool.true_and, Bool.or_false, if_true, removeAll_eq, filter_others hids]
  simp

/-- A share of the Departure Store at which no entry is overdue changes the board alone (R38, R41). -/
theorem departureSecond_unexpired {s : State} (h : s.CountersBounded) {second : Bool} {expiry : Option Nat} {b : Board}
    (hb : s.board.timeEvent s.mgmt.settings second expiry = (b, 0)) :
    s.departureSecond second expiry = { s with board := b } := by
  unfold State.departureSecond
  rw [hb]
  exact bumpBy_zero (s := { s with board := b }) h _

/-- Settles O27: the two shares, entry by entry. -/
theorem countsOfASecondEvent : Obligations.CountsOfASecondEvent := by
  refine ⟨fun s counted ended hrun hids hbounded hcounted hended => ?lingers,
    fun s counted ending hrun hcounted hending => ?builds⟩
  case lingers =>
    subst hcounted hended
    have hshare := live_running (State.departureSecond true none) hrun
    rw [departureSecond_unexpired hbounded (timeEvent_second hids _)] at hshare
    exact hshare
  case builds =>
    have hmap : counted = s.board.table.map Entry.countBuild := by
      rw [hcounted]
      refine List.map_congr_left fun e _ => ?_
      unfold Entry.countBuild
      cases e.build <;> rfl
    have hfilter : ending = s.board.table.filter Entry.buildEnds := by
      rw [hending]
      refine List.filter_congr fun e _ => ?_
      unfold Entry.buildEnds
      cases e.build <;> rfl
    have hshare := live_running State.buildSecond hrun
    unfold State.buildSecond Board.countBuilds at hshare
    rw [countBuildEntries_eq, ← hmap, ← hfilter] at hshare
    exact hshare

end Sys2Proof.Machine
end

section
/-! PROOFS. Chains of blocks: their stops, appending to them, and the blocks filled one after another (R48, R49, R56, R61). -/

namespace Sys2Proof.Machine

/-! ### The stops of a chain -/

theorem chainStops_cons (a : Block) (c : List Block) : chainStops (a :: c) = a.stops ++ chainStops c := rfl

theorem chainStops_append (c d : List Block) : chainStops (c ++ d) = chainStops c ++ chainStops d := List.flatMap_append

theorem chainIds_append (c d : List Block) : chainIds (c ++ d) = chainIds c ++ chainIds d := List.map_append

theorem chainLength_cons (a : Block) (c : List Block) : chainLength (a :: c) = a.stops.length + chainLength c :=
  List.sum_cons

theorem chainLength_eq (c : List Block) : chainLength c = (chainStops c).length := List.length_flatMap.symm

theorem chainStops_writeLast (x : Stop) {c : List Block} (h : c ≠ []) :
    chainStops (writeLast x c) = chainStops c ++ [x] := by
  induction c with
  | nil => exact absurd rfl h
  | cons a rest ih =>
    cases rest with
    | nil => simp [writeLast, chainStops]
    | cons b rest =>
      show a.stops ++ chainStops (writeLast x (b :: rest)) = _
      rw [ih (List.cons_ne_nil b rest), ← List.append_assoc]
      rfl

/-! ### Appending (R56, R57) -/

/-- What appending one stop can do: it finds 48 stops, or joins them, from a free block when the last block is full, or finds
the free list empty (R56, R57). -/
theorem add_cases {w : Appending} (x : Stop) (h : w.exhausted = false) :
    (48 ≤ chainLength w.chain ∧ w.add x = { w with cut := true }) ∨
    (chainLength w.chain < 48 ∧ chainLength w.chain % 8 ≠ 0 ∧ w.add x = { w with chain := writeLast x w.chain }) ∨
    (chainLength w.chain < 48 ∧ chainLength w.chain % 8 = 0 ∧ ∃ f fs, w.free = f :: fs ∧
      w.add x = { w with free := fs, chain := w.chain ++ [⟨f, [x]⟩] }) ∨
    (chainLength w.chain < 48 ∧ w.free = [] ∧ w.add x = { w with exhausted := true }) := by
  unfold Appending.add Config.maxStops Config.blockStops
  rw [if_neg (by simp [h])]
  by_cases hfull : 48 ≤ chainLength w.chain
  · exact Or.inl ⟨hfull, if_pos hfull⟩
  · rw [if_neg hfull]
    refine Or.inr ?_
    by_cases hlast : chainLength w.chain % 8 ≠ 0
    · exact Or.inl ⟨by omega, hlast, if_pos hlast⟩
    · rw [if_neg hlast]
      refine Or.inr ?_
      cases hfree : w.free with
      | nil => exact Or.inr ⟨by omega, rfl, rfl⟩
      | cons f fs => exact Or.inl ⟨by omega, by omega, f, fs, rfl, rfl⟩

/-- Once the pool is exhausted no stop is taken (R57). -/
theorem addAll_exhausted (stops : List Stop) {w : Appending} (h : w.exhausted = true) : w.addAll stops = w := by
  induction stops with
  | nil => rfl
  | cons x stops ih =>
    have hadd : w.add x = w := if_pos h
    show (w.add x).addAll stops = w
    rw [hadd, ih]

/-- A stop that joins a chain below 48 stops takes no block, or the one at the head of the free list (R56). -/
theorem add_joins {w : Appending} (x : Stop) (h : w.exhausted = false) (hlen : chainLength w.chain < 48)
    (hnext : (w.add x).exhausted = false) :
    chainStops (w.add x).chain = chainStops w.chain ++ [x] ∧ (w.add x).cut = w.cut ∧
      ∃ taken, w.free = taken ++ (w.add x).free ∧ chainIds (w.add x).chain = chainIds w.chain ++ taken := by
  rcases add_cases x h with ⟨hfull, _⟩ | ⟨_, hlast, e⟩ | ⟨_, _, f, fs, hfree, e⟩ | ⟨_, _, e⟩
  · omega
  · have hne : w.chain ≠ [] := fun hnil => hlast (by rw [hnil]; rfl)
    rw [e]
    exact ⟨chainStops_writeLast x hne, rfl, [], rfl, by rw [writeLast_ids, List.append_nil]⟩
  · rw [e]
    exact ⟨chainStops_append _ _, rfl, [f], hfree, chainIds_append _ _⟩
  · rw [e] at hnext
    cases hnext

/-- Settles O23, stop by stop: while the chain is below 48 stops each joins it, and every later one cuts the list. -/
theorem appendingFillsBlocks : Obligations.AppendingFillsBlocks := by
  intro w stops
  induction stops generalizing w with
  | nil =>
    intro hlen _ _
    exact ⟨by simp [Appending.addAll], by simp [Appending.addAll, hlen], [], rfl, by simp [Appending.addAll]⟩
  | cons x stops ih =>
    intro hlen hw hall
    have hadd : w.addAll (x :: stops) = (w.add x).addAll stops := rfl
    rw [hadd] at hall ⊢
    have hnext : (w.add x).exhausted = false := by
      by_contra hex
      rw [Bool.not_eq_false] at hex
      rw [addAll_exhausted stops hex, hex] at hall
      cases hall
    by_cases hfull : 48 ≤ chainLength w.chain
    · have e : w.add x = { w with cut := true } := by
        rcases add_cases x hw with ⟨_, e⟩ | h | h | h
        · exact e
        all_goals exact absurd h.1 (by omega)
      rw [e] at hall ⊢
      obtain ⟨hstops, hcut, hids⟩ := ih { w with cut := true } hlen hw hall
      have hnone : 48 - chainLength w.chain = 0 := by omega
      refine ⟨by simpa [hnone] using hstops, ?_, hids⟩
      have hover : 48 < chainLength w.chain + (x :: stops).length := by
        rw [List.length_cons]
        omega
      rw [hcut, decide_eq_true hover, Bool.or_true]
      rfl
    · obtain ⟨hjoined, hsame, taken, hfree, hblocks⟩ := add_joins x hw (by omega) hnext
      have hone : chainLength (w.add x).chain = chainLength w.chain + 1 := by
        rw [chainLength_eq, hjoined, List.length_append, ← chainLength_eq]
        rfl
      obtain ⟨hstops, hcut, more, hfree', hblocks'⟩ := ih (w.add x) (by omega) hnext hall
      refine ⟨?_, ?_, taken ++ more, ?_, ?_⟩
      · have hroom : 48 - chainLength w.chain = (48 - chainLength (w.add x).chain) + 1 := by omega
        rw [hstops, hjoined, hroom, List.take_succ_cons, List.append_assoc]
        rfl
      · rw [hcut, hsame, hone, List.length_cons, Nat.add_assoc, Nat.add_comm 1]
      · rw [hfree, hfree', List.append_assoc]
      · rw [hblocks', hblocks, List.append_assoc]

end Sys2Proof.Machine
end

section
/-! PROOFS. The Stops and Stop Amend frames (R51 to R58, R61), and the board after a hard reset (R66). -/

namespace Sys2Proof.Machine

theorem stops_completes {f : FeedFrame} {s : State} {r : BoardResult} (h : s.TakesData f)
    (hr : s.board.stops s.mgmt.settings f.payload = r) : Completes (.stops f) f .stops s (s.takeBoard r).1 r.code :=
  boardFrame_completes rfl rfl h (congrArg s.arrived.takeBoard hr)

theorem stopAmend_completes {f : FeedFrame} {s : State} {r : BoardResult} (h : s.TakesData f)
    (hr : s.board.stopAmend f.payload = r) : Completes (.stopAmend f) f .stopAmend s (s.takeBoard r).1 r.code :=
  boardFrame_completes rfl rfl h (congrArg s.arrived.takeBoard hr)

/-! ### Which part it is (R52 to R55) -/

theorem buildHasRev_eq_false {e : Entry} {rev : Nat} (h : ∀ b ∈ e.build, b.rev ≠ rev) : e.buildHasRev rev = false := by
  unfold Entry.buildHasRev
  cases hb : e.build with
  | none => rfl
  | some b => simpa using h b hb

/-- The build counted when a part 0 supersedes it (R53). -/
def Entry.superseded (e : Entry) : List Ctr := if e.build.isSome then [.buildsSuperseded] else []

section Parts

variable {b : Board} {p : List Byte} {d : StopsData} (st : Settings) (hd : StopsData.ofPayload p = some d)
include hd

/-- A part for no entry (R51). -/
theorem stops_absent (h : findEntry b.table d.id = none) : b.stops st p = b.refuse .notFound [.orphanParts] := by
  unfold Board.stops
  simp only [hd, h]

variable {e : Entry} (he : findEntry b.table d.id = some e)
include he

theorem stops_first (h : d.part = 0) : b.stops st p = b.firstPart st e d := by
  unfold Board.stops
  simp only [hd, he, h, if_true]

theorem stops_next (h : d.part ≠ 0) : b.stops st p = b.nextPart st e d := by
  unfold Board.stops
  simp only [hd, he, h, if_false]

/-- A part 0 newer than the list, with no open build of its revision, opens a build; one that is open is released (R52, R53). -/
theorem stops_opens (h : d.part = 0) (hbuild : ∀ bd ∈ e.build, bd.rev ≠ d.rev)
    (hlist : ∀ l ∈ e.list, newer d.rev l.rev = true) : b.stops st p =
      Board.appendPart { b with free := b.free ++ e.buildBlocks } st e [] false d e.superseded := by
  rw [stops_first st hd he h]
  unfold Board.firstPart
  rw [buildHasRev_eq_false hbuild, if_neg Bool.false_ne_true]
  cases hl : e.list with
  | none => rfl
  | some l => exact if_pos (hlist l hl)

/-- A part 0 that is not newer than the list (R52). -/
theorem stops_stale {l : CallingList} (h : d.part = 0) (hbuild : ∀ bd ∈ e.build, bd.rev ≠ d.rev)
    (hlist : e.list = some l) (hold : newer d.rev l.rev = false) :
    b.stops st p = b.refuse .stale [.staleParts] := by
  rw [stops_first st hd he h]
  unfold Board.firstPart
  rw [buildHasRev_eq_false hbuild, if_neg Bool.false_ne_true, hlist]
  exact if_neg (by simp [hold])

/-- A later part without an open build of its revision (R54). -/
theorem stops_orphan (h : d.part ≠ 0) (hbuild : ∀ bd ∈ e.build, bd.rev ≠ d.rev) :
    b.stops st p = b.refuse .notFound [.orphanParts] := by
  rw [stops_next st hd he h]
  unfold Board.nextPart
  cases hb : e.build with
  | none => rfl
  | some bd => exact if_pos (hbuild bd hb)

variable {bd : Build} (hbuild : e.build = some bd) (hrev : bd.rev = d.rev)
include hbuild hrev

/-- A later part of the open build, by its place (R55). -/
theorem stops_inBuild (h : d.part ≠ 0) : b.stops st p =
    if d.part = bd.expectedPart then b.appendPart st e bd.chain bd.cut d []
    else if d.part < bd.expectedPart then b.refuse .done [.duplicateParts]
    else
      ⟨{ b with table := updateEntry e.id Entry.abandonBuild b.table, free := b.free ++ chainIds bd.chain },
        .notNow, [.buildsAbandoned], []⟩ := by
  rw [stops_next st hd he h]
  unfold Board.nextPart
  rw [hbuild]
  exact if_neg (not_not_intro hrev)

/-- A repeated part of the open build (R52, R55). -/
theorem stops_duplicate (h : d.part < bd.expectedPart) : b.stops st p = b.refuse .done [.duplicateParts] := by
  by_cases h0 : d.part = 0
  · rw [stops_first st hd he h0]
    have hsame : e.buildHasRev d.rev = true := by simp [Entry.buildHasRev, hbuild, hrev]
    exact if_pos hsame
  · rw [stops_inBuild st hd he hbuild hrev h0, if_neg (Nat.ne_of_lt h), if_pos h]

theorem stops_expected (h : d.part ≠ 0) (hpart : bd.expectedPart = d.part) :
    b.stops st p = b.appendPart st e bd.chain bd.cut d [] := by
  rw [stops_inBuild st hd he hbuild hrev h, if_pos hpart.symm]

/-- A part past the expected one abandons the build (R55). -/
theorem stops_ahead (h : d.part ≠ 0) (hpart : bd.expectedPart < d.part) : b.stops st p =
    ⟨{ b with table := updateEntry e.id Entry.abandonBuild b.table, free := b.free ++ chainIds bd.chain },
      .notNow, [.buildsAbandoned], []⟩ := by
  rw [stops_inBuild st hd he hbuild hrev h, if_neg (by omega), if_neg (by omega)]

end Parts

/-! ### What becomes of the build (R53, R55, R57, R58) -/

section Append

variable {b : Board} (st : Settings) (e : Entry) {chain : List Block} {cut : Bool} {d : StopsData} (counts : List Ctr)
  {w : Appending} (hw : w = (Appending.mk b.free chain cut false).addAll d.stops)
include hw

theorem appendPart_exhausts (h : w.exhausted = true) : b.appendPart st e chain cut d counts =
    ⟨{ b with table := updateEntry e.id Entry.abandonBuild b.table, free := w.free ++ chainIds w.chain },
      .noSpace, counts ++ [.buildsAbandoned], [.poolExhausted]⟩ := by
  unfold Board.appendPart
  rw [← hw]
  exact if_pos h

theorem appendPart_final (h : w.exhausted = false) (hfinal : d.final = true) : b.appendPart st e chain cut d counts =
    ⟨{ b with
        table := updateEntry e.id (fun x => x.completeList d.rev w.chain w.cut) b.table
        free := w.free ++ e.listBlocks },
      .done, counts ++ [.listsCompleted], []⟩ := by
  unfold Board.appendPart
  rw [← hw]
  exact (if_neg (by simp [h])).trans (if_pos hfinal)

theorem appendPart_goesOn (h : w.exhausted = false) (hfinal : d.final = false) : b.appendPart st e chain cut d counts =
    ⟨{ b with
        table := updateEntry e.id
          (fun x => { x with build := some ⟨d.rev, d.part + 1, w.chain, w.cut, st.buildTimeout⟩ }) b.table
        free := w.free },
      .done, counts, []⟩ := by
  unfold Board.appendPart
  rw [← hw]
  exact (if_neg (by simp [h])).trans (if_neg (by simp [hfinal]))

end Append

/-- Settles O24: both ways in append the part to a chain and a free list, and the rest is the Final flag's. -/
theorem stopsPartIsAppended : Obligations.StopsPartIsAppended := by
  intro f s d e chain cut free counts w htakes hd he hin hw hroom
  have happends : s.board.stops s.mgmt.settings f.payload =
      Board.appendPart { s.board with free := free } s.mgmt.settings e chain cut d counts := by
    rcases hin with ⟨hpart, rfl, rfl, hbuild, hlist, rfl, rfl⟩ | ⟨hpart, rfl, rfl, bd, hbuild, hrev, hexpected, rfl, rfl⟩
    · exact stops_opens _ hd he hpart hbuild hlist
    · exact stops_expected _ hd he hbuild hrev (by omega) hexpected
  exact ⟨fun hfinal => stops_completes htakes (happends.trans (appendPart_goesOn _ e counts hw hroom hfinal)),
    fun hfinal => stops_completes htakes (happends.trans (appendPart_final _ e counts hw hroom hfinal))⟩

/-- Settles O25: the parts that `Board.stops` refuses, and the two that find the free list empty. -/
theorem partsOutOfTurn : Obligations.PartsOutOfTurn := by
  intro f s d htakes hd
  refine ⟨fun habsent => stops_completes htakes (stops_absent _ hd habsent), fun e he => ⟨?orphan, ?duplicate, ?stale,
    ?ahead, ?expected, ?opening⟩⟩
  case orphan => exact fun hpart hbuild => stops_completes htakes (stops_orphan _ hd he hpart hbuild)
  case duplicate =>
    exact fun bd hbuild hrev hpart => stops_completes htakes (stops_duplicate _ hd he hbuild hrev hpart)
  case stale =>
    exact fun l hpart hbuild hlist hold => stops_completes htakes (stops_stale _ hd he hpart hbuild hlist hold)
  case ahead =>
    exact fun bd hbuild hrev hpart hahead => stops_completes htakes (stops_ahead _ hd he hbuild hrev hpart hahead)
  case expected =>
    intro bd w hbuild hrev hpart hexpected hw hexhausted
    exact stops_completes htakes
      ((stops_expected _ hd he hbuild hrev hpart hexpected).trans (appendPart_exhausts _ e [] hw hexhausted))
  case opening =>
    intro w hpart hbuild hlist hw hexhausted
    exact stops_completes htakes
      ((stops_opens _ hd he hpart hbuild hlist).trans (appendPart_exhausts _ e _ hw hexhausted))

/-! ### Stop Amend (R61) -/

/-- An element of an append changed is an element of the part that holds it changed. -/
theorem modify_append {α : Type} (l r : List α) (i : Nat) (f : α → α) : (l ++ r).modify i f =
    if i < l.length then l.modify i f ++ r else l ++ r.modify (i - l.length) f := by
  refine List.ext_getElem? fun j => ?_
  by_cases hi : i < l.length
  · by_cases hj : j < l.length
    · simp [List.getElem?_modify, List.getElem?_append, List.getElem_modify, hi, hj]
    · simp [List.getElem?_append, hi, hj, show i ≠ j by omega]
  · by_cases hj : j < l.length
    · simp [List.getElem?_append, hi, hj, show i ≠ j by omega]
    · have hij : i - l.length = j - l.length ↔ i = j := by omega
      simp [List.getElem?_modify, List.getElem?_append, hi, hj, hij]

/-- Amending the stop at an index of a chain is amending it in the list of its stops. -/
theorem amendChain_stops (g : Stop → Stop) (c : List Block) : ∀ i,
    chainStops (amendChain i g c) = (chainStops c).modify i g := by
  induction c with
  | nil => exact fun i => by simp [amendChain, chainStops]
  | cons a rest ih =>
    intro i
    unfold amendChain
    rw [chainStops_cons, modify_append]
    split
    · rfl
    · rw [chainStops_cons, ih]

/-- No stop kind has a code above 3 (R197). -/
theorem stopKind_ofCode_none {n : Nat} (h : 3 < n) : StopKind.ofCode n = none := by
  unfold StopKind.ofCode
  split
  case h_5 => rfl
  all_goals omega

theorem stopKind_ofCode_code (k : StopKind) : StopKind.ofCode k.code = some k ∧ k.code ≤ 3 := by
  cases k <;> exact ⟨rfl, by decide⟩

/-- An optional minute of day is read back from its two bytes (R194). -/
theorem optBytes_readsBack (l : List Byte) {time : Option Nat} (h : ∀ m ∈ time, m ≤ 1439) :
    optMinuteOk (u16 (l ++ optBytes time) l.length) = true ∧ optOf (u16 (l ++ optBytes time) l.length) = time := by
  cases time with
  | none =>
    have hword := u16_append l [] (n := 0xFFFF) (by decide)
    rw [List.append_nil] at hword
    have hbytes : optBytes none = b16 0xFFFF := rfl
    rw [hbytes, hword]
    exact ⟨rfl, rfl⟩
  | some m =>
    have hm := h m rfl
    have hword := u16_append l [] (n := m) (by omega)
    rw [List.append_nil] at hword
    show optMinuteOk (u16 (l ++ b16 m) l.length) = true ∧ optOf (u16 (l ++ b16 m) l.length) = some m
    rw [hword]
    exact ⟨by simp [optMinuteOk, hm], if_neg (by omega)⟩

/-- A payload that the tests of R61 refuse. -/
theorem stopAmend_malformed {b : Board} {p : List Byte} (h : p.length ≠ 6 ∨ u16 p 0 = 0 ∨ 47 < u8 p 2 ∨ 3 < u8 p 3 ∨
    (u16 p 4 ≠ 0xFFFF ∧ 1439 < u16 p 4)) : b.stopAmend p = b.refuse .malformed := by
  unfold Board.stopAmend
  by_cases hform : p.length ≠ 6 ∨ u16 p 0 = 0 ∨ 47 < u8 p 2 ∨ optMinuteOk (u16 p 4) = false
  · exact if_pos hform
  · have hkind : 3 < u8 p 3 := by
      simp only [optMinuteOk, Bool.or_eq_false_iff, decide_eq_false_iff_not] at hform
      omega
    rw [if_neg hform, stopKind_ofCode_none hkind]

/-- What a well-formed Stop Amend of the stop at index i does, by the entry of its service (R61). -/
def Board.amendStopAt (b : Board) (id i : Nat) (kind : StopKind) (time : Option Nat) : BoardResult :=
  match findEntry b.table id with
  | none => b.refuse .notFound
  | some e =>
    match e.list with
    | none => b.refuse .notFound
    | some l =>
      if i < chainLength l.chain then
        ⟨{ b with table := updateEntry e.id (Entry.amendStop i kind time) b.table }, .done, [], []⟩
      else b.refuse .notFound

section Amend

variable {b : Board} {p : List Byte} {id i : Nat} {kind : StopKind} {time : Option Nat}
  (hp : p = b16 id ++ [b8 i, b8 kind.code] ++ optBytes time) (hlo : 1 ≤ id) (hid : id ≤ 65535) (hi : i ≤ 47)
  (htime : ∀ m ∈ time, m ≤ 1439)
include hp hlo hid hi htime

theorem stopAmend_eq : b.stopAmend p = b.amendStopAt id i kind time := by
  have hservice : u16 p 0 = id := by
    rw [hp, List.append_assoc]
    exact u16_append [] _ hid
  have hindex : u8 p 2 = i := by
    rw [hp]
    simp [u8, b16, b8]
    omega
  obtain ⟨hkind, hcode⟩ := stopKind_ofCode_code kind
  have hkindByte : u8 p 3 = kind.code := by
    rw [hp]
    simp [u8, b16, b8]
    omega
  obtain ⟨hminute, hopt⟩ := optBytes_readsBack (b16 id ++ [b8 i, b8 kind.code]) htime
  rw [← hp] at hminute hopt
  have hlen : p.length = 6 := by
    rw [hp]
    cases time <;> rfl
  have hform : ¬ (p.length ≠ 6 ∨ u16 p 0 = 0 ∨ 47 < u8 p 2 ∨ optMinuteOk (u16 p 4) = false) := by
    rintro (h | h | h | h)
    · exact h hlen
    · omega
    · omega
    · exact Bool.false_ne_true (h.symm.trans hminute)
  unfold Board.stopAmend
  rw [if_neg hform, hkindByte, hkind, hservice, hindex]
  have hfour : u16 p 4 = u16 p (b16 id ++ [b8 i, b8 kind.code]).length := rfl
  rw [hfour, hopt]
  rfl

end Amend

/-- With one entry for each service, a change of the entry of a service is a change of the one found. -/
theorem updateEntry_found {t : List Entry} (h : (t.map Entry.id).Nodup) {e : Entry} (he : e ∈ t) {f g : Entry → Entry}
    (hfg : f e = g e) : updateEntry e.id f t = updateEntry e.id g t := by
  refine List.map_congr_left fun x hx => ?_
  by_cases hid : x.id = e.id
  · rw [if_pos hid, if_pos hid, eq_of_id_eq h hx he hid, hfg]
  · rw [if_neg hid, if_neg hid]

/-- Settles O26: amending a chain, the form tests, and the tests of the list in their order. -/
theorem stopAmendChangesOneStop : Obligations.StopAmendChangesOneStop := by
  refine ⟨fun i g c => ⟨amendChain_stops g c i, amendChain_ids g c i⟩, fun f s htakes =>
    ⟨fun hform => stopAmend_completes htakes (stopAmend_malformed hform), fun id i kind time hp hlo hid hi htime => ?_⟩⟩
  have heq := stopAmend_eq (b := s.board) hp hlo hid hi htime
  unfold Board.amendStopAt at heq
  refine ⟨fun habsent => ?absent, fun e he hnone => ?noList, fun e l he hlist hpast => ?past,
    fun e l chain he hlist hin hids hchain => ?amended⟩
  case absent =>
    rw [habsent] at heq
    exact stopAmend_completes htakes heq
  case noList =>
    simp only [he, hnone] at heq
    exact stopAmend_completes htakes heq
  case past =>
    simp only [he, hlist] at heq
    exact stopAmend_completes htakes (heq.trans (if_neg (Nat.not_lt.2 hpast)))
  case amended =>
    obtain ⟨hmem, rfl⟩ := findEntry_some he
    simp only [he, hlist] at heq
    have hstop : (fun y : Stop => { y with kind := kind, time := time.orElse (fun _ => y.time) }) =
        Stop.amended kind time := by
      funext y
      unfold Stop.amended
      cases time <;> rfl
    have hentry : e.amendStop i kind time = { e with list := some ⟨l.rev, chain⟩ } := by
      rw [hchain, hstop]
      unfold Entry.amendStop
      rw [hlist]
      rfl
    rw [if_pos hin, updateEntry_found hids hmem (g := fun _ => { e with list := some ⟨l.rev, chain⟩ }) hentry] at heq
    exact stopAmend_completes htakes heq

/-! ### After a hard reset (R66) -/

/-- Settles O4: the state at the end of a hard reset, and the state the machine starts from, begin with the empty board. -/
theorem hardResetEndEmptiesBoardAndPool : Obligations.HardResetEndEmptiesBoardAndPool := by
  intro straps s h
  have hexec : exec (.hardResetEnd straps) s = .next (s.endReset straps) := by
    show Host.Outcome.next (if s.inReset then s.endReset straps else s) = _
    rw [if_pos h]
  refine ⟨s.endReset straps, hexec, fun u hu => ?_⟩
  obtain ⟨hboard, hcounters, hmgmt⟩ : u.board = Board.empty ∧ u.counters = Vector.replicate 40 0 ∧
      u.mgmt = Mgmt.afterReset := by
    rcases List.mem_cons.1 hu with rfl | hu
    · exact ⟨rfl, rfl, rfl⟩
    · rw [List.mem_singleton.1 hu]
      exact ⟨rfl, rfl, rfl⟩
  rw [hboard, hmgmt]
  refine ⟨List.Perm.refl _, List.length_range, rfl, fun e he => absurd he List.not_mem_nil, fun c _ => ?_, rfl⟩
  unfold State.counter
  rw [hcounters]
  simp

end Sys2Proof.Machine
end

section
/-! PROOFS. Calling lists stay filled block by block, the clock a time of day, and the Name Table in code order (R49, R50, R68,
R82). -/

namespace Sys2Proof.Machine

/-! ### Chains filled block by block (R49) -/

theorem chainFull_singleton (a : Block) : chainFull [a] = true ↔ 1 ≤ a.stops.length ∧ a.stops.length ≤ 8 := by
  unfold chainFull Config.blockStops
  simp

theorem chainFull_cons (a b : Block) (c : List Block) :
    chainFull (a :: b :: c) = true ↔ a.stops.length = 8 ∧ chainFull (b :: c) = true := by
  show (decide (a.stops.length = 8) && chainFull (b :: c)) = true ↔ _
  rw [Bool.and_eq_true, decide_eq_true_iff]

/-- A full chain whose stops are a whole number of blocks takes a new block (R49, R56). -/
theorem chainFull_newBlock {a : Block} (ha : a.stops.length = 1) {c : List Block} (h : chainFull c = true)
    (hlen : chainLength c % 8 = 0) : chainFull (c ++ [a]) = true := by
  induction c with
  | nil => exact (chainFull_singleton a).2 (by omega)
  | cons b c ih =>
    rw [chainLength_cons] at hlen
    cases c with
    | nil =>
      obtain ⟨hlo, hhi⟩ := (chainFull_singleton b).1 h
      have hb : b.stops.length = 8 := by
        have hnil : chainLength [] = 0 := rfl
        omega
      exact (chainFull_cons b a []).2 ⟨hb, (chainFull_singleton a).2 (by omega)⟩
    | cons b' c =>
      obtain ⟨hb, hrest⟩ := (chainFull_cons b b' c).1 h
      exact (chainFull_cons b b' (c ++ [a])).2 ⟨hb, ih hrest (by omega)⟩

/-- The last block of a full chain takes a stop when it has room (R49, R56). -/
theorem chainFull_writeLast (x : Stop) {c : List Block} (h : chainFull c = true) (hlen : chainLength c % 8 ≠ 0) :
    chainFull (writeLast x c) = true := by
  induction c with
  | nil => rfl
  | cons b c ih =>
    rw [chainLength_cons] at hlen
    cases c with
    | nil =>
      obtain ⟨_, hhi⟩ := (chainFull_singleton b).1 h
      have hroom : b.stops.length < 8 := by
        have hnil : chainLength [] = 0 := rfl
        omega
      exact (chainFull_singleton _).2 (by simp; omega)
    | cons b' c =>
      obtain ⟨hb, hrest⟩ := (chainFull_cons b b' c).1 h
      have hlast := ih hrest (by omega)
      cases hw : writeLast x (b' :: c) with
      | nil => cases c <;> cases hw
      | cons y ys =>
        have hcons : writeLast x (b :: b' :: c) = b :: y :: ys := congrArg (List.cons b) hw
        rw [hcons]
        exact (chainFull_cons b y ys).2 ⟨hb, hw ▸ hlast⟩

/-- What appending a stop leaves is filled block by block within 48 stops (R49, R56). -/
theorem add_chainSound {w : Appending} (x : Stop) (h : ChainSound w.chain) : ChainSound (w.add x).chain := by
  cases hw : w.exhausted with
  | true =>
    have hsame : w.add x = w := if_pos hw
    rwa [hsame]
  | false =>
    obtain ⟨hfull, _⟩ := id h
    have hjoined : ∀ c : List Block, chainStops c = chainStops w.chain ++ [x] → chainLength w.chain < 48 →
        chainLength c ≤ 48 := by
      intro c hc hlen
      rw [chainLength_eq, hc, List.length_append, ← chainLength_eq]
      exact hlen
    rcases add_cases x hw with ⟨_, e⟩ | ⟨hlen, hlast, e⟩ | ⟨hlen, hlast, f, fs, _, e⟩ | ⟨_, _, e⟩ <;> rw [e]
    · exact h
    · have hne : w.chain ≠ [] := fun hnil => hlast (by rw [hnil]; rfl)
      exact ⟨chainFull_writeLast x hfull hlast, hjoined _ (chainStops_writeLast x hne) hlen⟩
    · exact ⟨chainFull_newBlock rfl hfull hlast, hjoined _ (chainStops_append _ _) hlen⟩
    · exact h

theorem addAll_chainSound (stops : List Stop) : ∀ {w : Appending}, ChainSound w.chain →
    ChainSound (w.addAll stops).chain := by
  induction stops with
  | nil => exact fun h => h
  | cons x stops ih => exact fun h => ih (add_chainSound x h)

/-- A chain is sound or not by the numbers of stops in its blocks. -/
theorem chainFull_of_lengths : ∀ {c d : List Block},
    c.map (fun b => b.stops.length) = d.map (fun b => b.stops.length) → chainFull c = chainFull d
  | [], [], _ => rfl
  | [a], [b], h => by
    have hab : a.stops.length = b.stops.length := List.head_eq_of_cons_eq h
    simp [chainFull, hab]
  | a :: a' :: c, b :: b' :: d, h => by
    obtain ⟨hab, hrest⟩ := List.cons_eq_cons.1 h
    show (decide (a.stops.length = _) && chainFull (a' :: c)) = (decide (b.stops.length = _) && chainFull (b' :: d))
    have hsame : a.stops.length = b.stops.length := hab
    rw [hsame, chainFull_of_lengths hrest]
  | [], _ :: _, h | _ :: _, [], h | [_], _ :: _ :: _, h | _ :: _ :: _, [_], h => by simp at h

theorem amendChain_lengths (g : Stop → Stop) (c : List Block) : ∀ i,
    (amendChain i g c).map (fun b => b.stops.length) = c.map (fun b => b.stops.length) := by
  induction c with
  | nil => exact fun _ => rfl
  | cons a rest ih =>
    intro i
    unfold amendChain
    split
    · simp
    · exact congrArg (List.cons a.stops.length) (ih _)

/-- A stop changed leaves a chain as full as it was (R61). -/
theorem amendChain_chainSound {c : List Block} (h : ChainSound c) (i : Nat) (g : Stop → Stop) :
    ChainSound (amendChain i g c) := by
  obtain ⟨hfull, hlen⟩ := h
  have hsame := amendChain_lengths g c i
  have hsum : chainLength (amendChain i g c) = chainLength c := congrArg List.sum hsame
  exact ⟨(chainFull_of_lengths hsame).trans hfull, hsum.trans_le hlen⟩

/-! ### The lists of an entry and of a board -/

/-- The board's part of `State.ListsSound`. -/
def Board.ListsSound (b : Board) : Prop := ∀ e ∈ b.table, e.ListsSound

theorem listsSound_iff (s : State) : s.ListsSound ↔ s.board.ListsSound := Iff.rfl

/-- An entry's lists are its complete list and its build, and nothing else of it. -/
theorem Entry.ListsSound.congr {e e' : Entry} (h : e.ListsSound) (hlist : e'.list = e.list) (hbuild : e'.build = e.build) :
    e'.ListsSound := by
  unfold Entry.ListsSound
  rwa [hlist, hbuild]

theorem Entry.ListsSound.empty {e : Entry} (hlist : e.list = none) (hbuild : e.build = none) : e.ListsSound := by
  constructor
  · rw [hlist]
    nofun
  · rw [hbuild]
    nofun

/-- A build that is abandoned leaves the complete list (R55, R57, R59). -/
theorem Entry.ListsSound.abandonBuild {e : Entry} (h : e.ListsSound) : e.abandonBuild.ListsSound := ⟨h.1, nofun⟩

/-- The chain of a build becomes the complete list (R58). -/
theorem Entry.ListsSound.completeList (e : Entry) (rev : Nat) {chain : List Block} (h : ChainSound chain) (cut : Bool) :
    (e.completeList rev chain cut).ListsSound := by
  refine ⟨fun l hl => ?_, nofun⟩
  cases hl
  exact h

theorem Entry.ListsSound.setBuild {e : Entry} (h : e.ListsSound) {bd : Build} (hchain : ChainSound bd.chain)
    (hlo : 1 ≤ bd.expectedPart) (hhi : bd.expectedPart ≤ 8) : ({ e with build := some bd } : Entry).ListsSound := by
  refine ⟨h.1, fun b hb => ?_⟩
  cases hb
  exact ⟨hchain, hlo, hhi⟩

theorem Entry.ListsSound.amendStop {e : Entry} (h : e.ListsSound) (i : Nat) (kind : StopKind) (time : Option Nat) :
    (e.amendStop i kind time).ListsSound := by
  refine ⟨fun l hl => ?_, h.2⟩
  obtain ⟨l', hl', rfl⟩ := Option.map_eq_some_iff.1 hl
  exact amendChain_chainSound (h.1 l' hl') _ _

/-- The count of a second event leaves a build its chain and its place, or abandons it (R59). -/
theorem Entry.ListsSound.countBuild {e : Entry} (h : e.ListsSound) : e.countBuild.ListsSound := by
  unfold Entry.countBuild
  split
  · next bd hb =>
    split
    · exact h.abandonBuild
    · obtain ⟨hchain, hlo, hhi⟩ := h.2 bd hb
      exact h.setBuild hchain hlo hhi
  · exact h

/-- The part of a Stops frame is 0..7 (R51). -/
theorem stopsData_part {p : List Byte} {x : StopsData} (hx : StopsData.ofPayload p = some x) : x.part ≤ 7 := by
  unfold StopsData.ofPayload at hx
  split at hx
  · cases hx
  · split at hx
    · cases hx
      dsimp only
      omega
    · cases hx

section Lists

variable {b : Board} (h : b.ListsSound)
include h

theorem Board.ListsSound.map {f : Entry → Entry} (hf : ∀ e : Entry, e.ListsSound → (f e).ListsSound)
    (mem : List Removal) (free : List Nat) : (Board.mk (b.table.map f) mem free).ListsSound := by
  intro e he
  obtain ⟨x, hx, rfl⟩ := List.mem_map.1 he
  exact hf x (h x hx)

theorem Board.ListsSound.update {f : Entry → Entry} (hf : ∀ e : Entry, e.ListsSound → (f e).ListsSound) (id : Nat)
    (mem : List Removal) (free : List Nat) : (Board.mk (updateEntry id f b.table) mem free).ListsSound := by
  refine h.map (fun e he => ?_) mem free
  split
  · exact hf e he
  · exact he

theorem Board.ListsSound.insert {e : Entry} (he : e.ListsSound) (d : Nat) (mem : List Removal) (free : List Nat) :
    (Board.mk (insertEntry d e b.table) mem free).ListsSound := by
  intro x hx
  rcases List.mem_cons.1 ((insertEntry_perm d e b.table).mem_iff.1 hx) with rfl | hx
  · exact he
  · exact h x hx

theorem Board.ListsSound.filter (p : Entry → Bool) (mem : List Removal) (free : List Nat) :
    (Board.mk (b.table.filter p) mem free).ListsSound := fun e he => h e (List.mem_of_mem_filter he)

theorem Board.ListsSound.remove (e : Entry) (rev : Nat) : (b.remove e rev).ListsSound := h.filter _ _ _

theorem Board.ListsSound.removeIfEnded (e : Entry) : (b.removeIfEnded e).ListsSound := by
  unfold Board.removeIfEnded
  split
  · exact h.remove e e.rev
  · exact h

theorem Board.ListsSound.removeAll (es : List Entry) : (b.removeAll es).ListsSound := by
  rw [removeAll_eq]
  exact h.filter _ _ _

/-! ### Departure frames (R28 to R40) -/

theorem put_listsSound (st : Settings) (p : List Byte) : (b.put st p).board.ListsSound := by
  cases hx : PutData.ofPayload p with
  | none =>
    unfold Board.put
    rw [hx]
    exact h
  | some x =>
    have hnew : (Entry.created st x).ListsSound := Entry.ListsSound.empty rfl rfl
    cases he : findEntry b.table x.id with
    | some e =>
      rw [put_found st hx he]
      unfold Board.putExisting
      split
      · exact h
      · have hsame : (e.replacedBy st x).ListsSound := (h e (findEntry_some he).1).congr rfl rfl
        exact Board.ListsSound.removeIfEnded (Board.ListsSound.insert (b := { b with table := _ })
          (h.filter _ b.memory b.free) hsame _ _ _) _
    | none =>
      rw [put_newcomer st hx he, putNew_eq]
      split
      · exact h
      · split
        · exact h
        · split
          · exact h.insert hnew _ _ _
          · split
            · next e _ => exact Board.ListsSound.insert (b := b.remove e e.rev) (h.remove e e.rev) hnew _ _ _
            · exact h

theorem amend_listsSound (st : Settings) (p : List Byte) : (b.amend st p).board.ListsSound := by
  unfold Board.amend
  split
  · exact h
  · split
    · exact h
    · next e he =>
      have hsame : ∀ a, (e.amendedBy st a).ListsSound := fun a => (h e (findEntry_some he).1).congr rfl rfl
      have refused : ∀ (code : OutcomeCode) (counts : List Ctr), (b.refuse code counts).board.ListsSound := fun _ _ => h
      exact iteInduction (motive := fun r : BoardResult => r.board.ListsSound) (fun _ => refused _ _) fun _ =>
        iteInduction (motive := fun r : BoardResult => r.board.ListsSound) (fun _ => refused _ _) fun _ =>
          iteInduction (motive := fun r : BoardResult => r.board.ListsSound) (fun _ => refused _ _) fun _ =>
            Board.ListsSound.removeIfEnded (h.update (fun _ _ => hsame _) _ _ _) _

theorem removeFrame_listsSound (p : List Byte) : (b.removeFrame p).board.ListsSound := by
  unfold Board.removeFrame
  split
  · exact h
  · split
    · exact h
    · split
      · exact h
      · exact h.remove _ _

/-! ### Stops and Stop Amend (R51 to R61) -/

theorem abandon_listsSound (id : Nat) (mem : List Removal) (free : List Nat) :
    (Board.mk (updateEntry id Entry.abandonBuild b.table) mem free).ListsSound :=
  h.update (fun _ he => he.abandonBuild) id mem free

/-- A part of at most 7 appended to a sound chain (R53, R55 to R58). -/
theorem appendPart_listsSound (st : Settings) (e : Entry) {chain : List Block} (hchain : ChainSound chain) (cut : Bool)
    {x : StopsData} (hpart : x.part ≤ 7) (counts : List Ctr) (free : List Nat) :
    (Board.appendPart { b with free := free } st e chain cut x counts).board.ListsSound := by
  have hall : ChainSound ((Appending.mk free chain cut false).addAll x.stops).chain := addAll_chainSound _ hchain
  unfold Board.appendPart
  dsimp only
  split
  · exact abandon_listsSound h _ _ _
  · split
    · exact h.update (fun y _ => Entry.ListsSound.completeList y _ hall _) _ _ _
    · exact h.update (fun y hy => hy.setBuild hall (Nat.le_add_left 1 _) (Nat.succ_le_succ hpart)) _ _ _

theorem openBuild_listsSound (st : Settings) (e : Entry) {x : StopsData} (hpart : x.part ≤ 7) :
    (b.openBuild st e x).board.ListsSound :=
  appendPart_listsSound h st e ⟨rfl, Nat.zero_le _⟩ _ hpart _ _

theorem nextPart_listsSound (st : Settings) {e : Entry} (he : e ∈ b.table) {x : StopsData} (hpart : x.part ≤ 7) :
    (b.nextPart st e x).board.ListsSound := by
  unfold Board.nextPart
  split
  · exact h
  · next bd hb =>
    split
    · exact h
    · split
      · exact appendPart_listsSound h st e ((h e he).2 bd hb).1 _ hpart _ b.free
      · split
        · exact h
        · exact abandon_listsSound h _ _ _

theorem stops_listsSound (st : Settings) (p : List Byte) : (b.stops st p).board.ListsSound := by
  unfold Board.stops
  split
  · exact h
  · next x hx =>
    have hpart := stopsData_part hx
    split
    · exact h
    · next e he =>
      split
      · unfold Board.firstPart
        split
        · exact h
        · split
          · split
            · exact openBuild_listsSound h st e hpart
            · exact h
          · exact openBuild_listsSound h st e hpart
      · exact nextPart_listsSound h st (findEntry_some he).1 hpart

theorem stopAmend_listsSound (p : List Byte) : (b.stopAmend p).board.ListsSound := by
  unfold Board.stopAmend
  split
  · exact h
  · split
    · exact h
    · split
      · exact h
      · split
        · exact h
        · split
          · exact h.update (fun e he => he.amendStop _ _ _) _ _ _
          · exact h

/-! ### Counts and settings -/

theorem countBuilds_listsSound : b.countBuilds.1.ListsSound := by
  unfold Board.countBuilds
  rw [countBuildEntries_eq]
  exact h.map (fun _ he => he.countBuild) _ _

theorem timeEvent_listsSound (st : Settings) (second : Bool) (expiry : Option Nat) :
    (b.timeEvent st second expiry).1.ListsSound := by
  have hcounted := h.map (f := Entry.countLingers) (fun _ he => he.congr rfl rfl) b.memory b.free
  unfold Board.timeEvent
  refine Board.ListsSound.removeAll ?_ _
  cases second with
  | false => exact h
  | true => exact hcounted

theorem newDayStart_listsSound (d : Nat) : (b.newDayStart d).ListsSound :=
  fun e he => h e ((reorder_perm d b.table).mem_iff.1 he)

theorem newOwnPlatform_listsSound (st : Settings) (own : Platform) : (b.newOwnPlatform st own).ListsSound := by
  refine Board.ListsSound.removeAll (h.map (fun e he => ?_) _ _) _
  unfold Entry.settleOwn
  split
  · split
    · exact he.congr rfl rfl
    · exact he
  · split
    · exact he
    · exact he.congr rfl rfl

end Lists

/-! ### Every step keeps the lists -/

theorem takeBoard_board (s : State) (r : BoardResult) : (s.takeBoard r).1.board = r.board :=
  congrArg Stores.board ((raiseAll_stores _ _).trans (bumpAll_stores _ _))

theorem applySetting_listsSound {s : State} (h : s.ListsSound) (n v : Nat) : (s.applySetting n v).1.ListsSound := by
  unfold State.applySetting
  split
  case h_3 =>
    unfold State.setOwnPlatform
    split
    · exact h
    · exact newOwnPlatform_listsSound h _ _
  case h_4 =>
    unfold State.setDayStart
    split
    · exact h
    · exact newDayStart_listsSound h _
  case h_15 =>
    rw [listsSound_iff, (setSyncSource_board s _).1]
    exact h
  all_goals exact h

theorem boardEmpty_listsSound : Board.empty.ListsSound := fun _ he => absurd he List.not_mem_nil

theorem listsSound_invariant : StoreInvariant State.ListsSound where
  same := by
    intro s t e h
    rw [listsSound_iff, show t.board = s.board from congrArg Stores.board e]
    exact h
  board := by
    intro s k hk p h
    simp only [List.mem_cons, List.not_mem_nil, or_false] at hk
    rcases hk with rfl | rfl | rfl | rfl | rfl <;> refine (listsSound_iff _).2 ((takeBoard_board s _).symm ▸ ?_)
    · exact put_listsSound h _ p
    · exact amend_listsSound h _ p
    · exact removeFrame_listsSound h p
    · exact stops_listsSound h _ p
    · exact stopAmend_listsSound h p
  names _ _ _ h := h
  fonts _ _ _ h := h
  setting n v h := applySetting_listsSound h n v
  advance h := h
  edge _ h := h
  loss _ h := h
  instant h := h
  time _ h := h
  departures second expiry h := timeEvent_listsSound h _ second expiry
  builds h := countBuilds_listsSound h
  restart _ := boardEmpty_listsSound
  reset _ _ := boardEmpty_listsSound

/-! ### Every step keeps the clock a time of day (R68, R69) -/

/-- An advance leaves a time of day and the source state (R68). -/
theorem advance_timeOfDay {c : Clock} (hh : c.hours ≤ 23) (hm : c.minutes ≤ 59) (hs : c.seconds ≤ 59) :
    c.advance.hours ≤ 23 ∧ c.advance.minutes ≤ 59 ∧ c.advance.seconds ≤ 59 ∧ c.advance.lost = c.lost := by
  unfold Clock.advance
  split
  · exact ⟨hh, hm, by dsimp only; omega, rfl⟩
  · split
    · exact ⟨hh, by dsimp only; omega, Nat.zero_le _, rfl⟩
    · split
      · exact ⟨by dsimp only; omega, Nat.zero_le _, Nat.zero_le _, rfl⟩
      · exact ⟨Nat.zero_le _, Nat.zero_le _, Nat.zero_le _, rfl⟩

/-- The values of a Time Set are a time of day (R73). -/
theorem timeOf_bounds {p : List Byte} {h m sec : Nat} (e : timeOf p = some (h, m, sec)) : h ≤ 23 ∧ m ≤ 59 ∧ sec ≤ 59 := by
  unfold timeOf at e
  split at e
  · next hform =>
    cases e
    exact hform.2
  · cases e

theorem clockSound_of_stores {s t : State} (e : t.stores = s.stores) (h : s.ClockSound) : t.ClockSound := by
  unfold State.ClockSound
  rw [show t.clock = s.clock from congrArg Stores.clock e, show t.straps = s.straps from congrArg Stores.straps e]
  exact h

/-- An operation that leaves clock and straps leaves the clock a time of day. -/
theorem clockSound_of_eq {s t : State} (hclock : t.clock = s.clock) (hstraps : t.straps = s.straps) (h : s.ClockSound) :
    t.ClockSound := by
  unfold State.ClockSound
  rw [hclock, hstraps]
  exact h

theorem takeBoard_clockSound {s : State} (h : s.ClockSound) (r : BoardResult) : (s.takeBoard r).1.ClockSound := by
  have hstores : (s.takeBoard r).1.stores = { s.stores with board := r.board } :=
    (raiseAll_stores _ _).trans (bumpAll_stores _ _)
  exact clockSound_of_eq (congrArg Stores.clock hstores) (congrArg Stores.straps hstores) h

/-- The selection of the sync input touches neither the clock nor the Name Table (R67). -/
theorem setSyncSource_clock (s : State) (x : SyncSource) : (s.setSyncSource x).clock = s.clock ∧
    (s.setSyncSource x).straps = s.straps ∧ (s.setSyncSource x).names = s.names := by
  unfold State.setSyncSource
  dsimp only
  split <;> exact ⟨rfl, rfl, rfl⟩

theorem applySetting_clockSound {s : State} (h : s.ClockSound) (n v : Nat) : (s.applySetting n v).1.ClockSound := by
  unfold State.applySetting
  split
  case h_3 =>
    unfold State.setOwnPlatform
    split <;> exact h
  case h_4 =>
    unfold State.setDayStart
    split <;> exact h
  case h_15 =>
    obtain ⟨hclock, hstraps, _⟩ := setSyncSource_clock s (if v = 0 then .internal else .fsync)
    exact clockSound_of_eq hclock hstraps h
  all_goals exact h

theorem clockSound_invariant : StoreInvariant State.ClockSound where
  same e h := clockSound_of_stores e h
  board := by
    intro s k hk p h
    simp only [List.mem_cons, List.not_mem_nil, or_false] at hk
    rcases hk with rfl | rfl | rfl | rfl | rfl <;> exact takeBoard_clockSound h _
  names _ _ _ h := h
  fonts _ _ _ h := h
  setting n v h := applySetting_clockSound h n v
  advance := by
    rintro s ⟨hh, hm, hs, hlost⟩
    obtain ⟨hh', hm', hs', hsame⟩ := advance_timeOfDay hh hm hs
    exact ⟨hh', hm', hs', fun hl => hlost (hsame ▸ hl)⟩
  edge _ h := ⟨h.1, h.2.1, h.2.2.1, nofun⟩
  loss hpulse h := ⟨h.1, h.2.1, h.2.2.1, fun _ => hpulse⟩
  instant h := h
  time := by
    rintro s p hour m sec e ⟨_, _, _, hlost⟩
    obtain ⟨hh, hm, hs⟩ := timeOf_bounds e
    exact ⟨hh, hm, hs, hlost⟩
  departures _ _ h := h
  builds h := h
  restart h := h
  reset _ _ := ⟨Nat.zero_le _, Nat.zero_le _, Nat.zero_le _, nofun⟩

/-! ### Every step keeps the Name Table in order (R82) -/

/-- The Name Table's part of `State.NamesSound`. -/
def NamesInOrder (t : List NameEntry) : Prop := t.Pairwise (fun x y => x.code < y.code) ∧ t.length ≤ 1024

theorem namesSound_iff (s : State) : s.NamesSound ↔ NamesInOrder s.names.table := Iff.rfl

/-- Putting an entry brings no code but its own. -/
theorem putName_mem {e x : NameEntry} {t : List NameEntry} (h : x ∈ putName e t) : x = e ∨ x ∈ t := by
  induction t with
  | nil => exact Or.inl (List.mem_singleton.1 h)
  | cons y ys ih =>
    unfold putName at h
    split at h
    · exact List.mem_cons.1 h
    · split at h
      · exact (List.mem_cons.1 h).imp_right (List.mem_cons_of_mem y)
      · rcases List.mem_cons.1 h with rfl | h
        · exact Or.inr (List.mem_cons_self ..)
        · exact (ih h).imp_right (List.mem_cons_of_mem y)

theorem putName_ordered (e : NameEntry) {t : List NameEntry} (h : t.Pairwise (fun x y => x.code < y.code)) :
    (putName e t).Pairwise (fun x y => x.code < y.code) := by
  induction t with
  | nil => exact List.pairwise_singleton _ _
  | cons x xs ih =>
    obtain ⟨hx, hxs⟩ := List.pairwise_cons.1 h
    unfold putName
    split
    · next hlt =>
      refine List.pairwise_cons.2 ⟨fun y hy => ?_, h⟩
      rcases List.mem_cons.1 hy with rfl | hy
      · exact hlt
      · exact hlt.trans (hx y hy)
    · split
      · next heq => exact List.pairwise_cons.2 ⟨fun y hy => heq ▸ hx y hy, hxs⟩
      · refine List.pairwise_cons.2 ⟨fun y hy => ?_, ih hxs⟩
        rcases putName_mem hy with rfl | hy
        · omega
        · exact hx y hy

/-- A replaced entry adds none, and a new one adds one (R86). -/
theorem putName_length (e : NameEntry) (t : List NameEntry) : (putName e t).length ≤ t.length + 1 ∧
    (t.Pairwise (fun x y => x.code < y.code) → (findName t e.code).isSome = true → (putName e t).length = t.length) := by
  induction t with
  | nil => exact ⟨Nat.le_refl _, fun _ => nofun⟩
  | cons x xs ih =>
    unfold putName
    split
    · next hlt =>
      refine ⟨Nat.le_refl _, fun hord hfound => ?_⟩
      obtain ⟨y, hy⟩ := Option.isSome_iff_exists.1 hfound
      have hcode : y.code = e.code := by simpa using List.find?_some hy
      rcases List.mem_cons.1 (List.mem_of_find?_eq_some hy) with rfl | hin
      · omega
      · have := (List.pairwise_cons.1 hord).1 y hin
        omega
    · split
      · exact ⟨Nat.le_succ _, fun _ _ => rfl⟩
      · next hne =>
        refine ⟨Nat.succ_le_succ ih.1, fun hord hfound => congrArg Nat.succ (ih.2 (List.pairwise_cons.1 hord).2 ?_)⟩
        have hskip : findName (x :: xs) e.code = findName xs e.code := List.find?_cons_of_neg (by simpa using hne)
        rwa [hskip] at hfound

/-- A Name Put of a code that is held, or into a table with room, keeps the table in order and its bound (R86). -/
theorem putNameFrame_inOrder {t : List NameEntry} (h : NamesInOrder t) (p : List Byte) :
    NamesInOrder (putNameFrame t p).table := by
  obtain ⟨hord, hlen⟩ := id h
  unfold putNameFrame
  split
  · exact h
  · next e _ =>
    obtain ⟨hmore, hsame⟩ := putName_length e t
    split
    · next hroom =>
      refine ⟨putName_ordered e hord, ?_⟩
      rcases hroom with hfound | hroom
      · exact (hsame hord hfound).trans_le hlen
      · exact hmore.trans hroom
    · exact h

theorem dropNameFrame_inOrder {t : List NameEntry} (h : NamesInOrder t) (p : List Byte) :
    NamesInOrder (dropNameFrame t p).table := by
  unfold dropNameFrame
  split
  · exact h
  · split
    · exact ⟨h.1.sublist List.filter_sublist, (List.length_filter_le _ _).trans h.2⟩
    · exact h

theorem clearNamesFrame_inOrder {t : List NameEntry} (h : NamesInOrder t) (p : List Byte) :
    NamesInOrder (clearNamesFrame t p).table := by
  unfold clearNamesFrame
  split
  · exact h
  · exact ⟨List.Pairwise.nil, Nat.zero_le _⟩

theorem namesSound_of_eq {s t : State} (e : t.names = s.names) (h : s.NamesSound) : t.NamesSound := by
  rw [namesSound_iff, e]
  exact h

theorem applySetting_names (s : State) (n v : Nat) : (s.applySetting n v).1.names = s.names := by
  unfold State.applySetting
  split
  case h_3 =>
    unfold State.setOwnPlatform
    split <;> rfl
  case h_4 =>
    unfold State.setDayStart
    split <;> rfl
  case h_15 =>
    obtain ⟨_, _, hnames⟩ := setSyncSource_clock s (if v = 0 then .internal else .fsync)
    exact hnames
  all_goals rfl

theorem namesSound_invariant : StoreInvariant State.NamesSound where
  same e h := namesSound_of_eq (congrArg Stores.names e) h
  board := by
    intro s k hk p h
    have hkeeps : ∀ r : BoardResult, (s.takeBoard r).1.NamesSound := fun r =>
      namesSound_of_eq (congrArg Stores.names ((raiseAll_stores _ _).trans (bumpAll_stores _ _))) h
    simp only [List.mem_cons, List.not_mem_nil, or_false] at hk
    rcases hk with rfl | rfl | rfl | rfl | rfl <;> exact hkeeps _
  names := by
    intro s p t ht h
    simp only [List.mem_cons, List.not_mem_nil, or_false] at ht
    rcases ht with rfl | rfl | rfl
    · exact putNameFrame_inOrder h p
    · exact dropNameFrame_inOrder h p
    · exact clearNamesFrame_inOrder h p
  fonts _ _ _ h := h
  setting n v h := namesSound_of_eq (applySetting_names _ n v) h
  advance h := h
  edge _ h := h
  loss _ h := h
  instant h := h
  time _ h := h
  departures _ _ h := h
  builds h := h
  restart _ := ⟨List.Pairwise.nil, Nat.zero_le _⟩
  reset _ _ := ⟨List.Pairwise.nil, Nat.zero_le _⟩

/-- Settles O55: three properties of the stores, each kept by every operation on them. -/
theorem listsClockAndNamesStaySound : Obligations.ListsClockAndNamesStaySound := fun _ _ ⟨hlists, hclock, hnames⟩ e =>
  ⟨step_keeps (P := State.ListsSound) (fun _ _ h => h) listsSound_invariant.exec hlists e,
    step_keeps (P := State.ClockSound) (fun _ _ h => h) clockSound_invariant.exec hclock e,
    step_keeps (P := State.NamesSound) (fun _ _ h => h) namesSound_invariant.exec hnames e⟩

end Sys2Proof.Machine
end

section
/-! PROOFS. Frame events: the contexts advanced, the compositions begun, and the round begun (R139 to R141, R153, R155, R172 to
R174). -/

namespace Sys2Proof.Machine

/-! ### Contexts advanced (R153) -/

theorem ticker_advance_cases (k : Ticker) (v : Nat) :
    (k.pos + v < 16 * k.loop → k.advance v = (some { k with pos := k.pos + v }, false)) ∧
    (16 * k.loop ≤ k.pos + v → k.pending = false →
      k.advance v = (some { k with pos := (k.pos + v) % (16 * k.loop) }, true)) ∧
    (16 * k.loop ≤ k.pos + v → k.pending = true → k.advance v = (none, true)) := by
  unfold Ticker.advance
  refine ⟨fun h => if_pos h, fun h hp => ?_, fun h hp => ?_⟩
  · rw [if_neg (Nat.not_lt.2 h), hp]
    rfl
  · rw [if_neg (Nat.not_lt.2 h), hp]
    rfl

theorem speedOf_eq (h : Head) (idx : Nat) :
    h.speedOf idx = ((keyedGet idx h.fields).map (fun x => x.record.speed)).getD 0 := by
  unfold Head.speedOf
  cases keyedGet idx h.fields <;> rfl

/-- The contexts of a head that shows its pages advanced, with the wraps and the hold set named (R127, R153). -/
theorem advanceTickers_holds {dwell n : Nat} {h h' : Head} {p : PageState} {speed : Nat → Nat} {wraps : Nat → Bool}
    {kept : List Nat} (hm : h.mode = .pages p) (hs : h.tickers.Pairwise (fun a b => a.1 < b.1))
    (hh : h' = h.advanceTickers dwell n)
    (hspeed : ∀ idx, speed idx = ((keyedGet idx h.fields).map (fun x => x.record.speed)).getD 0)
    (hwraps : ∀ idx, wraps idx = (keyedGet idx h.tickers).any (fun k => decide (16 * k.loop ≤ k.pos + speed idx)))
    (hkept : kept = p.holdSet.filter (fun idx => !wraps idx)) :
    h' = { h with mode := h'.mode, tickers := h'.tickers } ∧
    (∀ idx, keyedGet idx h'.tickers = (keyedGet idx h.tickers).bind (fun k => (k.advance (speed idx)).1)) ∧
    (p.phase = .dwell ∨ kept = p.holdSet → h'.mode = .pages p) ∧
    (p.phase = .hold → kept ≠ p.holdSet → kept ≠ [] → h'.mode = .pages { p with holdSet := kept }) ∧
    (p.phase = .hold → kept ≠ p.holdSet → kept = [] →
      h'.mode = .pages ⟨(p.page + 1) % h.pageCount n, .dwell, dwell, p.hold, []⟩) := by
  obtain rfl : speed = h.speedOf := funext fun idx => (hspeed idx).trans (speedOf_eq h idx).symm
  obtain rfl : wraps = h.wraps := funext hwraps
  obtain ⟨ts, p', e, hts, hdwell, hhold⟩ := advanceTickers_pages hm hs dwell n
  rw [e] at hh
  subst hh
  refine ⟨rfl, hts, fun hsame => ?_, fun hp hne hne0 => ?_, fun hp hne h0 => ?_⟩
  · cases hp : p.phase with
    | dwell => exact congrArg HeadMode.pages (hdwell hp)
    | hold =>
      have hall : kept = p.holdSet := hsame.resolve_left (by rw [hp]; decide)
      exact congrArg HeadMode.pages ((hhold hp kept hkept).trans (if_pos hall))
  · exact congrArg HeadMode.pages ((hhold hp kept hkept).trans ((if_neg hne).trans (if_neg hne0)))
  · exact congrArg HeadMode.pages ((hhold hp kept hkept).trans ((if_neg hne).trans (if_pos h0)))

/-! ### The compositions of a frame event, by head (R139, R141, R155) -/

theorem composeHead_undefined {s : State} {i : HeadIx} (h : s.head i = none) : s.composeHead i = s := by
  unfold State.composeHead
  rw [h]

theorem composeHead_busy {s : State} {i : HeadIx} {h : Head} {c : Composition} (hh : s.head i = some h)
    (hc : s.comps.get i = some c) : s.composeHead i = s.bump .composeLag := by
  unfold State.composeHead
  rw [hh, hc]

theorem composeHead_free {s : State} {i : HeadIx} {h : Head} (hh : s.head i = some h) (hc : s.comps.get i = none) :
    s.composeHead i = s.startComp i h := by
  unfold State.composeHead
  rw [hh, hc]

theorem maySwap_congr {s v : State} {i : HeadIx} (hv : s.HeadsOnly v) (hb : v.buffers.get i = s.buffers.get i) :
    v.maySwap i = s.maySwap i := by
  unfold State.maySwap
  rw [hb, hv]
  rfl

section Compose

variable {s : State} (hz : s.mgmt.frozen = false) {i : HeadIx}
include hz

theorem frameCompose_undefined (hh : s.head i = none) : s.SameAt s.frameCompose i := by
  obtain ⟨v, _, hheads, hcomps, hbuffers, hat⟩ := frameCompose_at hz i
  rw [hh] at hheads
  have hvh : v.head i = none := (congrArg HeadEntry.head hheads).trans hh
  rw [composeHead_undefined hvh] at hat
  exact SameAt.trans ⟨hheads, hcomps, hbuffers⟩ hat

variable {h h1 : Head} (hh : s.head i = some h) (h1eq : h1 = h.advanceTickers s.mgmt.settings.dwell s.entryCount)
include hh h1eq

/-- Where a DEFINED head stands when its composition starts: its contexts are advanced. -/
theorem frameCompose_defined : ∃ v, s.HeadsOnly v ∧ v.heads.get i = { s.heads.get i with head := some h1 } ∧
    v.comps.get i = s.comps.get i ∧ v.buffers.get i = s.buffers.get i ∧ (v.composeHead i).SameAt s.frameCompose i := by
  obtain ⟨v, hv, hheads, hrest⟩ := frameCompose_at hz i
  rw [hh] at hheads
  rw [h1eq]
  exact ⟨v, hv, hheads, hrest⟩

/-- A head whose composition is in flight only has its contexts advanced (R139). -/
theorem frameCompose_busy {c : Composition} (hc : s.comps.get i = some c) :
    s.frameCompose.heads.get i = { s.heads.get i with head := some h1 } ∧ s.frameCompose.comps.get i = some c ∧
      s.frameCompose.buffers.get i = s.buffers.get i := by
  obtain ⟨v, _, hheads, hcomps, hbuffers, ⟨ah, ac, ab⟩⟩ := frameCompose_defined hz hh h1eq
  rw [composeHead_busy (congrArg HeadEntry.head hheads) (hcomps.trans hc)] at ah ac ab
  exact ⟨ah.trans hheads, ac.trans (hcomps.trans hc), ab.trans hbuffers⟩

/-- A head that shows its pages starts its composition, which completes at once when it has no fields (R125, R140, R141). -/
theorem frameCompose_pages (hc : s.comps.get i = none) {p1 p' : PageState} (hm1 : h1.mode = .pages p1) {dark : Pixels}
    (hp : p' = if p1.page < h1.pageCount s.entryCount then p1 else { p1 with page := 0 })
    (hd : dark = (s.buffers.get i).back &&& ~~~ rectMask 0 h1.width 0 h1.height) :
    s.frameCompose.heads.get i = { s.heads.get i with head := some { h1 with mode := .pages p' } } ∧
    s.frameCompose.comps.get i = (if h1.fields = [] then none else
      some ⟨s.snapshot (.slots h1.topSlot (rowsOf s.board.table h1.topSlot p'.page)), none⟩) ∧
    s.frameCompose.buffers.get i = (if h1.fields = [] then (s.buffers.get i).completed dark (s.maySwap i)
      else { s.buffers.get i with back := dark, backState := .composing }) := by
  obtain ⟨v, hv, hheads, hcomps, hbuffers, ⟨ah, ac, ab⟩⟩ := frameCompose_defined hz hh h1eq
  have hswap := maySwap_congr hv hbuffers
  have hboard : v.board = s.board ∧ v.clock = s.clock := by rw [hv]; exact ⟨rfl, rfl⟩
  obtain ⟨hboard, hclock⟩ := hboard
  have e := startComp_pages v i (h := h1) (p' := p') (dark := dark) hm1
    (by unfold State.entryCount; rw [hboard]; exact hp) (by rw [hbuffers]; exact hd)
  rw [composeHead_free (congrArg HeadEntry.head hheads) (hcomps.trans hc), e] at ah ac ab
  dsimp only at ah ac ab
  rw [Bank8.get_set_self] at ah ac ab
  refine ⟨ah.trans (by rw [hheads]), ac.trans ?_, ab.trans (by rw [hbuffers, hswap])⟩
  unfold State.snapshot
  rw [hboard, hclock]

/-- A head under an overlay has it painted, and its composition completes at once (R155; log 22). -/
theorem frameCompose_overlay (hc : s.comps.get i = none) {slot : HeadIx} {shadow : Shadow}
    (hm1 : h1.mode = .overlay slot shadow) {dark : Pixels}
    (hd : dark = (s.buffers.get i).back &&& ~~~ rectMask 0 h1.width 0 h1.height) :
    ∃ (k : Option Ticker) (px : Pixels),
      s.frameCompose.heads.get i = { s.heads.get i with head := some { h1 with overlayTicker := k } } ∧
      s.frameCompose.comps.get i = none ∧
      s.frameCompose.buffers.get i = (s.buffers.get i).completed px (s.maySwap i) ∧
      ((s.fonts.get h1.overlayFont).defined = false → k = none ∧ px = dark) ∧
      ((s.fonts.get h1.overlayFont).defined = true → ∀ text,
        text = buildText s.names.table s.mgmt.settings.strictNames .full 640 (freePiece (match s.notices.get slot with
          | some n => n.text
          | none => [])) →
        k = overlayContext s.fonts h1 (s.heads.get i).overlayNumber text ∧
        px = (Clip.ofRect 0 h1.overlayRow h1.width (s.fonts.get h1.overlayFont).height h1.width h1.height).draw s.fonts
          h1.overlayFont h1.width dark (match k with
            | some k => k.choice.drawing
            | none => Drawing.nothing)) := by
  obtain ⟨v, hv, hheads, hcomps, hbuffers, ⟨ah, ac, ab⟩⟩ := frameCompose_defined hz hh h1eq
  have hswap := maySwap_congr hv hbuffers
  obtain ⟨k, px, t, e, _, hundefined, hdefined⟩ := startComp_overlay v i (h := h1) (dark := dark) hm1
    (by rw [hbuffers]; exact hd)
  rw [composeHead_free (congrArg HeadEntry.head hheads) (hcomps.trans hc), e] at ah ac ab
  dsimp only at ah ac ab
  rw [Bank8.get_set_self] at ah ac ab
  have hnumber : (v.heads.get i).overlayNumber = (s.heads.get i).overlayNumber := by rw [hheads]
  rw [hnumber] at hdefined
  unfold State.HeadsOnly at hv
  rw [hv] at hundefined hdefined
  exact ⟨k, px, ah.trans (by rw [hheads]), ac, ab.trans (by rw [hbuffers, hswap]), hundefined, hdefined⟩

end Compose

theorem State.HeadsOnly.link {s t : State} (h : s.HeadsOnly t) : t.link = s.link := by
  unfold State.HeadsOnly at h
  rw [h]

/-! ### The two orders of a frame event (R171, R172; log 8) -/

/-- The state whose period the frame timer counts next, with so many free choices taken. -/
def State.timed (s : State) (count : Nat) : State :=
  { s with link := { s.link with period := s.mgmt.settings.framePeriod }, freeCount := count }

theorem timed_roundsRun (s : State) (count : Nat) : (s.timed count).roundsRun = s.roundsRun := rfl

/-- A frame event composes and then begins its round; where the order can be seen, the other order is possible too (log 8). -/
theorem frameEvent_orders (s : State) :
    (∃ count, s.frameEvent = (s.timed count).frameCompose.frameRound ∧ (s.mgmt.frozen = true → count = s.freeCount)) ∨
    ∃ count, s.frameEvent = (s.timed count).frameRound.frameCompose ∧ s.mgmt.frozen = false ∧ s.roundsRun = true := by
  unfold State.frameEvent
  dsimp only
  split
  · next hrace =>
    have hplain : s.mgmt.frozen = false ∧ s.roundsRun = true := by
      unfold State.frameRace at hrace
      simp only [Bool.and_eq_true, Bool.not_eq_true'] at hrace
      exact hrace.1
    obtain ⟨hz, hr⟩ := hplain
    split
    · exact Or.inl ⟨s.freeCount + 1, rfl, fun h => absurd (hz.symm.trans h) Bool.false_ne_true⟩
    · exact Or.inr ⟨s.freeCount + 1, rfl, hz, hr⟩
  · exact Or.inl ⟨s.freeCount, rfl, fun _ => rfl⟩

/-- The state that a frame event of `s` composes from: its link may have begun the round, and its counters and free choices
differ. -/
structure State.ComposesFrom (s u : State) : Prop where
  frame : u = { s with link := u.link, counters := u.counters, freeCount := u.freeCount }
  states : ∀ j, (u.link.heads.get j).state = (s.link.heads.get j).state
  owner : u.link.owner = s.link.owner
  sending : ∀ x, s.link.sending = some x → u.link.sending = some x
  counter : ∀ c, c ≠ .frameOverruns → c ≠ .frameRepeats → u.counter c = s.counter c

/-- Either order of a frame event composes from a state that only the round has touched. -/
theorem frameEvent_composed (s : State) : ∃ u, s.ComposesFrom u ∧
    s.frameEvent.heads = u.frameCompose.heads ∧ s.frameEvent.comps = u.frameCompose.comps ∧
    s.frameEvent.buffers = u.frameCompose.buffers ∧
    (∀ c, c ≠ .frameOverruns → c ≠ .frameRepeats → s.frameEvent.counter c = u.frameCompose.counter c) ∧
    ∀ x, u.link.sending = some x → s.frameEvent.link.sending = some x := by
  rcases frameEvent_orders s with ⟨count, e, _⟩ | ⟨count, e, _⟩ <;> rw [e]
  · obtain ⟨hframe, hcounter, _, _, hsending⟩ := frameRound_frame (s.timed count).frameCompose
    have hlink : (s.timed count).frameCompose.link = (s.timed count).link :=
      State.HeadsOnly.link (frameCompose_frame (s.timed count)).1
    refine ⟨s.timed count, ⟨rfl, fun _ => rfl, rfl, fun _ h => h, fun _ _ _ => rfl⟩, ?_, ?_, ?_, hcounter, fun x hx => ?_⟩
    · rw [hframe]
    · rw [hframe]
    · rw [hframe]
    · exact hsending x (by rw [hlink]; exact hx)
  · obtain ⟨hframe, hcounter, hstates, howner, hsending⟩ := frameRound_frame (s.timed count)
    have hlink : (s.timed count).frameRound.frameCompose.link = (s.timed count).frameRound.link :=
      State.HeadsOnly.link (frameCompose_frame (s.timed count).frameRound).1
    refine ⟨(s.timed count).frameRound, ⟨?_, hstates, howner, hsending, hcounter⟩, rfl, rfl, rfl, fun _ _ _ => rfl,
      fun x hx => by rw [hlink]; exact hx⟩
    rw [hframe]
    rfl

/-- A completion at the state that a frame event composes from is one of the event, in either order (R159; log 8). -/
theorem State.ComposesFrom.completesAt {s u t : State} (hu : s.ComposesFrom u)
    (hsending : ∀ x, u.link.sending = some x → t.link.sending = some x) {i : HeadIx} {px : Pixels}
    (hcomps : t.comps.get i = none) (hbuffers : t.buffers.get i = (s.buffers.get i).completed px (u.maySwap i)) :
    s.CompletesAt t i px := by
  have keeps : ∀ {a b : State}, (∀ x, a.link.sending = some x → b.link.sending = some x) → b.sendingTo i = false →
      a.sendingTo i = false := by
    intro a b hab hb
    unfold State.sendingTo at hb ⊢
    cases hx : a.link.sending with
    | none => rfl
    | some x =>
      rw [hab x hx] at hb
      exact hb
  have hfront : (u.buffers.get i).frontState = (s.buffers.get i).frontState := by rw [hu.frame]
  have hsendable : u.sendable i = s.sendable i := by
    unfold State.sendable State.ownsLink
    rw [hu.states, hu.owner]
  have hswap : u.maySwap i = true ↔
      ((s.buffers.get i).frontState = .sent ∨ s.sendable i = false) ∧ u.sendingTo i = false := by
    unfold State.maySwap
    rw [hfront, hsendable]
    simp only [Bool.and_eq_true, Bool.or_eq_true, decide_eq_true_eq, Bool.not_eq_true']
  refine ⟨hcomps, u.maySwap i, hbuffers, fun h => ?_, fun hmay hto => hswap.2 ⟨hmay, keeps hsending hto⟩⟩
  obtain ⟨hmay, hto⟩ := hswap.1 h
  exact ⟨hmay, keeps hu.sending hto⟩

/-! ### What a round sees of the compositions (R160, R166, R172) -/

/-- What a head frame carries of a head is the same in both states (R166, R174). -/
def State.SameHead (s v : State) (i : HeadIx) : Prop :=
  (s.head i = none → v.head i = none) ∧
  ∀ h, s.head i = some h → ∃ h', v.head i = some h' ∧ (v.heads.get i).blank = (s.heads.get i).blank ∧
    h'.width = h.width ∧ h'.height = h.height ∧ h'.brightness = h.brightness

/-- What becomes of a front buffer as compositions start: UNSENT it stays so, and SENT it stays so unless a composition may
complete (R159, R161). -/
def State.FrontKept (s v : State) (i : HeadIx) : Prop :=
  ∀ h, s.head i = some h →
    ((s.buffers.get i).frontState = .unsent → (v.buffers.get i).frontState = .unsent) ∧
    ((s.buffers.get i).frontState = .sent →
      s.mgmt.frozen = true ∨ (s.comps.get i).isSome = true ∨ (h.fields ≠ [] ∧ h.overlaySlot = none) →
      (v.buffers.get i).frontState = .sent)

theorem SameHead.refl (s : State) (i : HeadIx) : s.SameHead s i :=
  ⟨fun h => h, fun h hh => ⟨h, hh, rfl, rfl, rfl, rfl⟩⟩

theorem FrontKept.refl (s : State) (i : HeadIx) : s.FrontKept s i := fun _ _ => ⟨fun h => h, fun h _ => h⟩

/-- A head whose index holds a record of the same size and brightness. -/
theorem SameHead.of_eq {s v : State} {i : HeadIx} {h h' : Head} (hh : s.head i = some h)
    (e : v.heads.get i = { s.heads.get i with head := some h' }) (hw : h'.width = h.width) (hht : h'.height = h.height)
    (hb : h'.brightness = h.brightness) : s.SameHead v i := by
  refine ⟨fun hn => absurd (hh.symm.trans hn) nofun, fun x hx => ?_⟩
  obtain rfl : h = x := Option.some.inj (hh.symm.trans hx)
  exact ⟨h', congrArg HeadEntry.head e, by rw [e], hw, hht, hb⟩

/-- A completion leaves an UNSENT front UNSENT (R159). -/
theorem completed_unsent {b : Buffers} (h : b.frontState = .unsent) (px : Pixels) (swaps : Bool) :
    (b.completed px swaps).frontState = .unsent := by
  cases swaps
  · exact h
  · rfl

/-- The compositions of a frame event leave what a head frame carries, and a front buffer but by a completion. -/
theorem frameCompose_seen (s : State) (i : HeadIx) : s.SameHead s.frameCompose i ∧ s.FrontKept s.frameCompose i := by
  obtain ⟨_, _, hfrozen⟩ := frameCompose_frame s
  cases hz : s.mgmt.frozen with
  | true =>
    rw [hfrozen hz]
    exact ⟨SameHead.refl s i, FrontKept.refl s i⟩
  | false =>
    cases hh : s.head i with
    | none =>
      obtain ⟨hheads, _⟩ := frameCompose_undefined hz hh
      exact ⟨⟨fun _ => (congrArg HeadEntry.head hheads).trans hh, fun h hs => absurd (hh.symm.trans hs) nofun⟩,
        fun h hs => absurd (hh.symm.trans hs) nofun⟩
    | some h =>
      have hfront : ∀ {P : Head → Prop}, P h → ∀ x, s.head i = some x → P x := fun hp x hx =>
        Option.some.inj (hh.symm.trans hx) ▸ hp
      cases hc : s.comps.get i with
      | some c =>
        obtain ⟨hheads, _, hbuffers⟩ := frameCompose_busy hz hh rfl hc
        refine ⟨?_, hfront ?_⟩
        · cases hm : h.mode with
          | pages p =>
            obtain ⟨ts, p1, e, _⟩ := (advanceTickers_frame h s.mgmt.settings.dwell s.entryCount).1 p hm
            rw [e] at hheads
            exact SameHead.of_eq hh hheads rfl rfl rfl
          | overlay slot shadow =>
            rw [(advanceTickers_frame h s.mgmt.settings.dwell s.entryCount).2 slot shadow hm] at hheads
            exact SameHead.of_eq hh hheads rfl rfl rfl
        · rw [hbuffers]
          exact ⟨fun h => h, fun h _ => h⟩
      | none =>
        cases hm : h.mode with
        | pages p =>
          obtain ⟨ts, p1, e, _⟩ := (advanceTickers_frame h s.mgmt.settings.dwell s.entryCount).1 p hm
          obtain ⟨hheads, _, hbuffers⟩ := frameCompose_pages hz hh e.symm hc rfl rfl rfl
          refine ⟨SameHead.of_eq hh hheads rfl rfl rfl, hfront ⟨fun hu => ?_, fun hs hstays => ?_⟩⟩
          · rw [hbuffers]
            split
            · exact completed_unsent hu _ _
            · exact hu
          · obtain hfields : h.fields ≠ [] := by
              rcases hstays with hf | hf | ⟨hf, _⟩
              · exact absurd (hz.symm.trans hf) Bool.false_ne_true
              · rw [hc] at hf
                exact absurd hf Bool.false_ne_true
              · exact hf
            rw [hbuffers, if_neg hfields]
            exact hs
        | overlay slot shadow =>
          have e := (advanceTickers_frame h s.mgmt.settings.dwell s.entryCount).2 slot shadow hm
          obtain ⟨k, px, hheads, _, hbuffers, _⟩ := frameCompose_overlay hz hh e.symm hc hm rfl
          refine ⟨SameHead.of_eq hh hheads rfl rfl rfl, hfront ⟨fun hu => ?_, fun _ hstays => ?_⟩⟩
          · rw [hbuffers]
            exact completed_unsent hu _ _
          · exfalso
            rcases hstays with hf | hf | ⟨_, hf⟩
            · exact absurd (hz.symm.trans hf) Bool.false_ne_true
            · rw [hc] at hf
              exact absurd hf Bool.false_ne_true
            · unfold Head.overlaySlot at hf
              rw [hm] at hf
              cases hf

/-- The state that a frame event of `s` begins its round from: the compositions may have started. -/
structure State.RoundsFrom (s v : State) : Prop where
  link : v.link = { s.link with period := s.mgmt.settings.framePeriod }
  heads : ∀ i, s.SameHead v i
  fronts : ∀ i, s.FrontKept v i
  overruns : v.counter .frameOverruns = s.counter .frameOverruns
  repeats : v.counter .frameRepeats = s.counter .frameRepeats

/-- Either order of a frame event begins its round from a state whose compositions alone may have started. -/
theorem frameEvent_rounded (s : State) : ∃ v, s.RoundsFrom v ∧ s.frameEvent.link = v.frameRound.link ∧
    s.frameEvent.counter .frameOverruns = v.frameRound.counter .frameOverruns ∧
    s.frameEvent.counter .frameRepeats = v.frameRound.counter .frameRepeats := by
  rcases frameEvent_orders s with ⟨count, e, _⟩ | ⟨count, e, _⟩ <;> rw [e]
  · obtain ⟨hframe, hcounter, _⟩ := frameCompose_frame (s.timed count)
    have hseen : ∀ i, s.SameHead (s.timed count).frameCompose i ∧ s.FrontKept (s.timed count).frameCompose i :=
      fun i => frameCompose_seen (s.timed count) i
    exact ⟨(s.timed count).frameCompose, ⟨hframe.link, fun i => (hseen i).1, fun i => (hseen i).2,
      hcounter .frameOverruns (by decide), hcounter .frameRepeats (by decide)⟩, rfl, rfl, rfl⟩
  · obtain ⟨hframe, hcounter, _⟩ := frameCompose_frame (s.timed count).frameRound
    exact ⟨s.timed count, ⟨rfl, SameHead.refl s, FrontKept.refl s, rfl, rfl⟩, hframe.link,
      hcounter .frameOverruns (by decide), hcounter .frameRepeats (by decide)⟩

/-! ### The round of a frame event (R172, R173) -/

/-- The new pointer: the first head not begun of a round in progress (R173). -/
def Link.nextPointer (k : Link) : HeadIx :=
  match k.round with
  | some (j :: _) => j
  | some [] | none => k.pointer

/-- Frame Overruns once the round in progress has ended (R173). -/
def State.overrunsCounted (s : State) : Nat :=
  match s.link.round with
  | some (_ :: rest) => min (s.counter .frameOverruns + (rest.length + 1)) 65535
  | some [] | none => s.counter .frameOverruns

/-- The state with the heads not begun counted (R173). -/
def State.countOverruns (s : State) : State :=
  match s.link.round with
  | some (_ :: rest) => s.bumpBy .frameOverruns (rest.length + 1)
  | some [] | none => s

theorem countOverruns_counters (s : State) : s.countOverruns.counter .frameOverruns = s.overrunsCounted ∧
    s.countOverruns.counter .frameRepeats = s.counter .frameRepeats := by
  unfold State.countOverruns State.overrunsCounted
  rcases s.link.round with _ | _ | ⟨i, rest⟩
  · exact ⟨rfl, rfl⟩
  · exact ⟨rfl, rfl⟩
  · exact ⟨State.counter_bumpBy_self s _ _, State.counter_bumpBy_ne s _ (by decide)⟩

theorem beginRound_overruns (s : State) : s.beginRound.counter .frameOverruns = s.overrunsCounted := by
  have hended : s.endRound.counter .frameOverruns = s.overrunsCounted := by
    rw [endRound_spec s]
    exact (countOverruns_counters s).1
  unfold State.beginRound
  dsimp only
  split
  · exact hended
  · obtain ⟨_, _, hcounter⟩ := nextOfRound_frame ((wrapFrom s.endRound.link.pointer).filter s.endRound.dueInRound)
      s.endRound s.endRound.link.pointer
    exact (hcounter _ (by decide)).trans hended

/-- A head frame that begins counts Frame Repeats when the front is SENT (R160). -/
theorem countRepeat_counter (s c : State) (i : HeadIx) :
    (if (s.buffers.get i).frontState = .sent then c.bump .frameRepeats else c).counter .frameRepeats =
      if (s.buffers.get i).frontState = .sent then min (c.counter .frameRepeats + 1) 65535
      else c.counter .frameRepeats := by
  split
  · exact State.counter_bump_self c _
  · rfl

section Round

variable {s v : State} (hv : s.RoundsFrom v)
include hv

theorem State.RoundsFrom.roundsRun : v.roundsRun = s.roundsRun := by
  unfold State.roundsRun
  rw [hv.link]

/-- The heads due are those of the state before (R172). -/
theorem State.RoundsFrom.due (p : HeadIx) : v.dueFrom p = s.dueFrom p := by
  unfold State.dueFrom
  rw [hv.link]
  refine List.filter_congr fun j _ => ?_
  obtain ⟨hnone, hsome⟩ := hv.heads j
  have hdefined : (v.head j).isSome = (s.head j).isSome := by
    cases hh : s.head j with
    | none => rw [hnone hh]
    | some h =>
      obtain ⟨h', hvh, _⟩ := hsome h hh
      rw [hvh]
      rfl
  rw [hdefined]

theorem State.RoundsFrom.overrunsCounted : v.overrunsCounted = s.overrunsCounted := by
  unfold State.overrunsCounted
  rw [hv.link, hv.overruns]

/-- The head frame that begins carries what the head holds before the compositions (R166). -/
theorem State.RoundsFrom.frameTo {i : HeadIx} {h : Head} (hh : s.head i = some h) : ∃ h', v.head i = some h' ∧
    (v.link.heads.get i).frameTo (v.heads.get i).blank i h' =
      (s.link.heads.get i).frameTo (s.heads.get i).blank i h := by
  obtain ⟨h', hvh, hblank, hw, hht, hb⟩ := (hv.heads i).2 h hh
  refine ⟨h', hvh, ?_⟩
  unfold LinkHead.frameTo
  rw [hv.link, hblank, hw, hht, hb]

variable {p' : HeadIx} {due : List HeadIx} {k : Link} (hp : p' = s.link.nextPointer) (hdue : due = s.dueFrom p')
  (hk : k = { s.link with period := s.mgmt.settings.framePeriod, pointer := p' })
include hp hdue hk

/-- The round that a frame event begins, from the state before the compositions (R172, R173). -/
theorem State.RoundsFrom.beginRound :
    (∀ x, s.link.sending = some x → v.beginRound.link = { k with round := if due = [] then none else some due } ∧
      v.beginRound.counter .frameRepeats = s.counter .frameRepeats) ∧
    (s.link.sending = none → due = [] → v.beginRound.link = { k with round := none, plo := [] } ∧
      v.beginRound.counter .frameRepeats = s.counter .frameRepeats) ∧
    ∀ i rest h, s.link.sending = none → due = i :: rest → s.head i = some h →
      v.beginRound.link = k.begun ((s.link.heads.get i).frameTo (s.heads.get i).blank i h) rest ∧
      v.beginRound.counter .frameRepeats =
        if (v.buffers.get i).frontState = .sent then min (s.counter .frameRepeats + 1) 65535
        else s.counter .frameRepeats := by
  have hpointer : p' = v.link.nextPointer := by
    rw [hp, hv.link]
    rfl
  have hsending : v.link.sending = s.link.sending := by rw [hv.link]
  have hlink : k = { v.link with pointer := p' } := by rw [hk, hv.link]
  have hrepeats : v.countOverruns.counter .frameRepeats = s.counter .frameRepeats :=
    (countOverruns_counters v).2.trans hv.repeats
  obtain ⟨hbusy, hidle, hbegun⟩ := beginRound_spec v p' due k v.countOverruns hpointer (hdue.trans (hv.due p').symm)
    hlink rfl
  refine ⟨fun x hx => ?_, fun hx h0 => ?_, fun i rest h hx hcons hh => ?_⟩
  · rw [hbusy x (hsending.trans hx)]
    exact ⟨rfl, hrepeats⟩
  · rw [hidle (hsending.trans hx) h0]
    exact ⟨rfl, hrepeats⟩
  · obtain ⟨h', hvh, hframe⟩ := hv.frameTo hh
    rw [hbegun i rest h' (hsending.trans hx) hcons hvh, hframe]
    refine ⟨rfl, (countRepeat_counter v v.countOverruns i).trans ?_⟩
    rw [hrepeats]

end Round

/-! ### Rows and overlay contexts (R125, R140, R155) -/

/-- The rows of a snapshot, by slot and rank (R125, R140). -/
theorem rowsOf_slot (t : List Entry) (k q : Nat) : (rowsOf t k q).length = k ∧ ∀ slot rank, 1 ≤ slot → slot ≤ k →
    rank = (if slot = 1 then 1 else 1 + q * (k - 1) + (slot - 1)) →
    (rowsOf t k q)[slot - 1]? = some ((t[rank - 1]?).map RowCopy.ofEntry) := by
  refine ⟨by simp [rowsOf], fun slot rank hlo hhi hrank => ?_⟩
  have hslot : slot - 1 + 1 = slot := by omega
  have hr : slotRank k q slot = rank := by
    rw [hrank]
    unfold slotRank
    by_cases h1 : slot = 1
    · rw [if_pos h1, if_pos (by omega)]
    · rw [if_neg h1, if_neg (by omega)]
  unfold rowsOf
  rw [List.getElem?_map, List.getElem?_range (by omega), Option.map_some, hslot, hr]

section Overlay

variable {f : Fonts} {h : Head} {number : Nat} {t : Text} {loop : Nat}

theorem overlayContext_empty (ht : t.glyphs = []) : overlayContext f h number t = none := if_pos ht

variable (ht : t.glyphs ≠ [])
  (hloop : loop = (t.glyphs.map (f.advance h.overlayFont)).sum + (t.glyphs.length - 1) * (f.get h.overlayFont).nominalGap +
    h.width)
include ht hloop

/-- The context of an overlay continues under its number (R155). -/
theorem overlayContext_continued {k : Ticker} (hk : h.overlayTicker = some k) (hb : k.bound = some number) :
    overlayContext f h number t = some { k with pending := decide (¬ (t.glyphs = k.text ∧ loop = k.loop)) } := by
  have hpending : decide (¬ (t.glyphs = k.text ∧ loop = k.loop)) = !(decide (t.glyphs = k.text) && decide (loop = k.loop)) := by
    rw [decide_not, Bool.decide_and]
  rw [hpending, hloop]
  unfold overlayContext
  rw [if_neg ht, hk]
  exact if_pos hb

/-- An overlay without a context under its number begins one (R155). -/
theorem overlayContext_begun (hk : ∀ k ∈ h.overlayTicker, k.bound ≠ some number) :
    overlayContext f h number t = some ⟨some number, t.glyphs, t.marks, loop, 0, false⟩ := by
  rw [hloop]
  unfold overlayContext
  rw [if_neg ht]
  cases hticker : h.overlayTicker with
  | none => rfl
  | some k => exact if_neg (hk k hticker)

end Overlay

/-! ### Each head at a frame event -/

section EventHead

variable {s : State} (hz : s.mgmt.frozen = false) {i : HeadIx} {h h1 : Head} {dark : Pixels} (hh : s.head i = some h)
  (h1eq : h1 = h.advanceTickers s.mgmt.settings.dwell s.entryCount)
  (hd : dark = (s.buffers.get i).back &&& ~~~ rectMask 0 h.width 0 h.height)
include hz hh h1eq

theorem frameEvent_busy {c : Composition} (hc : s.comps.get i = some c) :
    s.frameEvent.heads.get i = { s.heads.get i with head := some h1 } ∧ s.frameEvent.comps.get i = some c ∧
      s.frameEvent.buffers.get i = s.buffers.get i := by
  obtain ⟨u, hu, eheads, ecomps, ebuffers, _⟩ := frameEvent_composed s
  rw [eheads, ecomps, ebuffers]
  have hframe := hu.frame
  have hbusy := @frameCompose_busy u
  rw [hframe] at hbusy ⊢
  exact hbusy hz hh h1eq hc

include hd

/-- A head that shows its pages at a frame event (R125, R140, R141; log 22). -/
theorem frameEvent_pages {p p1 : PageState} (hc : s.comps.get i = none) (hm : h.mode = .pages p)
    (hm1 : h1.mode = .pages p1) : ∃ p' : PageState,
    p' = (if p1.page < h.pageCount s.entryCount then p1 else { p1 with page := 0 }) ∧
    (p.phase = .dwell → p1 = p) ∧
    s.frameEvent.heads.get i = { s.heads.get i with head := some { h with mode := .pages p', tickers := h1.tickers } } ∧
    (h.fields ≠ [] →
      s.frameEvent.buffers.get i = { s.buffers.get i with back := dark, backState := .composing } ∧
      s.frameEvent.comps.get i =
        some ⟨s.snapshot (.slots h.topSlot (rowsOf s.board.table h.topSlot p'.page)), none⟩) ∧
    (h.fields = [] → s.CompletesAt s.frameEvent i dark) := by
  obtain ⟨ts, p2, hadvanced, hdwell⟩ := (advanceTickers_frame h s.mgmt.settings.dwell s.entryCount).1 p hm
  rw [hadvanced] at h1eq
  subst h1eq
  obtain rfl : p2 = p1 := HeadMode.pages.inj hm1
  obtain ⟨u, hu, eheads, ecomps, ebuffers, _, hsending⟩ := frameEvent_composed s
  obtain ⟨fheads, fcomps, fbuffers⟩ : u.frameCompose.heads.get i = { s.heads.get i with head := some { h with
        mode := .pages (if p2.page < h.pageCount s.entryCount then p2 else { p2 with page := 0 }), tickers := ts } } ∧
      u.frameCompose.comps.get i = (if h.fields = [] then none else some ⟨s.snapshot (.slots h.topSlot (rowsOf
        s.board.table h.topSlot
        (if p2.page < h.pageCount s.entryCount then p2 else { p2 with page := 0 } : PageState).page)), none⟩) ∧
      u.frameCompose.buffers.get i = (if h.fields = [] then (s.buffers.get i).completed dark (u.maySwap i)
        else { s.buffers.get i with back := dark, backState := .composing }) := by
    have hpages := @frameCompose_pages u
    rw [hu.frame] at hpages ⊢
    exact hpages hz hh hadvanced.symm hc rfl rfl hd
  rw [← eheads] at fheads
  rw [← ecomps] at fcomps
  rw [← ebuffers] at fbuffers
  refine ⟨_, rfl, hdwell, fheads, fun hf => ⟨?_, ?_⟩, fun hf => ?_⟩
  · rw [fbuffers, if_neg hf]
  · rw [fcomps, if_neg hf]
  · rw [if_pos hf] at fcomps fbuffers
    exact hu.completesAt hsending fcomps fbuffers

/-- A head under an overlay at a frame event: it is painted and completes at once (R155; log 22). -/
theorem frameEvent_overlay {slot : HeadIx} {shadow : Shadow} (hc : s.comps.get i = none)
    (hm : h.mode = .overlay slot shadow) {text : Text}
    (htext : text = buildText s.names.table s.mgmt.settings.strictNames .full 640 (freePiece (match s.notices.get slot with
      | some n => n.text
      | none => []))) : ∃ (k : Option Ticker) (px : Pixels),
    s.frameEvent.heads.get i = { s.heads.get i with head := some { h with overlayTicker := k } } ∧
    s.CompletesAt s.frameEvent i px ∧
    ((s.fonts.get h.overlayFont).defined = false → k = none ∧ px = dark) ∧
    ((s.fonts.get h.overlayFont).defined = true →
      k = overlayContext s.fonts h1 (s.heads.get i).overlayNumber text ∧
      px = (Clip.ofRect 0 h.overlayRow h.width (s.fonts.get h.overlayFont).height h.width h.height).draw s.fonts
        h.overlayFont h.width dark (match k with
          | some k => k.choice.drawing
          | none => Drawing.nothing)) := by
  have hadvanced := (advanceTickers_frame h s.mgmt.settings.dwell s.entryCount).2 slot shadow hm
  rw [hadvanced] at h1eq
  subst h1eq
  obtain ⟨u, hu, eheads, ecomps, ebuffers, _, hsending⟩ := frameEvent_composed s
  have hoverlay := @frameCompose_overlay u
  rw [hu.frame] at hoverlay
  obtain ⟨k, px, fheads, fcomps, fbuffers, hundefined, hdefined⟩ := hoverlay hz hh hadvanced.symm hc hm hd
  rw [← hu.frame] at fheads fcomps fbuffers
  have hbanks : u.heads = s.heads ∧ u.buffers = s.buffers := by
    rw [hu.frame]
    exact ⟨rfl, rfl⟩
  rw [← eheads, hbanks.1] at fheads
  rw [← ecomps] at fcomps
  rw [← ebuffers, hbanks.2] at fbuffers
  exact ⟨k, px, fheads, hu.completesAt hsending fcomps fbuffers, hundefined, fun hf => hdefined hf text htext⟩

end EventHead

/-! ### The statement -/

theorem frameEvent_frozen {s : State} (hz : s.mgmt.frozen = true) :
    s.frameEvent = { s with link := s.frameEvent.link, counters := s.frameEvent.counters } := by
  rcases frameEvent_orders s with ⟨count, e, hcount⟩ | ⟨_, _, hplain, _⟩
  · obtain ⟨_, _, hfrozen⟩ := frameCompose_frame (s.timed count)
    have hround := (frameRound_frame (s.timed count)).1
    rw [hfrozen hz, hcount hz] at e
    rw [hcount hz] at hround
    rw [e, hround]
    rfl
  · exact absurd (hplain.symm.trans hz) Bool.false_ne_true

theorem frameEvent_frame (s : State) : s.frameEvent = { s with
    heads := s.frameEvent.heads
    comps := s.frameEvent.comps
    buffers := s.frameEvent.buffers
    counters := s.frameEvent.counters
    link := s.frameEvent.link
    freeCount := s.frameEvent.freeCount } := by
  rcases frameEvent_orders s with ⟨count, e, _⟩ | ⟨count, e, _⟩ <;> rw [e]
  · rw [(frameRound_frame (s.timed count).frameCompose).1, (frameCompose_frame (s.timed count)).1]
    rfl
  · rw [(frameCompose_frame (s.timed count).frameRound).1, (frameRound_frame (s.timed count)).1]
    rfl

theorem frameEvent_undefined {s : State} {i : HeadIx} (hh : s.head i = none) : s.SameAt s.frameEvent i := by
  cases hz : s.mgmt.frozen with
  | true =>
    rw [frameEvent_frozen hz]
    exact ⟨rfl, rfl, rfl⟩
  | false =>
    obtain ⟨u, hu, eheads, ecomps, ebuffers, _⟩ := frameEvent_composed s
    have hsame := @frameCompose_undefined u
    rw [hu.frame] at hsame
    obtain ⟨fheads, fcomps, fbuffers⟩ := hsame hz hh
    rw [← hu.frame] at fheads fcomps fbuffers
    unfold State.SameAt
    rw [eheads, ecomps, ebuffers, fheads, fcomps, fbuffers, hu.frame]
    exact ⟨rfl, rfl, rfl⟩

/-- The counters of a frame event: Compose Lag, and those that it leaves (R99, R111, R162). -/
theorem frameEvent_counters (s : State) : (∀ c, c ∉ [Ctr.composeLag, .frameRepeats, .frameOverruns, .missingGlyphs,
      .missingNames, .missingReferences, .depthFallbacks, .strictFallbacks, .textsCut] →
      s.frameEvent.counter c = s.counter c) ∧
    ∀ n, n = (HeadIx.all.filter (fun i => (s.head i).isSome && (s.comps.get i).isSome)).length →
      s.frameEvent.counter .composeLag = if s.mgmt.frozen = true ∨ n = 0 then s.counter .composeLag
        else min (s.counter .composeLag + n) 65535 := by
  obtain ⟨u, hu, _, _, _, ecounter, _⟩ := frameEvent_composed s
  obtain ⟨_, hkept, hfrozen⟩ := frameCompose_frame u
  have hmgmt : u.mgmt = s.mgmt := by rw [hu.frame]
  refine ⟨fun c hc => ?_, fun n hn => ?_⟩
  · simp only [List.mem_cons, List.not_mem_nil, or_false, not_or] at hc
    obtain ⟨hlag, hrepeats, hoverruns, hrest⟩ := hc
    rw [ecounter c hoverruns hrepeats, hkept c, hu.counter c hoverruns hrepeats]
    simp only [List.mem_cons, List.not_mem_nil, or_false, not_or]
    exact ⟨hlag, hrest⟩
  · have hlag : u.counter .composeLag = s.counter .composeLag := hu.counter _ (by decide) (by decide)
    rw [ecounter _ (by decide) (by decide)]
    cases hz : s.mgmt.frozen with
    | true => rw [hfrozen (by rw [hmgmt]; exact hz), if_pos (Or.inl rfl), hlag]
    | false =>
      have hn' : n = (HeadIx.all.filter (fun i => (u.head i).isSome && (u.comps.get i).isSome)).length := by
        rw [hu.frame]
        exact hn
      rw [frameCompose_lag (by rw [hmgmt]; exact hz) hn', hlag]
      simp only [Bool.false_eq_true, false_or]

theorem roundsRun_iff (s : State) : s.roundsRun = true ↔ s.link.owner = .owning ∧ s.link.giveWaiting = false := by
  unfold State.roundsRun
  rw [Bool.and_eq_true, decide_eq_true_iff, Bool.not_eq_true']

/-- A frame event at which no round may begin (R172). -/
theorem frameEvent_noRound {s : State} (hr : s.roundsRun = false) :
    s.frameEvent.link = { s.link with period := s.mgmt.settings.framePeriod } ∧
    s.frameEvent.counter .frameOverruns = s.counter .frameOverruns ∧
    s.frameEvent.counter .frameRepeats = s.counter .frameRepeats := by
  obtain ⟨v, hv, elink, eoverruns, erepeats⟩ := frameEvent_rounded s
  have hsame : v.frameRound = v := if_neg (by rw [hv.roundsRun, hr]; exact Bool.false_ne_true)
  rw [hsame] at elink eoverruns erepeats
  exact ⟨elink.trans hv.link, eoverruns.trans hv.overruns, erepeats.trans hv.repeats⟩

/-- A frame event at which a round begins (R160, R172, R173). -/
theorem frameEvent_round {s : State} (hr : s.roundsRun = true) {p' : HeadIx} {due : List HeadIx} {k : Link}
    (hp : p' = s.link.nextPointer) (hdue : due = s.dueFrom p')
    (hk : k = { s.link with period := s.mgmt.settings.framePeriod, pointer := p' }) :
    s.frameEvent.counter .frameOverruns = s.overrunsCounted ∧
    (∀ x, s.link.sending = some x → s.frameEvent.link = { k with round := if due = [] then none else some due } ∧
      s.frameEvent.counter .frameRepeats = s.counter .frameRepeats) ∧
    (s.link.sending = none → due = [] → s.frameEvent.link = { k with round := none, plo := [] } ∧
      s.frameEvent.counter .frameRepeats = s.counter .frameRepeats) ∧
    (∀ i rest h, s.link.sending = none → due = i :: rest → s.head i = some h →
      s.frameEvent.link = k.begun ((s.link.heads.get i).frameTo (s.heads.get i).blank i h) rest ∧
      ((s.buffers.get i).frontState = .unsent → s.frameEvent.counter .frameRepeats = s.counter .frameRepeats) ∧
      ((s.buffers.get i).frontState = .sent →
        s.mgmt.frozen = true ∨ (s.comps.get i).isSome = true ∨ (h.fields ≠ [] ∧ h.overlaySlot = none) →
        s.frameEvent.counter .frameRepeats = min (s.counter .frameRepeats + 1) 65535) ∧
      (s.frameEvent.counter .frameRepeats = s.counter .frameRepeats ∨
        s.frameEvent.counter .frameRepeats = min (s.counter .frameRepeats + 1) 65535)) := by
  obtain ⟨v, hv, elink, eoverruns, erepeats⟩ := frameEvent_rounded s
  have hbegin : v.frameRound = v.beginRound := if_pos (by rw [hv.roundsRun, hr])
  rw [hbegin] at elink eoverruns erepeats
  rw [elink, eoverruns, erepeats]
  obtain ⟨hbusy, hidle, hbegun⟩ := hv.beginRound hp hdue hk
  refine ⟨(beginRound_overruns v).trans hv.overrunsCounted, hbusy, hidle, fun i rest h hx hcons hh => ?_⟩
  obtain ⟨hlink, hrepeats⟩ := hbegun i rest h hx hcons hh
  obtain ⟨hunsent, hsent⟩ := hv.fronts i h hh
  refine ⟨hlink, fun hu => ?_, fun hs hstays => ?_, ?_⟩
  · rw [hrepeats, if_neg (by rw [hunsent hu]; decide)]
  · rw [hrepeats, if_pos (hsent hs hstays)]
  · rw [hrepeats]
    exact (ite_eq_or_eq _ _ _).symm

/-- Settles O40: in either order of a frame event the compositions and the round are those of the state before. -/
theorem frameEventsComposeUnlessFrozen : Obligations.FrameEventsComposeUnlessFrozen := by
  refine ⟨?events, fun x0 x1 y0 y1 x y hx hy hx1 => rectMask_pixel hx hy hx1, ticker_advance_cases,
    fun dwell n h h' p speed wraps kept hm hs hh hspeed hwraps hkept =>
      advanceTickers_holds hm hs hh hspeed hwraps hkept,
    fun dwell n h slot shadow hm => (advanceTickers_frame h dwell n).2 slot shadow hm⟩
  case events =>
    intro s t ht
    subst ht
    obtain ⟨hcounters, hlag⟩ := frameEvent_counters s
    refine ⟨frameEvent_frozen, frameEvent_frame s, fun i => frameEvent_undefined, hcounters, hlag,
      fun i h h1 dark hz hh h1eq hd => ⟨fun c hc => frameEvent_busy hz hh h1eq hc, ?pages, ?overlay⟩, roundsRun_iff s,
      frameEvent_noRound, fun p' due k hr hp hdue hk => frameEvent_round hr hp hdue hk⟩
    case pages =>
      intro p p1 hc hm hm1
      obtain ⟨p', hp', hdwell, hheads, hfields, hnone⟩ := frameEvent_pages hz hh h1eq hd hc hm hm1
      refine ⟨p', hp', hdwell, hheads, fun hf => ?_, hnone⟩
      obtain ⟨hbuffers, hcomps⟩ := hfields hf
      obtain ⟨hlen, hrows⟩ := rowsOf_slot s.board.table h.topSlot p'.page
      exact ⟨hbuffers, _, hcomps, hlen, hrows⟩
    case overlay =>
      intro slot shadow number font text loop hc hm hnumber hfont htext hloop
      have htext' : text = buildText s.names.table s.mgmt.settings.strictNames .full 640
          (freePiece (match s.notices.get slot with
            | some n => n.text
            | none => [])) := by
        rw [htext]
        cases s.notices.get slot <;> rfl
      obtain ⟨k, px, hheads, hcompletes, hundefined, hdefined⟩ := frameEvent_overlay hz hh h1eq hd hc hm htext'
      subst hfont
      subst hnumber
      have hh1 := (advanceTickers_frame h s.mgmt.settings.dwell s.entryCount).2 slot shadow hm
      have hloop1 : loop = (text.glyphs.map (s.fonts.advance h1.overlayFont)).sum +
          (text.glyphs.length - 1) * (s.fonts.get h1.overlayFont).nominalGap + h1.width := by
        rw [h1eq, hh1]
        exact hloop
      refine ⟨k, px, hheads, hcompletes, fun hempty => ?_, fun hfont hglyphs => ?_⟩
      · cases hf : (s.fonts.get h.overlayFont).defined with
        | false => exact hundefined hf
        | true =>
          obtain ⟨hk, hpx⟩ := hdefined hf
          rw [overlayContext_empty (hempty.resolve_left (by rw [hf]; decide))] at hk
          subst hk
          exact ⟨rfl, hpx⟩
      · obtain ⟨hk, hpx⟩ := hdefined hfont
        refine ⟨fun k1 hk1 hb => hk.trans (overlayContext_continued hglyphs hloop1 hk1 hb),
          fun hk1 => hk.trans (overlayContext_begun hglyphs hloop1 hk1), fun k1 hk1 => ?_⟩
        rw [hpx, hk1]
        rfl

end Sys2Proof.Machine
end

section
/-! PROOFS. The Station Clock: Time Set, and the advances delivered to the blocks that count (R68 to R75). -/

namespace Sys2Proof.Machine

/-! ### Time Set (R73) -/

theorem State.SameButPort.setClock {t u : State} (h : t.SameButPort u) (c : Clock) :
    (t.setClock c).SameButPort (u.setClock c) :=
  ⟨congrArg (fun x : State => x.setClock c) h.1, h.2⟩

theorem State.SameButPort.bumpBy {t u : State} (h : t.SameButPort u) (c : Ctr) (n : Nat) :
    (t.bumpBy c n).SameButPort (u.bumpBy c n) := by
  obtain ⟨hs, hrx, hbuf, haddr, hzone, hgroup, hc⟩ := h
  refine ⟨congrArg (fun x : State => { x with counters := (t.bumpBy c n).counters }) hs, hrx, hbuf, haddr, hzone, hgroup,
    fun d hd => ?_⟩
  by_cases hdc : d = c
  · subst hdc
    rw [State.counter_bumpBy_self, State.counter_bumpBy_self, hc d hd]
  · rw [State.counter_bumpBy_ne _ _ hdc, State.counter_bumpBy_ne _ _ hdc, hc d hd]

/-- A minute event alone removes the overdue entries and counts them (R41, R73). -/
theorem timeEvent_minute (b : Board) (st : Settings) (now : Nat) : b.timeEvent st false (some now) =
    (b.removeAll (b.table.filter (Entry.overdue st now)), (b.table.filter (Entry.overdue st now)).length) := by
  unfold Board.timeEvent
  simp

theorem timeOf_malformed {p : List Byte} (h : p.length ≠ 3 ∨ 23 < u8 p 0 ∨ 59 < u8 p 1 ∨ 59 < u8 p 2) :
    timeOf p = none := if_neg (by omega)

theorem timeOf_bytes {h m sec : Nat} (hh : h ≤ 23) (hm : m ≤ 59) (hs : sec ≤ 59) :
    timeOf [b8 h, b8 m, b8 sec] = some (h, m, sec) := by
  have byte : ∀ n, n ≤ 59 → (b8 n).toNat = n := fun n hn => Nat.mod_eq_of_lt (by omega)
  have e0 : u8 [b8 h, b8 m, b8 sec] 0 = h := byte h (by omega)
  have e1 : u8 [b8 h, b8 m, b8 sec] 1 = m := byte m hm
  have e2 : u8 [b8 h, b8 m, b8 sec] 2 = sec := byte sec hs
  unfold timeOf
  rw [e0, e1, e2, if_pos ⟨rfl, hh, hm, hs⟩]

theorem timeFrame_malformed (s : State) {p : List Byte} (h : timeOf p = none) : s.timeFrame p = (s, .malformed) := by
  unfold State.timeFrame
  rw [h]

/-- A Time Set to the minute that a valid clock shows changes the clock alone (R73). -/
theorem timeFrame_same {s : State} {p : List Byte} {h m sec : Nat} (hp : timeOf p = some (h, m, sec))
    (hi : s.clock.setIssuesMinute h m = false) :
    s.timeFrame p = (s.setClock (s.clock.setTo h m sec), .done) := by
  unfold State.timeFrame
  rw [hp]
  dsimp only
  rw [if_neg (by rw [hi]; exact Bool.false_ne_true)]

/-- A Time Set to a new minute, or of an invalid clock, issues the minute event (R41, R73). -/
theorem timeFrame_minute {s : State} {p : List Byte} {h m sec : Nat} (hp : timeOf p = some (h, m, sec))
    (hi : s.clock.setIssuesMinute h m = true) :
    s.timeFrame p = ((s.setClock (s.clock.setTo h m sec)).departureSecond false (some (h * 60 + m)), .done) := by
  unfold State.timeFrame
  rw [hp]
  dsimp only
  rw [if_pos hi]
  rfl

theorem setIssuesMinute_iff (c : Clock) (h m : Nat) :
    c.setIssuesMinute h m = true ↔ c.valid = false ∨ c.hours ≠ h ∨ c.minutes ≠ m := by
  simp [Clock.setIssuesMinute, or_assoc]

theorem setIssuesMinute_false {c : Clock} (hv : c.valid = true) : c.setIssuesMinute c.hours c.minutes = false := by
  simp [Clock.setIssuesMinute, hv]

/-- A Time Set completes with what it leaves of the clock, the board and the counters (R12, R73). -/
theorem timeSet_completes {f : FeedFrame} {s u v : State} {code : OutcomeCode} (h : s.TakesData f)
    (hown : s.arrived.timeFrame f.payload = (v, code)) (hsame : v.SameButPort u) (hfeed : v.feed = s.feed) :
    Completes (.timeSet f) f .timeSet s u code :=
  dataFrame_completes rfl rfl h hown hsame hfeed

/-- Settles O28: the form test, and whether the Time Set issues its minute event. -/
theorem timeSetReplacesClock : Obligations.TimeSetReplacesClock := by
  refine fun f s htakes => ⟨fun hbad => ?malformed, fun h m sec clock gone hp hh hm hs hclock =>
    ⟨fun hv hhours hminutes => ?same, fun hnew hgone => ?minute⟩⟩
  case malformed =>
    exact timeSet_completes htakes (timeFrame_malformed _ (timeOf_malformed hbad)) (arrived_sameButPort s) rfl
  case same =>
    subst hhours hminutes hclock
    have hform := hp ▸ timeOf_bytes hh hm hs
    exact timeSet_completes htakes (timeFrame_same hform (setIssuesMinute_false hv))
      ((arrived_sameButPort s).setClock _) rfl
  case minute =>
    subst hclock hgone
    have hform := hp ▸ timeOf_bytes hh hm hs
    have hown := timeFrame_minute (s := s.arrived) hform ((setIssuesMinute_iff _ h m).2 hnew)
    unfold State.departureSecond at hown
    rw [timeEvent_minute] at hown
    exact timeSet_completes htakes hown ((((arrived_sameButPort s).setClock _).setBoard _).bumpBy _ _) rfl

/-! ### What an advance leaves (R68, R75) -/

/-- The second state differs from the first at most in what the five blocks that count hold, and in the free choices
taken. -/
def State.CountsOnly (s t : State) : Prop :=
  t = { s with
    board := t.board
    heads := t.heads
    notices := t.notices
    comps := t.comps
    buffers := t.buffers
    counters := t.counters
    freeCount := t.freeCount
    link := { s.link with heads := t.link.heads }
    mgmt := { s.mgmt with
      pendingEvents := t.mgmt.pendingEvents
      frozen := t.mgmt.frozen
      freezeRemaining := t.mgmt.freezeRemaining } }

theorem State.CountsOnly.trans {a b c : State} (h : a.CountsOnly b) (g : b.CountsOnly c) : a.CountsOnly c := by
  unfold State.CountsOnly at *
  rw [g, h]

theorem State.HeadsOnly.countsOnly {s t : State} (h : s.HeadsOnly t) : s.CountsOnly t := by
  unfold State.HeadsOnly at h
  rw [h]
  rfl

/-- An operation for each head counts only when it does at each. -/
theorem forHeads_countsOnly {f : HeadIx → State → State} (hf : ∀ i t, State.CountsOnly t (f i t)) (s : State) :
    s.CountsOnly (s.forHeads f) :=
  forHeads_keeps (P := fun t => s.CountsOnly t) (fun i t h => h.trans (hf i t)) rfl

theorem countDwellOf_countsOnly (i : HeadIx) (s : State) : s.CountsOnly (s.countDwellOf i) := by
  unfold State.countDwellOf State.onHead
  split <;> rfl

theorem countHoldOf_countsOnly (i : HeadIx) (s : State) : s.CountsOnly (s.countHoldOf i) := by
  unfold State.countHoldOf
  split
  · dsimp only
    split <;> rfl
  · rfl

theorem pageSecond_countsOnly (s : State) : s.CountsOnly s.pageSecond := by
  refine forHeads_countsOnly (fun i t => ?_) s
  split
  · exact countDwellOf_countsOnly i t
  · split
    · exact countHoldOf_countsOnly i t
    · rfl

theorem emptyNotice_countsOnly (s : State) (slot : HeadIx) : s.CountsOnly (s.emptyNotice slot) :=
  State.CountsOnly.trans (b := { s with notices := s.notices.set slot none }) rfl
    (forHeads_countsOnly (fun i t => (releaseHead_at t slot i).1.countsOnly) _)

theorem countNotice_countsOnly (slot : HeadIx) (s : State) : s.CountsOnly (s.countNotice slot) := by
  unfold State.countNotice
  split
  · split
    · split
      · exact emptyNotice_countsOnly s slot
      · rfl
    · rfl
  · rfl

theorem layoutSecond_countsOnly (s : State) : s.CountsOnly s.layoutSecond := by
  unfold State.layoutSecond
  split
  · rfl
  · exact (pageSecond_countsOnly s).trans (forHeads_countsOnly countNotice_countsOnly _)

theorem freezeSecond_countsOnly (s : State) : s.CountsOnly s.freezeSecond := by
  unfold State.freezeSecond
  split
  · split <;> rfl
  · rfl

theorem share_countsOnly (expiry : Option Nat) (s : State) (x : Share) : s.CountsOnly (Share.act expiry s x) := by
  cases x with
  | departures => rfl
  | builds => rfl
  | layout => exact layoutSecond_countsOnly s
  | link => rfl
  | freeze => exact freezeSecond_countsOnly s

theorem shares_countsOnly (expiry : Option Nat) (l : List Share) : ∀ s : State,
    s.CountsOnly (l.foldl (Share.act expiry) s) := by
  induction l with
  | nil => exact fun _ => rfl
  | cons x l ih => exact fun s => (share_countsOnly expiry s x).trans (ih _)

theorem secondEvent_countsOnly (s : State) (expiry : Option Nat) : s.CountsOnly (s.secondEvent expiry) := by
  unfold State.secondEvent
  split
  · exact State.CountsOnly.trans (b := s.takeFreeChoice.2) rfl (shares_countsOnly _ _ _)
  · exact shares_countsOnly _ _ _

/-! ### The advance itself (R68), and the order of the five shares (R75; log 7) -/

/-- A time of day goes on by one second, and the source state stays (R68). -/
theorem advance_addsSecond {c : Clock} (hh : c.hours ≤ 23) (hm : c.minutes ≤ 59) (hs : c.seconds ≤ 59) :
    c.advance.hours * 3600 + c.advance.minutes * 60 + c.advance.seconds =
      (c.hours * 3600 + c.minutes * 60 + c.seconds + 1) % 86400 ∧ c.advance.valid = c.valid ∧ c.advance.lost = c.lost := by
  unfold Clock.advance
  split
  · exact ⟨by dsimp only; omega, rfl, rfl⟩
  · split
    · exact ⟨by dsimp only; omega, rfl, rfl⟩
    · split
      · exact ⟨by dsimp only; omega, rfl, rfl⟩
      · exact ⟨by dsimp only; omega, rfl, rfl⟩

/-- Whatever the number, the order it selects takes each share once. -/
theorem orderOf_perm (fuel : Nat) : ∀ (l : List Share) (c : Nat), l.length = fuel → (orderOf fuel l c).Perm l := by
  induction fuel with
  | zero => exact fun l c h => List.length_eq_zero_iff.1 h ▸ List.Perm.refl _
  | succ fuel ih =>
    intro l c h
    have hlt : c % l.length < l.length := Nat.mod_lt _ (by omega)
    unfold orderOf
    rw [List.getElem?_eq_getElem hlt]
    have hrest := ih (l.eraseIdx (c % l.length)) (c / l.length) (by rw [List.length_eraseIdx_of_lt hlt]; omega)
    exact (hrest.cons _).trans (List.getElem_cons_eraseIdx_perm hlt)

theorem secondEvent_plain {s : State} {expiry : Option Nat} (h : s.secondRace expiry = false) :
    s.secondEvent expiry = (s.departureSecond true expiry).buildSecond.layoutSecond.linkSecond.freezeSecond :=
  if_neg (by rw [h]; exact Bool.false_ne_true)

theorem secondEvent_race {s : State} {expiry : Option Nat} (h : s.secondRace expiry = true) :
    ∃ order : List Share, order.Perm allShares ∧
      s.secondEvent expiry = order.foldl (Share.act expiry) { s with freeCount := s.freeCount + 1 } :=
  ⟨orderOf 5 allShares s.takeFreeChoice.1, orderOf_perm 5 allShares _ rfl, if_pos h⟩

/-- An advance is the second event of the advanced clock, with its minute event while the clock is valid (R68, R75). -/
theorem advanceClock_eq (s : State) : s.advanceClock = (s.setClock s.clock.advance).secondEvent
    (if 59 ≤ s.clock.seconds ∧ s.clock.valid = true then
      some (s.clock.advance.hours * 60 + s.clock.advance.minutes) else none) := by
  unfold State.advanceClock Clock.minuteDue
  simp only [Bool.and_eq_true, decide_eq_true_eq]
  rfl

/-! ### The sources (R69 to R72) -/

section Internal

variable {s : State} (h : s.straps.csrc = .internal)
include h

theorem internalTick_internal : s.internalTick = s.advanceClock := if_pos h

theorem secpEdge_internal (us : Nat) : s.secpEdge us = s := by
  unfold State.secpEdge
  rw [h]

theorem watchExpires_internal : s.watchExpires = s := if_neg (by rw [h]; exact fun hc => nomatch hc.1)

theorem scheduledTick_internal : s.scheduledTick = s := if_neg (by rw [h]; exact fun hc => nomatch hc.1)

end Internal

section Pulse

variable {s : State} (h : s.straps.csrc = .pulse)
include h

theorem internalTick_pulse : s.internalTick = s := if_neg (by rw [h]; decide)

/-- An edge is accepted, and advances the clock when its nearest instant is not yet counted (R70, R72). -/
theorem secpEdge_pulse (us : Nat) : s.secpEdge us =
    if s.clock.edgeAdvances us = true then (s.setClock (s.clock.acceptEdge us)).advanceClock
    else s.setClock (s.clock.acceptEdge us) := by
  unfold State.secpEdge
  rw [h]

theorem watchExpires_synced (hl : s.clock.lost = false) :
    s.watchExpires = (s.setClock { s.clock with lost := true, counted := 2 }).advanceClock.advanceClock :=
  if_pos ⟨h, hl⟩

theorem scheduledTick_lost (hl : s.clock.lost = true) :
    s.scheduledTick = (s.setClock { s.clock with counted := s.clock.counted + 1 }).advanceClock := if_pos ⟨h, hl⟩

end Pulse

theorem edgeAdvances_iff (c : Clock) (us : Nat) : c.edgeAdvances us = true ↔
    c.lost = false ∨ c.counted < (us - c.lastEdge + 500000) / 1000000 := by
  unfold Clock.edgeAdvances Clock.nearestInstant
  rw [Bool.or_eq_true, Bool.not_eq_true', decide_eq_true_iff]

theorem leaves_of_live {c : Instr} {s : State} (effect : State → State) (hc : exec c s = live s effect)
    (h : s.inReset = false) {u : State} (hu : effect s = u) : Leaves c s u :=
  hc.trans ((live_running effect h).trans (by rw [hu]))

/-- Settles O29: the advance, its delivery to the five blocks, and the two kinds of source. -/
theorem clockFollowsItsSource : Obligations.ClockFollowsItsSource := by
  refine ⟨fun c hh hm hs => advance_addsSecond hh hm hs, fun s t ht => ?frame, fun s u expiry hu hexpiry => ?delivery,
    fun s hrun hint => ?internal, fun s us accepted hrun hpulse haccepted => ?pulse⟩
  case frame =>
    have h : (s.setClock s.clock.advance).CountsOnly t := ht ▸ secondEvent_countsOnly _ _
    unfold State.CountsOnly at h
    rw [h]
    exact ⟨rfl, rfl, rfl, rfl, rfl, rfl, rfl, rfl, rfl, rfl⟩
  case delivery =>
    subst hu hexpiry
    rw [advanceClock_eq]
    exact ⟨secondEvent_plain, secondEvent_race⟩
  case internal =>
    exact ⟨leaves_of_live _ rfl hrun (internalTick_internal hint),
      fun us => leaves_of_live (fun s => s.secpEdge us) rfl hrun (secpEdge_internal hint us),
      leaves_of_live _ rfl hrun (watchExpires_internal hint), leaves_of_live _ rfl hrun (scheduledTick_internal hint)⟩
  case pulse =>
    subst haccepted
    have hedge := secpEdge_pulse hpulse us
    have advances (h : s.clock.edgeAdvances us = true) : Leaves (.secpRisingEdge us) s _ :=
      leaves_of_live (fun s => s.secpEdge us) rfl hrun (hedge.trans (if_pos h))
    refine ⟨leaves_of_live _ rfl hrun (internalTick_pulse hpulse),
      fun hl => advances ((edgeAdvances_iff _ _).2 (.inl hl)), fun _ hlt => advances ((edgeAdvances_iff _ _).2 (.inr hlt)),
      fun hl hle => leaves_of_live (fun s => s.secpEdge us) rfl hrun (hedge.trans (if_neg ?_)),
      fun hl => leaves_of_live _ rfl hrun (watchExpires_synced hpulse hl),
      fun hl => leaves_of_live _ rfl hrun (scheduledTick_lost hpulse hl)⟩
    rw [edgeAdvances_iff, hl]
    exact not_or.2 ⟨nofun, Nat.not_lt.2 hle⟩

end Sys2Proof.Machine
end

section
/-! PROOFS. Field texts: numbers in decimal, the building of a text, and the pieces of each kind of field (R76 to R79,
R143 to R146). -/

namespace Sys2Proof.Machine

/-! ### Numbers in decimal (R76, R143) -/

theorem twoDigits_eq {n : Nat} (h : n < 100) : twoDigits n = [0x30 + n / 10, 0x30 + n % 10] := by
  unfold twoDigits digitGlyph
  rw [Nat.mod_eq_of_lt (show n / 10 < 10 by omega)]

theorem hhmm_eq {n : Nat} (h : n < 1440) :
    hhmm n = [0x30 + n / 600, 0x30 + n / 60 % 10, 0x3A, 0x30 + n % 60 / 10, 0x30 + n % 60 % 10] := by
  unfold hhmm
  rw [twoDigits_eq (by omega), twoDigits_eq (by omega), Nat.div_div_eq_div_mul]
  rfl

theorem hhmmss_eq {h m s : Nat} (hh : h < 24) (hm : m < 60) (hs : s < 60) : hhmmss h m s = [0x30 + h / 10, 0x30 + h % 10,
    0x3A, 0x30 + m / 10, 0x30 + m % 10, 0x3A, 0x30 + s / 10, 0x30 + s % 10] := by
  unfold hhmmss
  rw [twoDigits_eq (by omega), twoDigits_eq (by omega), twoDigits_eq (by omega)]
  rfl

/-- Numbers of one or two digits are written in decimal without leading zero (R143). -/
theorem decimalDigits_eq {n : Nat} (h : n < 100) : decimalDigits n = (Nat.toDigits 10 n).map Char.toNat := by
  unfold decimalDigits digitGlyph
  by_cases hunits : n < 10
  · rw [if_pos hunits]
    simp [Nat.toDigits_of_lt_base hunits, Nat.toNat_digitChar_of_lt_ten hunits]
  · have htop : n / 10 < 10 := by omega
    rw [if_neg hunits, if_pos h, Nat.toDigits_of_base_le (by decide) (by omega), Nat.toDigits_of_lt_base htop]
    simp [Nat.toNat_digitChar_of_lt_ten htop, Nat.toNat_digitChar_of_lt_ten (Nat.mod_lt n (show 0 < 10 by decide))]

theorem platformGlyphs_eq {p : Platform} (h : p.number < 100) :
    platformGlyphs p = (Nat.toDigits 10 p.number).map Char.toNat ++ match p.suffix with
      | .none => []
      | .a => [0x41]
      | .b => [0x42]
      | .c => [0x43]
      | .d => [0x44] := by
  unfold platformGlyphs
  refine congrArg₂ (· ++ ·) (decimalDigits_eq h) ?_
  cases p.suffix <;> rfl

/-! ### Building a text (R143) -/

theorem addGlyphs_cut (gs : List Nat) {t : Text} (h : t.marks.cut = true) : gs.foldl Text.addGlyph t = t := by
  induction gs with
  | nil => rfl
  | cons g gs ih =>
    have e : t.addGlyph g = t := if_pos h
    rw [List.foldl_cons, e, ih]

/-- Glyphs are taken while there is room, and the first without room cuts the text (R143). -/
theorem addGlyphs_eq (gs : List Nat) : ∀ {t : Text}, t.marks.cut = false → gs.foldl Text.addGlyph t = { t with
    glyphs := t.glyphs ++ gs.take t.room
    room := t.room - gs.length
    marks := { t.marks with cut := decide (t.room < gs.length) } } := by
  induction gs with
  | nil =>
    rintro ⟨glyphs, room, ⟨cut, missing, deep, replaced⟩, short, tallies⟩ h
    cases h
    simp
  | cons g gs ih =>
    rintro ⟨glyphs, room, ⟨cut, missing, deep, replaced⟩, short, tallies⟩ h
    cases h
    rw [List.foldl_cons]
    cases room with
    | zero => simpa [Text.addGlyph] using addGlyphs_cut gs rfl
    | succ room => simpa [Text.addGlyph, Nat.succ_lt_succ_iff] using ih (t := ⟨glyphs ++ [g], room, _, short, tallies⟩) rfl

theorem addPiece_cut {t : Text} (h : t.marks.cut = true) (names : List NameEntry) (strict : Bool) (mode : Selector)
    (p : Piece) : t.addPiece names strict mode p = t := if_pos h

section Uncut

variable {t : Text} (h : t.marks.cut = false) (names : List NameEntry) (strict : Bool) (mode : Selector)
include h

theorem addPiece_glyphs (gs : List Nat) : t.addPiece names strict mode (.glyphs gs) = gs.foldl Text.addGlyph t :=
  if_neg (by rw [h]; exact Bool.false_ne_true)

theorem addPiece_name (c : Nat) :
    t.addPiece names strict mode (.name c) = t.addExpansion (expandName names strict mode t.room c) :=
  if_neg (by rw [h]; exact Bool.false_ne_true)

theorem addPiece_free (items : List Item) :
    t.addPiece names strict mode (.free items) = t.addExpansion (expandFree names strict t.room items) :=
  if_neg (by rw [h]; exact Bool.false_ne_true)

/-- An expansion's own cut is the text's (R143). -/
theorem addExpansion_uncut (x : Expansion) : t.addExpansion x = ⟨t.glyphs ++ x.glyphs, t.room - x.glyphs.length,
    ⟨x.cut, t.marks.missing || x.missing, t.marks.deep || x.deep, t.marks.replaced || x.replaced⟩,
    t.short || x.shortAvailable, t.tallies ++ x.counts⟩ := by
  unfold Text.addExpansion
  rw [h, Bool.false_or]

end Uncut

/-- A field's text is built of its pieces, within 640 glyphs when it may scroll and 96 when not (R143, R147). -/
theorem fieldText_eq (s : State) (mode : Selector) (i : HeadIx) (snap : Snapshot) (r : FieldRecord) :
    s.fieldText mode i snap r = (fieldPieces s.notices i snap r).foldl
      (Text.addPiece s.names.table s.mgmt.settings.strictNames mode)
      ⟨[], if r.kind = .calling ∨ r.fit = .scroll then 640 else 96, ⟨false, false, false, false⟩, false, []⟩ := by
  unfold State.fieldText buildText Text.start FieldRecord.limit FieldRecord.scrolls
  simp only [Bool.or_eq_true, decide_eq_true_eq]

/-! ### The row in a field's slot (R125, R152) -/

section Row

variable {snap : Snapshot} {k : Nat} {rows : List (Option RowCopy)} (hs : snap.rows = .slots k rows) {slot : Nat}
include hs

theorem row_slots : snap.row slot = (rows[slot - 1]?).join := by
  unfold Snapshot.row
  rw [hs]

theorem row_some {c : RowCopy} (h : rows[slot - 1]? = some (some c)) : snap.row slot = some c := by
  rw [row_slots hs, h]
  rfl

theorem row_none (h : ∀ c, rows[slot - 1]? ≠ some (some c)) : snap.row slot = none := by
  rw [row_slots hs]
  cases hx : rows[slot - 1]? with
  | none => rfl
  | some x =>
    cases x with
    | none => rfl
    | some c => exact absurd hx (h c)

end Row

theorem boundService_row {snap : Snapshot} {r : FieldRecord} (hk : r.kind.isEntry = true) :
    boundService snap r = (snap.row r.slot).map (fun c => c.entry.id) := if_pos hk

theorem boundService_other {snap : Snapshot} {r : FieldRecord} (hk : r.kind.isEntry = false) :
    boundService snap r = none := if_neg (by rw [hk]; exact Bool.false_ne_true)

/-- The service of a field without a row in its slot is none (R152). -/
theorem boundService_noRow {snap : Snapshot} {r : FieldRecord} (h : snap.row r.slot = none) :
    boundService snap r = none := by
  cases hk : r.kind.isEntry with
  | false => exact boundService_other hk
  | true => rw [boundService_row hk, h, Option.map_none]

/-! ### Pieces (R78, R144 to R146) -/

/-- A field of an entry kind shows the row in its slot (R144). -/
theorem fieldPieces_row {notices : Bank8 (Option Notice)} {i : HeadIx} {snap : Snapshot} {r : FieldRecord} {c : RowCopy}
    {kind : FieldKind} (hrow : snap.row r.slot = some c) (hk : r.kind = kind) (he : kind.isEntry = true) :
    fieldPieces notices i snap r = entryPieces snap c kind := by
  unfold fieldPieces
  rw [hrow, hk]
  cases kind
  case clock | notice | static => cases he
  all_goals rfl

theorem fieldPieces_noRow {notices : Bank8 (Option Notice)} {i : HeadIx} {snap : Snapshot} {r : FieldRecord}
    (hrow : snap.row r.slot = none) (he : r.kind.isEntry = true) : fieldPieces notices i snap r = [] := by
  unfold fieldPieces
  rw [hrow]
  cases hk : r.kind
  case clock | notice | static =>
    rw [hk] at he
    cases he
  all_goals rfl

/-- STATUS of an entry not moved (R144). -/
theorem statusPieces_unmoved {e : Entry} (h : e.moved = false) : statusPieces e = match e.status with
    | .scheduled => [.name 4080]
    | .expected => [.name 4084, space, .glyphs ((e.expected.map hhmm).getD [])]
    | .delayed => [.name 4081]
    | .cancelled => [.name 4082]
    | .departed => [.name 4083] := by
  unfold statusPieces
  rw [h]
  cases e.status <;> rfl

/-- DUE by the signed difference of the effective time from the snapshot's clock (R77, R78). -/
theorem duePieces_cases (snap : Snapshot) (time : Nat) {d : Int} (hd : d = signedDiff snap.now time) :
    (snap.valid = false → duePieces snap time = [.glyphs [0x2D, 0x2D, 0x3A, 0x2D, 0x2D]]) ∧
    (snap.valid = true → d ≤ 0 → duePieces snap time = [.name 4091]) ∧
    (snap.valid = true → d = 1 → duePieces snap time = [.glyphs [0x31], .glyphs [0x20], .name 4089]) ∧
    (snap.valid = true → 2 ≤ d → d ≤ 99 →
      duePieces snap time = [.glyphs (decimalDigits d.toNat), .glyphs [0x20], .name 4090]) ∧
    (snap.valid = true → 100 ≤ d → duePieces snap time = [.glyphs (hhmm time)]) := by
  unfold duePieces
  dsimp only
  rw [← hd]
  refine ⟨fun hv => if_neg (by rw [hv]; exact Bool.false_ne_true), fun hv h => ?_, fun hv h => ?_, fun hv hlo hhi => ?_,
    fun hv h => ?_⟩ <;> rw [if_pos hv]
  · exact if_pos h
  · rw [if_neg (by omega), if_pos h]
    rfl
  · rw [if_neg (by omega), if_neg (by omega), if_pos hhi]
    rfl
  · rw [if_neg (by omega), if_neg (by omega), if_neg (by omega)]

/-- The stops of a row that a CALLING field names (R145). -/
def RowCopy.namedStops (c : RowCopy) : List Stop := (c.stops.getD []).filter (fun x => x.kind != .cancelled)

theorem namedStops_some {c : RowCopy} {l : List Stop} (h : c.stops = some l) :
    c.namedStops = l.filter (fun s => decide (s.kind ≠ .cancelled)) := by
  unfold RowCopy.namedStops
  rw [h]
  exact List.filter_congr fun x _ => by cases x.kind <;> rfl

/-- A CALLING field shows nothing without a complete list, for a cancelled entry, and without a stop to name (R145). -/
theorem callingPieces_empty {c : RowCopy} (h : c.stops = none ∨ c.entry.status = .cancelled ∨ c.namedStops = []) :
    callingPieces c = [] := by
  unfold callingPieces
  cases hs : c.stops with
  | none => rfl
  | some l =>
    dsimp only
    rcases h with h | h | h
    · cases hs.symm.trans h
    · exact if_pos h
    · rw [← namedStops_some hs, h, ite_self]

/-- A CALLING field names the first stop and then the later ones (R145). -/
theorem callingPieces_stops {c : RowCopy} (hc : c.entry.status ≠ .cancelled) {x : Stop} {rest : List Stop}
    (h : c.namedStops = x :: rest) : callingPieces c = [.name 4086, space] ++ stopPieces x ++ laterStops rest ++
      ((if c.entry.truncated then [space, .name 4093] else []) ++ [.name 4095]) := by
  unfold callingPieces
  cases hs : c.stops with
  | none =>
    unfold RowCopy.namedStops at h
    rw [hs] at h
    cases h
  | some l =>
    dsimp only
    rw [if_neg hc, ← namedStops_some hs, h]
    exact List.append_assoc _ _ _

/-- The stops after the first: those between with a comma each, and the last with an "and" (R145). -/
theorem laterStops_append (mid : List Stop) (y : Stop) : laterStops (mid ++ [y]) =
    mid.flatMap (fun z => .name 4094 :: stopPieces z) ++ ([space, .name 4087, space] ++ stopPieces y) := by
  induction mid with
  | nil => rfl
  | cons z mid ih =>
    have hstep : laterStops (z :: (mid ++ [y])) = .name 4094 :: stopPieces z ++ laterStops (mid ++ [y]) := by
      cases mid <;> rfl
    rw [List.cons_append, hstep, ih, List.flatMap_cons, List.append_assoc]

/-- A CALLING field of one stop (R145). -/
theorem callingPieces_one {c : RowCopy} (hc : c.entry.status ≠ .cancelled) {x : Stop} (h : c.namedStops = [x]) :
    callingPieces c = [.name 4086, space] ++ stopPieces x ++
      ((if c.entry.truncated then [space, .name 4093] else []) ++ [.name 4095]) := by
  rw [callingPieces_stops hc h, laterStops, List.append_nil]

/-- A CALLING field of two stops or more (R145). -/
theorem callingPieces_many {c : RowCopy} (hc : c.entry.status ≠ .cancelled) {x y : Stop} {mid : List Stop}
    (h : c.namedStops = x :: mid ++ [y]) : callingPieces c = [.name 4086, space] ++ stopPieces x ++
      mid.flatMap (fun z => .name 4094 :: stopPieces z) ++ [space, .name 4087, space] ++ stopPieces y ++
      ((if c.entry.truncated then [space, .name 4093] else []) ++ [.name 4095]) := by
  rw [callingPieces_stops (rest := mid ++ [y]) hc h, laterStops_append]
  simp only [List.append_assoc]

/-- A stop's name with its mark (R145). -/
theorem stopPieces_eq (x : Stop) : stopPieces x = match x.kind with
    | .request => [.name x.station, .glyphs [0xE4]]
    | .split => [.name x.station, .glyphs [0xE5]]
    | .normal | .cancelled => [.name x.station] := by
  unfold stopPieces
  cases x.kind <;> rfl

/-- CLOCK by its validity and its seconds (R79). -/
theorem fieldPieces_clock {notices : Bank8 (Option Notice)} {i : HeadIx} {snap : Snapshot} {r : FieldRecord}
    (hk : r.kind = .clock) : fieldPieces notices i snap r = [.glyphs (if snap.valid then
        (if r.showSeconds then hhmmss snap.hours snap.minutes snap.seconds else hhmm (snap.hours * 60 + snap.minutes))
      else if r.showSeconds then [0x2D, 0x2D, 0x3A, 0x2D, 0x2D, 0x3A, 0x2D, 0x2D]
      else [0x2D, 0x2D, 0x3A, 0x2D, 0x2D])] := by
  unfold fieldPieces clockGlyphs
  rw [hk]
  cases snap.valid <;> cases r.showSeconds <;> rfl

theorem fieldPieces_notice {notices : Bank8 (Option Notice)} {i : HeadIx} {snap : Snapshot} {r : FieldRecord}
    (hk : r.kind = .notice) {slot : HeadIx} (hslot : slot.val = r.noticeSlot) :
    fieldPieces notices i snap r = freePiece (noticeItems (notices.get slot) i) := by
  have e : Fin.ofNat 8 r.noticeSlot = slot := Fin.ext (by
    show r.noticeSlot % 8 = slot.val
    rw [← hslot]
    exact Nat.mod_eq_of_lt slot.isLt)
  unfold fieldPieces
  rw [hk, ← e]

theorem fieldPieces_static {notices : Bank8 (Option Notice)} {i : HeadIx} {snap : Snapshot} {r : FieldRecord}
    (hk : r.kind = .static) : fieldPieces notices i snap r = freePiece r.text := by
  unfold fieldPieces
  rw [hk]

/-- A NOTICE field shows an INFO notice that names its head (R130, R146). -/
theorem freePiece_notice {n : Notice} (h : n.text ≠ []) (i : HeadIx) : freePiece (noticeItems (some n) i) =
    if n.priority = .info ∧ n.mask.getLsbD i.val = true then [.free n.text] else [] := by
  by_cases hshown : n.priority = .info ∧ n.mask.getLsbD i.val = true
  · have e : noticeItems (some n) i = n.text := if_pos hshown
    rw [e, if_pos hshown]
    exact if_neg h
  · have e : noticeItems (some n) i = [] := if_neg hshown
    rw [e, if_neg hshown]
    rfl

end Sys2Proof.Machine
end

section
/-! PROOFS. The plan of a field's painting: the fit ladder, truncation, and the fate of its ticker context (R147 to R152). -/

namespace Sys2Proof.Machine

theorem scrolls_iff (r : FieldRecord) : r.scrolls = true ↔ r.kind = .calling ∨ r.fit = .scroll := by
  unfold FieldRecord.scrolls
  rw [Bool.or_eq_true, decide_eq_true_iff, decide_eq_true_iff]

/-! ### The ladder (R147) -/

section Ladder

variable {f : Fonts} {r : FieldRecord} {full short : Text}

theorem ladder_empty (h : full.glyphs = []) : ladder f r full short = (some ⟨.nothing, .empty, full.marks⟩, []) := if_pos h

theorem fitShort_empty (h : short.glyphs = []) : fitShort f r short = some ⟨.nothing, .empty, short.marks⟩ := if_pos h

section Short

variable (hne : short.glyphs ≠ [])
include hne

theorem fitShort_fits (hn : widthAt f r.font (f.get r.font).nominalGap short.glyphs ≤ r.width) : fitShort f r short =
    some (drawStep r short (f.get r.font).nominalGap (widthAt f r.font (f.get r.font).nominalGap short.glyphs)
      .fitShort) := by
  unfold fitShort
  dsimp only
  rw [if_neg hne, if_pos hn]

variable (hn : r.width < widthAt f r.font (f.get r.font).nominalGap short.glyphs)
include hn

theorem fitShort_condensed (hm : widthAt f r.font (f.get r.font).minGap short.glyphs ≤ r.width) : fitShort f r short =
    some (drawStep r short (f.get r.font).minGap (widthAt f r.font (f.get r.font).minGap short.glyphs)
      .fitShortCondensed) := by
  unfold fitShort
  dsimp only
  rw [if_neg hne, if_neg (Nat.not_le.2 hn), if_pos hm]

theorem fitShort_none (hm : r.width < widthAt f r.font (f.get r.font).minGap short.glyphs) : fitShort f r short = none := by
  unfold fitShort
  dsimp only
  rw [if_neg hne, if_neg (Nat.not_le.2 hn), if_neg (Nat.not_le.2 hm)]

end Short

variable (hne : full.glyphs ≠ [])
include hne

theorem ladder_fits (hn : widthAt f r.font (f.get r.font).nominalGap full.glyphs ≤ r.width) : ladder f r full short =
    (some (drawStep r full (f.get r.font).nominalGap (widthAt f r.font (f.get r.font).nominalGap full.glyphs)
      .fitFull), []) := by
  unfold ladder
  dsimp only
  rw [if_neg hne, if_pos hn]

variable (hn : r.width < widthAt f r.font (f.get r.font).nominalGap full.glyphs)
include hn

theorem ladder_condensed (hm : widthAt f r.font (f.get r.font).minGap full.glyphs ≤ r.width) : ladder f r full short =
    (some (drawStep r full (f.get r.font).minGap (widthAt f r.font (f.get r.font).minGap full.glyphs)
      .fitCondensed), []) := by
  unfold ladder
  dsimp only
  rw [if_neg hne, if_neg (Nat.not_le.2 hn), if_pos hm]

variable (hm : r.width < widthAt f r.font (f.get r.font).minGap full.glyphs)
include hm

theorem ladder_short : ladder f r full short =
    if full.short = true then (fitShort f r short, short.tallies) else (none, []) := by
  unfold ladder
  dsimp only
  rw [if_neg hne, if_neg (Nat.not_le.2 hn), if_neg (Nat.not_le.2 hm)]

/-- No step fits: there is no short text, or it does not fit either (R147). -/
theorem ladder_none (h : full.short = false ∨ fitShort f r short = none) :
    ladder f r full short = (none, if full.short then short.tallies else []) := by
  rw [ladder_short hne hn hm]
  cases hs : full.short with
  | false => rfl
  | true => rw [h.resolve_left (by rw [hs]; decide)]; rfl

end Ladder

/-! ### Truncation (R148, R149) -/

/-- A truncated width is that of the glyphs kept, a gap unless there are none, and the ellipsis (R148). -/
theorem truncatedWidth_eq (f : Fonts) (font gap e : Nat) {k : Nat} {codes : List Nat} (h : k ≤ codes.length) :
    truncatedWidth f font gap e k codes = widthAt f font gap (codes.take k) + (if k = 0 then 0 else gap) + e := by
  unfold truncatedWidth widthAt
  rw [List.length_take, Nat.min_eq_left h]
  cases k with
  | zero => simp
  | succ k =>
    rw [if_neg (Nat.succ_ne_zero k), Nat.add_sub_cancel, Nat.succ_mul]
    omega

theorem truncateText_clipped {f : Fonts} {r : FieldRecord} (full : Text)
    (h : f.ellipsisLoaded = false ∨ r.width < f.advance r.font 0xE1) :
    truncateText f r full = ⟨.text full.glyphs (f.get r.font).minGap 0, .clipped, full.marks⟩ := if_pos h

/-- The most glyphs that fit with the ellipsis, without their trailing spaces (R148). -/
theorem truncateText_ellipsis {f : Fonts} {r : FieldRecord} {full : Text} (hne : full.glyphs ≠ []) {gm e : Nat}
    (hgm : gm = (f.get r.font).minGap) (he : e = f.advance r.font 0xE1) (hl : f.ellipsisLoaded = true) (hw : e ≤ r.width) :
    ∃ (n : Nat) (kept : List Nat) (spaces : Nat), n < full.glyphs.length ∧
      widthAt f r.font gm (full.glyphs.take n) + (if n = 0 then 0 else gm) + e ≤ r.width ∧
      (∀ m, n < m → m < full.glyphs.length → r.width < widthAt f r.font gm (full.glyphs.take m) + gm + e) ∧
      full.glyphs.take n = kept ++ List.replicate spaces 0x20 ∧ kept.getLast? ≠ some 0x20 ∧
      truncateText f r full = ⟨.text (kept ++ [0xE1]) gm 0, .truncated, full.marks⟩ := by
  subst hgm he
  obtain ⟨hlt, hfits, hgreatest⟩ := foldl_range_greatest
    (fun k => truncatedWidth f r.font (f.get r.font).minGap (f.advance r.font 0xE1) k full.glyphs ≤ r.width)
    (by rw [truncatedWidth_eq f _ _ _ (Nat.zero_le _)]; simpa [widthAt, advances] using hw)
    full.glyphs.length (List.length_pos_of_ne_nil hne)
    (prefixLength f r.font (f.get r.font).minGap (f.advance r.font 0xE1) r.width full.glyphs) rfl
  rw [truncatedWidth_eq f _ _ _ (Nat.le_of_lt hlt)] at hfits
  obtain ⟨kept, spaces, hsplit, hlast, hkept⟩ := dropSpaces_spec (full.glyphs.take
    (prefixLength f r.font (f.get r.font).minGap (f.advance r.font 0xE1) r.width full.glyphs))
  refine ⟨_, kept, spaces, hlt, hfits, fun m hnm hm => ?_, hsplit, hlast, ?_⟩
  · have h := hgreatest m hnm hm
    rw [truncatedWidth_eq f _ _ _ (Nat.le_of_lt hm), if_neg (Nat.ne_of_gt (Nat.zero_lt_of_lt hnm))] at h
    exact Nat.lt_of_not_le h
  · rw [← hkept]
    exact if_neg (by rw [hl]; exact not_or.2 ⟨nofun, Nat.not_lt.2 hw⟩)

/-! ### The plan (R147 to R152) -/

theorem planStatic_fits {f : Fonts} {r : FieldRecord} {full short : Text} {c : Choice} {l : List (Ctr × Nat)}
    (hl : ladder f r full short = (some c, l)) : planStatic f r full short = ⟨c, .keep, full.tallies ++ l⟩ := by
  unfold planStatic
  rw [hl]

section Plan

variable {s : State} {i : HeadIx} {snap : Snapshot} {r : FieldRecord} {held : Option Ticker} {full short : Text}
  (hfull : full = s.fieldText .full i snap r) (hshort : short = s.fieldText .short i snap r)
include hfull hshort

theorem planField_static (hs : r.scrolls = false) : s.planField i snap r held = planStatic s.fonts r full short := by
  unfold State.planField
  rw [hs, hfull, hshort]
  rfl

/-- A field that does not scroll is truncated or clipped when no step fits (R148, R149). -/
theorem planField_truncated (hs : r.scrolls = false) {l : List (Ctr × Nat)}
    (hl : ladder s.fonts r full short = (none, l)) :
    s.planField i snap r held = ⟨truncateText s.fonts r full, .keep, full.tallies ++ l⟩ := by
  rw [planField_static hfull hshort hs]
  unfold planStatic
  rw [hl]

theorem planField_scroll (hs : r.scrolls = true) :
    s.planField i snap r held = planScroll s.fonts r (boundService snap r) held full short := by
  unfold State.planField
  rw [hs, hfull, hshort]
  rfl

/-- An empty text draws nothing, and the context of a field that scrolls is discarded (R147, R152). -/
theorem planField_empty (he : full.glyphs = []) : s.planField i snap r held =
    ⟨⟨.nothing, .empty, full.marks⟩, if r.scrolls then .discard else .keep, full.tallies⟩ := by
  cases hs : r.scrolls with
  | true =>
    rw [planField_scroll hfull hshort hs]
    exact if_pos he
  | false =>
    rw [planField_static hfull hshort hs, planStatic_fits (ladder_empty he), List.append_nil]
    rfl

variable (hne : full.glyphs ≠ [])
include hne

/-- A context bound to the same service goes on (R152, step 4). -/
theorem planField_continued (hs : r.scrolls = true) {k : Ticker} (hk : held = some k) (hb : k.bound = boundService snap r) :
    s.planField i snap r held =
      ⟨(k.remeasured full (widthAt s.fonts r.font (s.fonts.get r.font).nominalGap full.glyphs + r.spacer)).choice,
        .update (k.remeasured full (widthAt s.fonts r.font (s.fonts.get r.font).nominalGap full.glyphs + r.spacer)),
        full.tallies⟩ := by
  rw [planField_scroll hfull hshort hs]
  unfold planScroll
  rw [if_neg hne, hk]
  exact if_pos hb

/-- A context of another service does not stand in the ladder's way (R152, step 5). -/
theorem planField_fresh (hs : r.scrolls = true) (hother : ∀ k ∈ held, k.bound ≠ boundService snap r) :
    s.planField i snap r held = planFresh s.fonts r (boundService snap r) full short held.isSome := by
  rw [planField_scroll hfull hshort hs]
  unfold planScroll
  rw [if_neg hne]
  cases held with
  | none => rfl
  | some k => exact if_neg (hother k rfl)

variable (hother : r.scrolls = true → ∀ k ∈ held, k.bound ≠ boundService snap r)
include hother

/-- The step of the ladder that fits is drawn, and a context that scrolled is discarded (R147, R152). -/
theorem planField_fits {c : Choice} {l : List (Ctr × Nat)} (hl : ladder s.fonts r full short = (some c, l)) :
    s.planField i snap r held =
      ⟨c, if r.scrolls = true ∧ held ≠ none then .discard else .keep, full.tallies ++ l⟩ := by
  cases hs : r.scrolls with
  | true =>
    rw [planField_fresh hfull hshort hne hs (hother hs)]
    unfold planFresh
    rw [hl]
    cases held <;> rfl
  | false =>
    rw [planField_static hfull hshort hs, planStatic_fits hl, if_neg (fun h => Bool.false_ne_true h.1)]

/-- A field that scrolls takes a new context when no step fits (R151, R152). -/
theorem planField_restart {l : List (Ctr × Nat)} (hl : ladder s.fonts r full short = (none, l))
    (hs : r.scrolls = true) {loop : Nat}
    (hloop : loop = widthAt s.fonts r.font (s.fonts.get r.font).nominalGap full.glyphs + r.spacer) :
    s.planField i snap r held = ⟨⟨.ticker full.glyphs loop 0, .scrolling, full.marks⟩,
      .restart ⟨boundService snap r, full.glyphs, full.marks, loop, 0, false⟩, full.tallies ++ l⟩ := by
  rw [planField_fresh hfull hshort hne hs (hother hs), hloop]
  unfold planFresh
  rw [hl]
  dsimp only [Ticker.create, Ticker.choice]

end Plan

end Sys2Proof.Machine
end

section
/-! PROOFS. FIELD_PAINT: the next field of a composition painted, its status, context and pixels, and the end of the
composition (R127, R141, R150 to R157, R159). -/

namespace Sys2Proof.Machine

/-! ### A field's status (R111, R157) -/

/-- A drawing has a stand-in when a glyph that it fetches is answered with one (R111). -/
theorem standIns_pos (f : Fonts) (font : Nat) (d : Drawing) :
    0 < standIns f font d ↔ ∃ g ∈ d.fetched, (f.fetch font g).standIn = true := by
  unfold standIns
  rw [List.length_pos_iff_exists_mem]
  simp only [List.mem_filter]

theorem offHead_iff (h : Head) (r : FieldRecord) (height : Nat) :
    offHead h r height = true ↔ h.width < r.x + r.width ∨ h.height < r.y + height := by
  unfold offHead
  rw [Bool.or_eq_true, decide_eq_true_iff, decide_eq_true_iff]

/-! ### A hold that a field leaves (R127) -/

theorem leave_absent {p : PageState} {i : Nat} (hi : i ∉ p.holdSet) (count dwell : Nat) : p.leave count dwell i = p :=
  if_neg fun h => hi h.2

section Leave

variable {p : PageState} {i : Nat} (hp : p.phase = .hold) (hi : i ∈ p.holdSet) {kept : List Nat}
  (hk : kept = p.holdSet.filter (fun j => j != i)) (count dwell : Nat)
include hp hi hk

theorem leave_keeps (hne : kept ≠ []) : p.leave count dwell i = { p with holdSet := kept } := by
  unfold PageState.leave
  rw [if_pos ⟨hp, hi⟩, ← hk, if_neg hne]

theorem leave_empties (he : kept = []) :
    p.leave count dwell i = ⟨(p.page + 1) % count, .dwell, dwell, p.hold, []⟩ := by
  unfold PageState.leave
  rw [if_pos ⟨hp, hi⟩, ← hk, if_pos he]
  rfl

end Leave

/-! ### One field painted (R147 to R157) -/

/-- What becomes of a field's context: one of an undefined font is discarded (R147, R156). -/
def contextChange (font : FontRecord) (plan : FieldPlan) : TickerChange := if font.defined then plan.ticker else .discard

theorem contextChange_undefined {font : FontRecord} (h : font.defined = false) (plan : FieldPlan) :
    contextChange font plan = .discard := if_neg (by rw [h]; exact Bool.false_ne_true)

theorem contextChange_defined {font : FontRecord} (h : font.defined = true) (plan : FieldPlan) :
    contextChange font plan = plan.ticker := if_pos h

/-- The hold is told of a context discarded or new (R127, R156). -/
theorem contextChange_leaves (font : FontRecord) (plan : FieldPlan) :
    (contextChange font plan = .discard ∨ ∃ k, contextChange font plan = .restart k) ↔
      font.defined = false ∨ plan.ticker = .discard ∨ ∃ k, plan.ticker = .restart k := by
  cases h : font.defined with
  | false => simp [contextChange_undefined h]
  | true => simp [contextChange_defined h]

/-- A state with a head's record, composition and buffers replaced, and the counters. -/
def State.paintedAt (s : State) (i : HeadIx) (h : Head) (c : Option Composition) (b : Buffers)
    (counters : Vector Nat 40) : State :=
  { s with
    heads := s.heads.set i { s.heads.get i with head := some h }
    comps := s.comps.set i c
    buffers := s.buffers.set i b
    counters := counters }

/-- What a painting draws, counts and reports as the field's status, by its plan (R99, R111, R147 to R157). -/
structure PaintedBy (s : State) (h : Head) (r : FieldRecord) (plan : FieldPlan) (back : Pixels) (st : FieldStatus)
    (px : Pixels) (counters : Vector Nat 40) : Prop where
  undefined : (s.fonts.get r.font).defined = false → st = .noFont ∧ px = back ∧ counters = s.counters
  defined : (s.fonts.get r.font).defined = true →
    st = ⟨plan.choice.result, plan.choice.marks, decide (0 < standIns s.fonts r.font plan.choice.drawing),
      offHead h r (s.fonts.get r.font).height⟩ ∧
    px = (Clip.ofRect r.x r.y r.width (s.fonts.get r.font).height h.width h.height).draw s.fonts r.font r.width
      ((Clip.ofRect r.x r.y r.width (s.fonts.get r.font).height h.width h.height).clear back) plan.choice.drawing ∧
    counters = ((s.tally plan.tallies).bumpBy .missingGlyphs (standIns s.fonts r.font plan.choice.drawing)).counters

/-- A field painted changes its head's record, the back's pixels and the counters (R141, R157). -/
theorem paintField_eq (s : State) (i : HeadIx) (h : Head) (snap : Snapshot) (idx : Nat) (r : FieldRecord)
    {plan : FieldPlan} (hplan : plan = s.planField i snap r (keyedGet idx h.tickers)) :
    ∃ st px counters, PaintedBy s h r plan (s.buffers.get i).back st px counters ∧
      s.paintField i h snap idx r = s.paintedAt i ((h.applyTicker s.mgmt.settings.dwell s.entryCount idx
        (contextChange (s.fonts.get r.font) plan)).setStatus idx st) (s.comps.get i)
        { s.buffers.get i with back := px } counters := by
  subst hplan
  unfold State.paintField
  dsimp only
  cases hd : (s.fonts.get r.font).defined with
  | false =>
    refine ⟨.noFont, (s.buffers.get i).back, s.counters, ⟨fun _ => ⟨rfl, rfl, rfl⟩,
      fun h => absurd (hd.symm.trans h) nofun⟩, ?_⟩
    rw [if_pos rfl, contextChange_undefined hd]
    unfold State.paintedAt
    rw [Bank8.set_get, Bank8.set_get s.buffers i]
    rfl
  | true =>
    refine ⟨_, _, _, ⟨fun h => absurd (hd.symm.trans h) nofun, fun _ => ⟨rfl, rfl, rfl⟩⟩, ?_⟩
    rw [if_neg (by decide), contextChange_defined hd]
    rw [tallied _ s]
    · unfold State.paintedAt
      rw [Bank8.set_get]
      rfl
    · rfl

/-! ### FIELD_PAINT (R141; log 13, log 23) -/

theorem paintNext_none {s : State} {i : HeadIx} (h : s.comps.get i = none) : s.paintNext i = s := by
  unfold State.paintNext
  rw [h]

theorem paintNext_field {s : State} {i : HeadIx} {h : Head} {c : Composition} {k : Nat} {rows : List (Option RowCopy)}
    {idx : Nat} {x : FieldSlot} (hc : s.comps.get i = some c) (hh : s.head i = some h)
    (hrows : c.snapshot.rows = .slots k rows) (hnext : keyedAfter c.painted h.fields = some (idx, x)) :
    s.paintNext i = ((s.paintField i h c.snapshot idx x.record).setComp i
      (some { c with painted := some idx })).completeIfLast i idx := by
  unfold State.paintNext
  rw [hc, hh]
  dsimp only
  rw [hrows]
  dsimp only
  rw [hnext]

theorem paintedAt_setComp (s : State) (i : HeadIx) (h : Head) (c c' : Option Composition) (b : Buffers)
    (counters : Vector Nat 40) :
    (s.paintedAt i h c b counters).setComp i c' = s.paintedAt i h c' b counters := by
  unfold State.paintedAt State.setComp
  rw [Bank8.set_set]

theorem paintedAt_completeComp (s : State) (i : HeadIx) (h : Head) (c : Option Composition) (b : Buffers)
    (counters : Vector Nat 40) : (s.paintedAt i h c b counters).completeComp i =
      s.paintedAt i h none (b.completed b.back ((s.paintedAt i h c b counters).maySwap i)) counters := by
  rw [completeComp_spec]
  unfold State.paintedAt
  dsimp only
  rw [Bank8.set_set, Bank8.set_set, Bank8.get_set_self]

theorem paintedAt_head (s : State) (i : HeadIx) (h : Head) (c : Option Composition) (b : Buffers)
    (counters : Vector Nat 40) : (s.paintedAt i h c b counters).head i = some h :=
  congrArg HeadEntry.head (Bank8.get_set_self _ _ _)

/-- After the field with the greatest index the composition is complete (R141; log 23). -/
theorem completeIfLast_last {s : State} {i : HeadIx} {h : Head} {idx : Nat} (hh : s.head i = some h)
    (hlast : ∀ y ∈ h.fields, y.1 ≤ idx) : s.completeIfLast i idx = s.completeComp i := by
  unfold State.completeIfLast
  rw [hh]
  exact if_pos ((keyedAfter_isNone _ _).2 hlast)

/-- While a field with a greater index is held the composition goes on (R141). -/
theorem completeIfLast_goesOn {s : State} {i : HeadIx} {h : Head} {idx : Nat} (hh : s.head i = some h)
    (hmore : ¬ ∀ y ∈ h.fields, y.1 ≤ idx) : s.completeIfLast i idx = s := by
  unfold State.completeIfLast
  rw [hh]
  exact if_neg fun hnone => hmore ((keyedAfter_isNone _ _).1 hnone)

/-- A status put leaves the fields' indices. -/
theorem setStatus_last (h : Head) (idx : Nat) (st : FieldStatus) :
    (∀ y ∈ (h.setStatus idx st).fields, y.1 ≤ idx) ↔ ∀ y ∈ h.fields, y.1 ≤ idx := by
  unfold Head.setStatus
  rw [List.forall_mem_map]
  refine forall₂_congr fun y _ => ?_
  split <;> rfl

/-- A swap looks at the front and the link, not at what a painting changes (R159). -/
theorem paintedAt_maySwap (s : State) (i : HeadIx) (h : Head) (c : Option Composition) (px : Pixels)
    (counters : Vector Nat 40) :
    (s.paintedAt i h c { s.buffers.get i with back := px } counters).maySwap i = s.maySwap i := by
  unfold State.maySwap State.paintedAt
  dsimp only
  rw [Bank8.get_set_self]
  rfl

/-- A completion after a painting takes the painted pixels (R141, R159). -/
theorem paintedAt_completes (s : State) (i : HeadIx) (h : Head) (c : Option Composition) (px : Pixels)
    (counters : Vector Nat 40) :
    (s.paintedAt i h c { s.buffers.get i with back := px } counters).completeComp i =
      s.paintedAt i h none ((s.buffers.get i).completed px (s.maySwap i)) counters := by
  rw [paintedAt_completeComp, paintedAt_maySwap]
  cases s.maySwap i <;> rfl

/-- A completion that swaps when it may is one of R159. -/
theorem completesAt_paintedAt (s : State) (i : HeadIx) (h : Head) (px : Pixels) (counters : Vector Nat 40) :
    s.CompletesAt (s.paintedAt i h none ((s.buffers.get i).completed px (s.maySwap i)) counters) i px := by
  have hself : s.ComposesFrom s := ⟨rfl, fun _ => rfl, rfl, fun _ h => h, fun _ _ _ => rfl⟩
  exact hself.completesAt (t := s.paintedAt i h none _ counters) (fun _ h => h) (Bank8.get_set_self _ _ _)
    (Bank8.get_set_self _ _ _)

/-- FIELD_PAINT paints the next field, and the composition goes on or completes (R141, R157, R159). -/
theorem paintNext_spec {s : State} {i : HeadIx} {h : Head} {c : Composition} {k : Nat} {rows : List (Option RowCopy)}
    {idx : Nat} {x : FieldSlot} {plan : FieldPlan} (hc : s.comps.get i = some c) (hh : s.head i = some h)
    (hrows : c.snapshot.rows = .slots k rows) (hnext : keyedAfter c.painted h.fields = some (idx, x))
    (hplan : plan = s.planField i c.snapshot x.record (keyedGet idx h.tickers)) :
    ∃ st px counters c' b, PaintedBy s h x.record plan (s.buffers.get i).back st px counters ∧
      s.paintNext i = s.paintedAt i ((h.applyTicker s.mgmt.settings.dwell s.entryCount idx
        (contextChange (s.fonts.get x.record.font) plan)).setStatus idx st) c' b counters ∧
      ((∃ y ∈ h.fields, idx < y.1) → c' = some { c with painted := some idx } ∧ b = { s.buffers.get i with back := px }) ∧
      ((∀ y ∈ h.fields, y.1 ≤ idx) → c' = none ∧ b = (s.buffers.get i).completed px (s.maySwap i)) := by
  obtain ⟨st, px, counters, hpainted, e⟩ := paintField_eq s i h c.snapshot idx x.record hplan
  obtain ⟨ts, m, happly, _⟩ := applyTicker_spec s.mgmt.settings.dwell s.entryCount idx h
    (contextChange (s.fonts.get x.record.font) plan)
  have hkeys := setStatus_last { h with tickers := ts, mode := m } idx st
  rw [paintNext_field hc hh hrows hnext, e, paintedAt_setComp, happly]
  by_cases hlast : ∀ y ∈ h.fields, y.1 ≤ idx
  · refine ⟨st, px, counters, none, _, hpainted, ?_, fun ⟨y, hy, hlt⟩ => absurd (hlast y hy) (Nat.not_le.2 hlt),
      fun _ => ⟨rfl, rfl⟩⟩
    rw [completeIfLast_last (paintedAt_head ..) (hkeys.2 hlast), paintedAt_completes]
  · exact ⟨st, px, counters, _, _, hpainted,
      completeIfLast_goesOn (paintedAt_head ..) fun hall => hlast (hkeys.1 hall), fun _ => ⟨rfl, rfl⟩,
      fun hall => absurd hall hlast⟩

end Sys2Proof.Machine
end

section
/-! PROOFS. The statement on FIELD_PAINT: the painting, the plan and the texts put together. -/

namespace Sys2Proof.Machine

/-! ### The painting -/

/-- What a field's painting does to a hold: only a context discarded or new leaves it (R127, R156). -/
theorem applyTicker_hold {dwell n idx : Nat} {h : Head} {font : FontRecord} {plan : FieldPlan}
    {ts : List (Nat × Ticker)} {m : HeadMode}
    (happly : h.applyTicker dwell n idx (contextChange font plan) = { h with tickers := ts, mode := m }) {gone : Bool}
    (hgone : gone = true ↔ font.defined = false ∨ plan.ticker = .discard ∨ ∃ k, plan.ticker = .restart k)
    {p : PageState} {kept : List Nat} (hm : h.mode = .pages p) (hk : kept = p.holdSet.filter (fun j => j != idx)) :
    (gone = false ∨ p.phase = .dwell ∨ idx ∉ p.holdSet → m = .pages p) ∧
    (gone = true → p.phase = .hold → idx ∈ p.holdSet → kept ≠ [] → m = .pages { p with holdSet := kept }) ∧
    (gone = true → p.phase = .hold → idx ∈ p.holdSet → kept = [] →
      m = .pages ⟨(p.page + 1) % h.pageCount n, .dwell, dwell, p.hold, []⟩) := by
  obtain ⟨ts', m', happly', _, _, hmode⟩ := applyTicker_spec dwell n idx h (contextChange font plan)
  obtain rfl : m' = m := congrArg Head.mode (happly'.symm.trans happly)
  have hm' := hmode gone (hgone.trans (contextChange_leaves font plan).symm) p hm
  rw [hm']
  refine ⟨fun hstays => congrArg HeadMode.pages ?_, fun hg hp hi hne => ?_, fun hg hp hi he => ?_⟩
  · rcases hstays with hg | hp | hi
    · rw [hg]
      rfl
    · rw [leave_dwell hp, ite_self]
    · rw [leave_absent hi, ite_self]
  · rw [if_pos hg, leave_keeps hp hi hk _ _ hne]
  · rw [if_pos hg, leave_empties hp hi hk _ _ he]

/-- A field's context after its painting, by the plan; the other fields keep theirs (R152, R156). -/
theorem applyTicker_contexts {dwell n idx : Nat} {h : Head} {font : FontRecord} {plan : FieldPlan}
    {ts : List (Nat × Ticker)} {m : HeadMode}
    (happly : h.applyTicker dwell n idx (contextChange font plan) = { h with tickers := ts, mode := m }) :
    (font.defined = false → keyedGet idx ts = none) ∧
    (font.defined = true → keyedGet idx ts = match plan.ticker with
      | .keep => keyedGet idx h.tickers
      | .discard => none
      | .update k | .restart k => some k) ∧
    ∀ j, j ≠ idx → keyedGet j ts = keyedGet j h.tickers := by
  obtain ⟨ts', m', happly', hself, hothers, _⟩ := applyTicker_spec dwell n idx h (contextChange font plan)
  obtain rfl : ts' = ts := congrArg Head.tickers (happly'.symm.trans happly)
  refine ⟨fun hd => ?_, fun hd => ?_, hothers⟩
  · rw [contextChange_undefined hd] at hself
    exact hself
  · rw [contextChange_defined hd] at hself
    exact hself

/-! ### The plan -/

section Steps

variable {s : State} {i : HeadIx} {snap : Snapshot} {r : FieldRecord} {held : Option Ticker} {full short : Text}
  (hfull : full = s.fieldText .full i snap r) (hshort : short = s.fieldText .short i snap r) (hne : full.glyphs ≠ [])
  (hother : r.scrolls = true → ∀ k ∈ held, k.bound ≠ boundService snap r)
include hfull hshort hne hother

/-- The full text drawn at a step of the ladder (R147, R150). -/
theorem planField_full {c : Choice} (hl : ladder s.fonts r full short = (some c, [])) : s.planField i snap r held =
    ⟨c, if r.scrolls = true ∧ held ≠ none then .discard else .keep, full.tallies⟩ := by
  rw [planField_fits hfull hshort hne hother hl, List.append_nil]

variable (hn : r.width < widthAt s.fonts r.font (s.fonts.get r.font).nominalGap full.glyphs)
  (hm : r.width < widthAt s.fonts r.font (s.fonts.get r.font).minGap full.glyphs)
include hn hm

/-- The short text drawn at a step of the ladder (R147, R150). -/
theorem planField_short (hs : full.short = true) {c : Choice} (hc : fitShort s.fonts r short = some c) :
    s.planField i snap r held =
      ⟨c, if r.scrolls = true ∧ held ≠ none then .discard else .keep, full.tallies ++ short.tallies⟩ :=
  planField_fits hfull hshort hne hother (by rw [ladder_short hne hn hm, if_pos hs, hc])

/-- No step fits: a new context, or the text truncated or clipped (R148, R149, R151). -/
theorem planField_exhausted (h : full.short = false ∨ fitShort s.fonts r short = none) {loop : Nat}
    (hloop : loop = widthAt s.fonts r.font (s.fonts.get r.font).nominalGap full.glyphs + r.spacer) :
    (s.planField i snap r held).tallies = full.tallies ++ (if full.short then short.tallies else []) ∧
    (r.scrolls = true → (s.planField i snap r held).choice = ⟨.ticker full.glyphs loop 0, .scrolling, full.marks⟩ ∧
      (s.planField i snap r held).ticker =
        .restart ⟨boundService snap r, full.glyphs, full.marks, loop, 0, false⟩) ∧
    (r.scrolls = false → (s.planField i snap r held).ticker = .keep ∧
      (s.planField i snap r held).choice = truncateText s.fonts r full) := by
  have hl := ladder_none hne hn hm h
  cases hs : r.scrolls with
  | true =>
    rw [planField_restart hfull hshort hne hother hl hs hloop]
    exact ⟨rfl, fun _ => ⟨rfl, rfl⟩, nofun⟩
  | false =>
    rw [planField_truncated hfull hshort hs hl]
    exact ⟨rfl, nofun, fun _ => ⟨rfl, rfl⟩⟩

end Steps

/-! ### The statement -/

/-- Settles O41: the painting by its plan, the plan by the fit ladder, and the texts piece by piece. -/
theorem fieldPaintTakesNextField : Obligations.FieldPaintTakesNextField := by
  refine ⟨fun s i hrun hc => leaves_of_live (fun s => s.paintNext i) rfl hrun (paintNext_none hc), ?painting, ?plan,
    ?service, fieldText_eq, ?building, ?pieces, fun _ h => hhmm_eq h, fun _ _ _ hh hm hs => hhmmss_eq hh hm hs,
    fun _ h => decimalDigits_eq h, fun _ h => platformGlyphs_eq h⟩
  case painting =>
    intro s i h c k rows idx x font plan clip hrun hh hc hrows hsorted hx hafter hleast hfont hplan hclip
    subst hfont hclip
    have hnext := keyedAfter_next hsorted hx hafter hleast
    obtain ⟨st, px, counters, c', b, hpainted, hpaint, hmore, hlast⟩ := paintNext_spec hc hh hrows hnext hplan
    obtain ⟨ts, m, happly, _⟩ := applyTicker_spec s.mgmt.settings.dwell s.entryCount idx h
      (contextChange (s.fonts.get x.record.font) plan)
    obtain ⟨hundefined, hdefined, hothers⟩ := applyTicker_contexts happly
    rw [happly] at hpaint
    refine ⟨s.paintNext i, Head.setStatus idx st { h with tickers := ts, mode := m }, st, px,
      leaves_of_live (fun s => s.paintNext i) rfl hrun rfl, ?_⟩
    rw [hpaint]
    refine ⟨rfl, fun j hj => ⟨Bank8.get_set_ne _ _ hj, Bank8.get_set_ne _ _ hj, Bank8.get_set_ne _ _ hj⟩,
      Bank8.get_set_self _ _ _, rfl, fun hd => ?noFont, fun hd => ?font, hothers,
      fun gone hgone p kept hm hk => applyTicker_hold happly hgone hm hk, fun hy => ?goesOn, fun hy => ?completes⟩
    case noFont =>
      obtain ⟨hst, hpx, hcounters⟩ := hpainted.undefined hd
      exact ⟨hst, hpx, hcounters, hundefined hd⟩
    case font =>
      obtain ⟨hst, hpx, hcounters⟩ := hpainted.defined hd
      subst hst
      exact ⟨rfl, rfl, decide_eq_true_iff.trans (standIns_pos _ _ _), offHead_iff _ _ _, hpx, hcounters, hdefined hd⟩
    case goesOn =>
      obtain ⟨hc', hb⟩ := hmore hy
      exact ⟨(Bank8.get_set_self _ _ _).trans hc', (Bank8.get_set_self _ _ _).trans hb⟩
    case completes =>
      obtain ⟨rfl, rfl⟩ := hlast hy
      exact completesAt_paintedAt s i _ px counters
  case plan =>
    intro s i snap r held full short bound wide start gn gm e loop plan static hfull hshort hbound hwide hstart hgn hgm he
      hloop hplan hstatic
    obtain rfl : wide = fun t g => widthAt s.fonts r.font g t.glyphs := funext fun t => funext fun g => hwide t g
    obtain rfl : start = alignOffset r.align r.width := funext fun w => (hstart w).trans (by cases r.align <;> rfl)
    subst hbound hgn hgm he hplan hstatic
    refine ⟨scrolls_iff r, fun hempty => ?empty, fun k hne hs hk hb => ?continued, fun hne hother =>
      ⟨fun hn => planField_full hfull hshort hne hother (ladder_fits hne hn),
        fun hn hm => planField_full hfull hshort hne hother (ladder_condensed hne hn hm),
        fun hn hm => ⟨fun hs => ?short, fun hnone => ?exhausted⟩⟩⟩
    case empty =>
      rw [planField_empty hfull hshort hempty]
      exact ⟨rfl, rfl, rfl⟩
    case continued =>
      rw [planField_continued hfull hshort hne hs hk hb, hloop]
      simp [Ticker.remeasured, Ticker.choice]
    case short =>
      have drawn {c : Choice} (hc : fitShort s.fonts r short = some c) :=
        planField_short hfull hshort hne hother hn hm hs hc
      exact ⟨fun hempty => drawn (fitShort_empty hempty), fun hsne hsn => drawn (fitShort_fits hsne hsn),
        fun hsne hsn hsm => drawn (fitShort_condensed hsne hsn hsm)⟩
    case exhausted =>
      obtain ⟨htallies, hscrolls, hstays⟩ := planField_exhausted hfull hshort hne hother hn hm
        (hnone.imp_right fun ⟨hsne, hsn, hsm⟩ => fitShort_none hsne hsn hsm) hloop
      refine ⟨htallies, hscrolls, fun hs => (hstays hs).1, fun hs hl hw => ?_, fun hs hclipped =>
        (hstays hs).2.trans (truncateText_clipped full hclipped)⟩
      rw [(hstays hs).2]
      exact truncateText_ellipsis hne rfl rfl hl hw
  case service =>
    intro snap r k rows hrows
    exact ⟨boundService_other, fun c hk hc => by rw [boundService_row hk, row_some hrows hc]; rfl,
      fun hnone => boundService_noRow (row_none hrows hnone)⟩
  case building =>
    intro names strict mode t
    refine ⟨fun p hcut => addPiece_cut hcut names strict mode p, fun p x hcut hp => ?_, fun gs hcut =>
      (addPiece_glyphs hcut names strict mode gs).trans (addGlyphs_eq gs hcut)⟩
    rcases hp with ⟨c, rfl, rfl⟩ | ⟨items, rfl, rfl⟩
    · exact (addPiece_name hcut names strict mode c).trans (addExpansion_uncut hcut _)
    · exact (addPiece_free hcut names strict mode items).trans (addExpansion_uncut hcut _)
  case pieces =>
    intro notices i snap r k rows pieces hrows hpieces
    subst hpieces
    refine ⟨fun he hnone => fieldPieces_noRow (row_none hrows hnone) he, fun c e d hc he hd => ?row,
      fun hk => fieldPieces_clock hk, fun hk hslot => ?notice, fieldPieces_static⟩
    case row =>
      subst he
      have shows {kind : FieldKind} (hk : r.kind = kind) (hkind : kind.isEntry = true) :
          fieldPieces notices i snap r = entryPieces snap c kind := fieldPieces_row (row_some hrows hc) hk hkind
      refine ⟨fun hk => shows hk rfl, fun hk => shows hk rfl, fun hk => shows hk rfl, fun hk => shows hk rfl,
        fun hk => shows hk rfl, fun hk => ?status, fun hk => ?due, fun hk stops named more hnamed hmore hstops => ?calling⟩
      case status =>
        rw [show fieldPieces notices i snap r = statusPieces c.entry from shows hk rfl]
        refine ⟨fun hmoved => if_pos hmoved, fun hmoved => ?_⟩
        rw [statusPieces_unmoved hmoved]
        refine ⟨fun h => ?_, fun m h hm => ?_, fun h => ?_, fun h => ?_, fun h => ?_⟩ <;> rw [h]
        rw [hm]
        rfl
      case due =>
        rw [show fieldPieces notices i snap r =
          if c.entry.status = .cancelled ∨ c.entry.status = .departed then [] else duePieces snap c.entry.effective
          from shows hk rfl]
        refine ⟨fun hgone => if_pos hgone, fun hcancelled hdeparted => ?_⟩
        rw [if_neg (not_or.2 ⟨hcancelled, hdeparted⟩)]
        exact duePieces_cases snap c.entry.effective hd
      case calling =>
        obtain rfl : named = stopPieces := funext fun x => (hnamed x).trans (stopPieces_eq x).symm
        subst hmore hstops
        rw [show fieldPieces notices i snap r = callingPieces c from shows hk rfl]
        exact ⟨callingPieces_empty, fun x hlive hone => callingPieces_one hlive hone,
          fun x mid y hlive hmany => callingPieces_many hlive hmany⟩
    case notice =>
      refine ⟨fun slot n hval hn htext => ?_, fun slot hval hnone => ?_⟩
      · rw [fieldPieces_notice hk hval, hn]
        exact freePiece_notice htext i
      · rw [fieldPieces_notice hk hval, hnone]
        rfl

end Sys2Proof.Machine
end

section
/-! PROOFS. Name Put, Name Drop and Names Clear: what a Name Put's payload holds, and what each frame leaves of the Name Table
(R82, R84 to R88, R198). -/

namespace Sys2Proof.Machine

/-! ### Bytes written again as they were read (R194) -/

theorem drop_eq_b8 {p : List Byte} {i : Nat} (h : i < p.length) : p.drop i = b8 (u8 p i) :: p.drop (i + 1) := by
  have hbyte : b8 (u8 p i) = p[i] := by simp [b8, u8, List.getD_eq_getElem?_getD, h]
  rw [hbyte]
  exact List.drop_eq_getElem_cons h

theorem b16_u16 (p : List Byte) (i : Nat) : b16 (u16 p i) = [b8 (u8 p i), b8 (u8 p (i + 1))] := by
  have hlow : u8 p (i + 1) < 256 := BitVec.isLt _
  have hhigh : u16 p i / 256 = u8 p i := by
    unfold u16
    omega
  have hmod : u16 p i % 256 = u8 p (i + 1) := by
    unfold u16
    omega
  unfold b16
  rw [hhigh, ← hmod]
  refine congrArg (fun low => [b8 (u8 p i), low]) (BitVec.eq_of_toNat_eq ?_)
  simp [b8]

theorem drop_eq_b16 {p : List Byte} {i : Nat} (h : i + 2 ≤ p.length) : p.drop i = b16 (u16 p i) ++ p.drop (i + 2) := by
  rw [b16_u16, drop_eq_b8 (show i < p.length by omega), drop_eq_b8 (show i + 1 < p.length by omega)]
  rfl

/-- A glyph string that was read has the items asked for, none of them bad, and its bytes are the ones it was read from
(R84, R194). -/
theorem itemsAt_spec {p : List Byte} {n : Nat} : ∀ {off : Nat} {xs : List Item}, itemsAt p off n = some xs →
    off + 2 * n ≤ p.length → xs.length = n ∧ (∀ x ∈ xs, Item.ofCode x.code = some x) ∧
      p.drop off = itemBytes xs ++ p.drop (off + 2 * n) := by
  induction n with
  | zero =>
    intro off xs h _
    cases h
    exact ⟨rfl, nofun, rfl⟩
  | succ n ih =>
    intro off xs h hlen
    unfold itemsAt at h
    split at h
    · next x rest hx hrest =>
      cases h
      obtain ⟨hcount, hgood, hbytes⟩ := ih hrest (by omega)
      obtain ⟨hcode, _⟩ := Item.code_ofCode hx
      refine ⟨congrArg Nat.succ hcount, List.forall_mem_cons.2 ⟨hcode ▸ hx, hgood⟩, ?_⟩
      rw [drop_eq_b16 (by omega), hbytes, ← hcode, show off + 2 + 2 * n = off + 2 * (n + 1) by omega]
      simp [itemBytes]
    · cases h

/-! ### A Name Put's payload (R85, R198) -/

/-- A payload of ten bytes or more is the words and counts read from its front, and the rest. -/
theorem namePayload_split {p : List Byte} (h : 10 ≤ p.length) : p = b16 (u16 p 0) ++ [b8 (u8 p 2), b8 (u8 p 3)] ++
    b16 (u16 p 4) ++ b16 (u16 p 6) ++ b16 (u16 p 8) ++ p.drop 10 := by
  have hcode : p = b16 (u16 p 0) ++ p.drop 2 := drop_eq_b16 (i := 0) (by omega)
  have hfull : p.drop 2 = b8 (u8 p 2) :: p.drop 3 := drop_eq_b8 (by omega)
  have hshort : p.drop 3 = b8 (u8 p 3) :: p.drop 4 := drop_eq_b8 (by omega)
  have hfirst : p.drop 4 = b16 (u16 p 4) ++ p.drop 6 := drop_eq_b16 (by omega)
  have hsecond : p.drop 6 = b16 (u16 p 6) ++ p.drop 8 := drop_eq_b16 (by omega)
  have hthird : p.drop 8 = b16 (u16 p 8) ++ p.drop 10 := drop_eq_b16 (by omega)
  refine hcode.trans ?_
  rw [hfull, hshort, hfirst, hsecond, hthird]
  simp only [List.append_assoc, List.cons_append, List.nil_append]

/-- The short form's items, none for an entry without short form. -/
def NameEntry.shortItems (e : NameEntry) : List Item := e.short.getD []

/-- The first ten bytes of a Name Put: code, item counts, fallback (R198). -/
def NameEntry.head (e : NameEntry) : List Byte :=
  b16 e.code ++ [b8 e.full.length, b8 e.shortItems.length] ++ b16 e.fallback.1 ++ b16 e.fallback.2.1 ++ b16 e.fallback.2.2

/-- A Name Put's payload (R198). -/
def NameEntry.payload (e : NameEntry) : List Byte := e.head ++ itemBytes e.full ++ itemBytes e.shortItems

/-- An entry that a Name Put may carry (R82, R84, R85). -/
structure NameEntry.Fits (e : NameEntry) : Prop where
  code_pos : 1 ≤ e.code
  code_le : e.code ≤ 4095
  full_pos : 1 ≤ e.full.length
  full_le : e.full.length ≤ 40
  short_ne : e.short ≠ some []
  short_le : e.shortItems.length ≤ 20
  first_le : e.fallback.1 ≤ 255
  second_le : e.fallback.2.1 ≤ 255
  third_le : e.fallback.2.2 ≤ 255
  items_good : ∀ x ∈ e.full ++ e.shortItems, Item.ofCode x.code = some x

/-- A payload that is read as an entry is that entry's, and the entry may be carried (R85). -/
theorem nameOfPayload_sound {p : List Byte} {e : NameEntry} (h : nameOfPayload p = some e) : p = e.payload ∧ e.Fits := by
  unfold nameOfPayload at h
  dsimp only at h
  split at h
  · cases h
  · next hform =>
    simp only [not_or, not_lt, ne_eq, not_not] at hform
    obtain ⟨hten, hlen, hcode, hcodeLe, hfull, hfullLe, hshortLe, hfirst, hsecond, hthird⟩ := hform
    split at h
    · next full short hf hs =>
      cases h
      obtain ⟨hfullCount, hfullGood, hfullBytes⟩ := itemsAt_spec hf (by omega)
      obtain ⟨hshortCount, hshortGood, hshortBytes⟩ := itemsAt_spec hs (by omega)
      have hitems : (if u8 p 3 = 0 then none else some short).getD [] = short := by
        split
        · next hnone => exact (List.eq_nil_of_length_eq_zero (hshortCount.trans hnone)).symm
        · rfl
      have hne : (if u8 p 3 = 0 then none else some short) ≠ some [] := by
        split
        · nofun
        · next hsome => exact fun hnil => hsome (hshortCount ▸ Option.some.inj hnil ▸ rfl)
      have hend : p.drop (10 + 2 * u8 p 2 + 2 * u8 p 3) = [] := List.drop_eq_nil_of_le (by omega)
      refine ⟨?payload, Nat.one_le_iff_ne_zero.2 hcode, hcodeLe, by dsimp only; omega, by dsimp only; omega, hne, ?_,
        hfirst, hsecond, hthird, ?_⟩
      case payload =>
        simp only [NameEntry.payload, NameEntry.head, NameEntry.shortItems, hitems, hfullCount, hshortCount]
        rw [hend, List.append_nil] at hshortBytes
        rw [hshortBytes] at hfullBytes
        exact (namePayload_split hten).trans (by rw [hfullBytes, List.append_assoc _ (itemBytes full)])
      · exact (congrArg List.length hitems).trans_le (by omega)
      · simpa only [NameEntry.shortItems, hitems] using List.forall_mem_append.2 ⟨hfullGood, hshortGood⟩
    · cases h

theorem head_length (e : NameEntry) : e.head.length = 10 := rfl

theorem itemBytes_length (xs : List Item) : (itemBytes xs).length = 2 * xs.length := by
  simp [itemBytes, b16, List.length_flatMap, Nat.mul_comm]

theorem payload_length (e : NameEntry) : e.payload.length = 10 + 2 * (e.full.length + e.shortItems.length) := by
  simp only [NameEntry.payload, List.length_append, head_length, itemBytes_length]
  omega

/-- The words and counts before the items are read back. -/
theorem payload_fields {e : NameEntry} (h : e.Fits) : u16 e.payload 0 = e.code ∧ u8 e.payload 2 = e.full.length ∧
    u8 e.payload 3 = e.shortItems.length ∧ u16 e.payload 4 = e.fallback.1 ∧ u16 e.payload 6 = e.fallback.2.1 ∧
    u16 e.payload 8 = e.fallback.2.2 := by
  obtain ⟨_, hcode, _, hfull, _, hshort, hfirst, hsecond, hthird, _⟩ := h
  simp [NameEntry.payload, NameEntry.head, u16, u8, b16, b8]
  omega

/-- Both forms are read back. -/
theorem payload_items {e : NameEntry} (h : e.Fits) : itemsAt e.payload 10 e.full.length = some e.full ∧
    itemsAt e.payload (10 + 2 * e.full.length) e.shortItems.length = some e.shortItems := by
  obtain ⟨hfull, hshort⟩ := List.forall_mem_append.1 h.items_good
  constructor
  · have hread := itemsAt_itemBytes e.full e.head (itemBytes e.shortItems) hfull
    rwa [← List.append_assoc, head_length] at hread
  · have hread := itemsAt_itemBytes e.shortItems (e.head ++ itemBytes e.full) [] hshort
    rwa [List.append_nil, List.length_append, head_length, itemBytes_length] at hread

theorem short_of_items {e : NameEntry} (h : e.Fits) :
    (if e.shortItems.length = 0 then none else some e.shortItems) = e.short := by
  have hne := h.short_ne
  unfold NameEntry.shortItems
  cases hs : e.short with
  | none => rfl
  | some xs => exact if_neg fun hlen => hne (hs.trans (congrArg some (List.eq_nil_of_length_eq_zero hlen)))

/-- The payload of an entry that may be carried is read as that entry (R85). -/
theorem nameOfPayload_payload {e : NameEntry} (h : e.Fits) : nameOfPayload e.payload = some e := by
  obtain ⟨hcode, hfull, hshort, hfirst, hsecond, hthird⟩ := payload_fields h
  obtain ⟨hfullItems, hshortItems⟩ := payload_items h
  have hlen := payload_length e
  unfold nameOfPayload
  dsimp only
  rw [hcode, hfull, hshort, hfirst, hsecond, hthird, hfullItems, hshortItems, if_neg ?form]
  case form =>
    obtain ⟨_, _, _, _, _, _, _, _, _, _⟩ := h
    omega
  dsimp only
  rw [short_of_items h]

/-! ### The table (R86) -/

theorem findName_cons (x : NameEntry) (t : List NameEntry) (c : Nat) :
    findName (x :: t) c = if x.code = c then some x else findName t c := by
  by_cases h : x.code = c <;> simp [findName, h]

/-- What is held after an entry was put (R86). -/
theorem findName_putName (e : NameEntry) (t : List NameEntry) (c : Nat) :
    findName (putName e t) c = if c = e.code then some e else findName t c := by
  have hput (xs : List NameEntry) : findName (e :: xs) c = if c = e.code then some e else findName xs c :=
    (findName_cons e xs c).trans (if_congr eq_comm rfl rfl)
  induction t with
  | nil => exact hput []
  | cons x xs ih =>
    unfold putName
    split
    · exact hput (x :: xs)
    · split
      · next hsame =>
        rw [hput, findName_cons x, hsame]
        by_cases hc : c = e.code
        · rw [if_pos hc, if_pos hc]
        · rw [if_neg hc, if_neg hc, if_neg (Ne.symm hc)]
      · next hother =>
        rw [findName_cons x, findName_cons x, ih]
        by_cases hx : x.code = c
        · rw [if_pos hx, if_pos hx, if_neg (hx ▸ hother)]
        · rw [if_neg hx, if_neg hx]

theorem findName_isSome {t : List NameEntry} {c : Nat} : (findName t c).isSome = true ↔ ∃ e ∈ t, e.code = c := by
  simp [findName, List.find?_isSome]

/-! ### What each frame does to the table (R85 to R88) -/

section Frames

variable {t : List NameEntry} {p : List Byte}

theorem putNameFrame_malformed (h : nameOfPayload p = none) : putNameFrame t p = ⟨t, .malformed, []⟩ := by
  simp only [putNameFrame, h]

theorem putNameFrame_done {e : NameEntry} (h : nameOfPayload p = some e)
    (hroom : (findName t e.code).isSome = true ∨ t.length < 1024) : putNameFrame t p = ⟨putName e t, .done, []⟩ := by
  simp only [putNameFrame, h]
  exact if_pos hroom

theorem putNameFrame_full {e : NameEntry} (h : nameOfPayload p = some e) (hnew : findName t e.code = none)
    (hfull : 1024 ≤ t.length) : putNameFrame t p = ⟨t, .full, [.nameTableFull]⟩ := by
  simp only [putNameFrame, h]
  exact if_neg (not_or.2 ⟨by simp [hnew], Nat.not_lt.2 hfull⟩)

theorem dropNameFrame_malformed (h : p.length ≠ 2 ∨ u16 p 0 = 0 ∨ 4095 < u16 p 0) :
    dropNameFrame t p = ⟨t, .malformed, []⟩ := if_pos h

/-- A Name Drop of a code, by whether the code is held (R87). -/
theorem dropNameFrame_b16 {code : Nat} (t : List NameEntry) (hp : p = b16 code) (hlo : 1 ≤ code) (hhi : code ≤ 4095) :
    dropNameFrame t p = if (findName t code).isSome then ⟨t.filter (fun e => e.code != code), .done, []⟩
      else ⟨t, .notFound, []⟩ := by
  have hlen : p.length = 2 := hp ▸ rfl
  have hcode : u16 p 0 = code := by
    have hread := u16_append [] [] (n := code) (by omega)
    rwa [List.nil_append, List.append_nil, ← hp] at hread
  unfold dropNameFrame
  rw [hcode, if_neg (by omega)]

theorem clearNamesFrame_malformed (h : p ≠ []) : clearNamesFrame t p = ⟨t, .malformed, []⟩ :=
  if_pos fun hlen => h (List.eq_nil_of_length_eq_zero hlen)

theorem clearNamesFrame_nil (t : List NameEntry) : clearNamesFrame t [] = ⟨[], .done, []⟩ := rfl

end Frames

/-! ### The frames complete (R12) -/

/-- The Name Store's owner leaves the same state but for the port whatever the feed counters are. -/
theorem State.SameButPort.takeNames {t u : State} (h : t.SameButPort u) (r : NameResult) :
    (t.takeNames r).1.SameButPort (u.takeNames r).1 := by
  obtain ⟨hs, hport⟩ := h
  have hset : ({ t with names := { t.names with table := r.table } } : State).SameButPort
      { u with names := { u.names with table := r.table } } :=
    ⟨congrArg (fun x : State => { x with names := { x.names with table := r.table } }) hs, hport⟩
  exact hset.bumpAll r.counts

section Complete

variable {f : FeedFrame} {s : State} {r : NameResult} (h : s.TakesData f)
include h

/-- A frame that the Name Store takes completes with its result. -/
theorem nameFrame_completes {c : Instr} {k : Kind} (hc : c.frame = some (k, f)) (hk : k.isData = true)
    (hown : s.arrived.own f.payload k = s.arrived.takeNames r) : Completes c f k s (s.takeNames r).1 r.code :=
  dataFrame_completes hc hk h hown ((arrived_sameButPort s).takeNames r) (bumpAll_feed _ _)

theorem namePut_completes (hr : putNameFrame s.names.table f.payload = r) :
    Completes (.namePut f) f .namePut s (s.takeNames r).1 r.code :=
  nameFrame_completes h rfl rfl (congrArg s.arrived.takeNames hr)

theorem nameDrop_completes (hr : dropNameFrame s.names.table f.payload = r) :
    Completes (.nameDrop f) f .nameDrop s (s.takeNames r).1 r.code :=
  nameFrame_completes h rfl rfl (congrArg s.arrived.takeNames hr)

theorem namesClear_completes (hr : clearNamesFrame s.names.table f.payload = r) :
    Completes (.namesClear f) f .namesClear s (s.takeNames r).1 r.code :=
  nameFrame_completes h rfl rfl (congrArg s.arrived.takeNames hr)

end Complete

/-! ### The statement -/

/-- Settles O30: the payload read back both ways, then each frame's result taken into the state. -/
theorem nameFramesKeepTheTable : Obligations.NameFramesKeepTheTable := by
  refine ⟨?payload, fun f s htakes hbad => namePut_completes htakes (putNameFrame_malformed hbad), findName_putName,
    fun f s e htakes he => ⟨fun hroom => namePut_completes htakes (putNameFrame_done he hroom),
      fun hnew hfull => namePut_completes htakes (putNameFrame_full he hnew hfull)⟩,
    fun f s htakes => ⟨fun hbad => nameDrop_completes htakes (dropNameFrame_malformed hbad), ?drop⟩,
    fun f s htakes => ⟨fun hbad => namesClear_completes htakes (clearNamesFrame_malformed hbad), fun hnil => ?clear⟩⟩
  case payload =>
    rintro p e short rfl
    constructor
    · intro h
      obtain ⟨hp, hcode, hcodeLe, hfull, hfullLe, hne, hshort, hfirst, hsecond, hthird, hgood⟩ := nameOfPayload_sound h
      exact ⟨hp, hcode, hcodeLe, hfull, hfullLe, hne, hshort, hfirst, hsecond, hthird, hgood⟩
    · rintro ⟨rfl, hcode, hcodeLe, hfull, hfullLe, hne, hshort, hfirst, hsecond, hthird, hgood⟩
      exact nameOfPayload_payload ⟨hcode, hcodeLe, hfull, hfullLe, hne, hshort, hfirst, hsecond, hthird, hgood⟩
  case drop =>
    intro code hp hlo hhi
    have hdrop := dropNameFrame_b16 s.names.table hp hlo hhi
    refine ⟨fun hheld => ?_, fun habsent => ?_⟩
    · exact nameDrop_completes htakes (hdrop.trans (if_pos (findName_isSome.2 hheld)))
    · have hnone : ¬ (findName s.names.table code).isSome = true := fun hfound => by
        obtain ⟨e, he, hcode⟩ := findName_isSome.1 hfound
        exact habsent e he hcode
      exact nameDrop_completes htakes (hdrop.trans (if_neg hnone))
  case clear =>
    exact namesClear_completes htakes (hnil ▸ clearNamesFrame_nil s.names.table)

end Sys2Proof.Machine
end

section
/-! PROOFS. Expansion: what a walk keeps, what the items of a form give it, and what is delivered (R90 to R96). -/

namespace Sys2Proof.Machine

/-! ### Glyphs emitted (R95) -/

theorem emitAll_cut (gs : List Nat) {w : Walk} (h : w.cut = true) : w.emitAll gs = w := by
  induction gs with
  | nil => rfl
  | cons g gs ih =>
    have e : w.emit g = w := if_pos h
    show (w.emit g).emitAll gs = w
    rw [e, ih]

/-- Glyphs are emitted while there is room, and the first without room cuts the walk (R95). -/
theorem emitAll_eq (gs : List Nat) {w : Walk} (h : w.cut = false) : w.emitAll gs = { w with
    out := w.out ++ gs.take w.room
    room := w.room - gs.length
    cut := decide (w.room < gs.length) } := by
  by_cases hfit : gs.length ≤ w.room
  · rw [emitAll_fits gs w h hfit, List.take_of_length_le hfit, decide_eq_false (Nat.not_lt.2 hfit), ← h]
  · have hlen : (gs.take w.room).length = w.room := List.length_take_of_le (by omega)
    obtain ⟨g, rest, hdrop⟩ : ∃ g rest, gs.drop w.room = g :: rest :=
      List.exists_cons_of_ne_nil (by simpa using Nat.lt_of_not_le hfit)
    have hsplit : w.emitAll gs = ((w.emitAll (gs.take w.room)).emit g).emitAll rest := by
      conv_lhs => rw [← List.take_append_drop w.room gs, hdrop]
      exact List.foldl_append ..
    have hfull := emitAll_fits (gs.take w.room) w h hlen.le
    rw [hlen, Nat.sub_self] at hfull
    have hemit : (w.emitAll (gs.take w.room)).emit g =
        { w with out := w.out ++ gs.take w.room, room := 0, cut := true } := by
      rw [hfull]
      simp [Walk.emit, h]
    rw [hsplit, hemit, emitAll_cut rest rfl, Nat.sub_eq_zero_of_le (by omega), decide_eq_true (by omega)]

/-- The first glyphs of an expansion, when they find room. -/
theorem start_emitAll {gs : List Nat} {room : Nat} (h : gs.length ≤ room) :
    (Walk.start room).emitAll gs = ⟨gs, room - gs.length, false, 0, 0, false⟩ := emitAll_fits gs _ rfl h

/-- A missing mark that finds room is emitted and counted (R92). -/
theorem emitMissing_fits {w : Walk} (hcut : w.cut = false) (hroom : 0 < w.room) : w.emitMissing =
    { w with out := w.out ++ [0xE0], room := w.room - 1, missing := w.missing + 1 } := by
  simp [Walk.emitMissing, Walk.emit, hcut, hroom.ne']

/-- A depth fallback that finds room is emitted and counted (R93). -/
theorem emitDeep_fits {w : Walk} (e : NameEntry) (hcut : w.cut = false) (hroom : 3 ≤ w.room) : w.emitDeep e =
    { w with out := w.out ++ e.fallbackGlyphs, room := w.room - 3, deep := w.deep + 1 } := by
  have hne : w.room ≠ 0 := by omega
  unfold Walk.emitDeep
  rw [emitAll_fits e.fallbackGlyphs w hcut hroom, if_neg hne]
  rfl

/-! ### One item taken (R91) -/

section Items

variable {t : List NameEntry} {strict : Bool} {target : Nat} {w : Walk}

theorem takeItem_stopped (descend : Option (List Item → Walk → Walk)) (h : w.stopped = true) (i : Item) :
    takeItem t strict descend w i = w := if_pos h

theorem takeItem_absent (descend : Option (List Item → Walk → Walk)) (h : w.stopped = false)
    (ht : findName t target = none) (form : Selector) :
    takeItem t strict descend w (.ref target form) = w.emitMissing := by
  simp [takeItem, h, ht]

theorem takeItem_held {e : NameEntry} (walk : List Item → Walk → Walk) (h : w.stopped = false)
    (ht : findName t target = some e) (form : Selector) :
    takeItem t strict (some walk) w (.ref target form) = walk (e.form form) w := by
  simp [takeItem, h, ht]

/-- A reference to a held entry at full depth (R93, R94). -/
theorem takeItem_deep {e : NameEntry} (h : w.stopped = false) (ht : findName t target = some e) (form : Selector) :
    takeItem t strict none w (.ref target form) = if strict then { w with strict := true } else w.emitDeep e := by
  simp [takeItem, h, ht]

/-- Once the strict rule has ended a walk no further item is taken (R94). -/
theorem foldl_takeItem_strict (descend : Option (List Item → Walk → Walk)) (items : List Item) (h : w.strict = true) :
    items.foldl (takeItem t strict descend) w = w := by
  have hstop : w.stopped = true := by simp [Walk.stopped, h]
  induction items with
  | nil => rfl
  | cons i items ih => rw [List.foldl_cons, takeItem_stopped descend hstop, ih]

end Items

/-! ### What a walk keeps -/

/-- What holds of every walk with some room at its start: glyphs and room left sum to it, it is cut only with the room full,
the strict rule ends it only in strict mode, and depth fallbacks are emitted only outside strict mode (R93 to R95). -/
structure Walk.Sound (strict : Bool) (room : Nat) (w : Walk) : Prop where
  total : w.out.length + w.room = room
  full : w.cut = true → w.room = 0
  ended : w.strict = true → strict = true
  deep : 0 < w.deep → strict = false

section Sound

variable {strict : Bool} {room : Nat} {w : Walk}

theorem start_sound (strict : Bool) (room : Nat) : (Walk.start room).Sound strict room :=
  ⟨Nat.zero_add room, nofun, nofun, nofun⟩

theorem emit_sound (h : w.Sound strict room) (g : Nat) : (w.emit g).Sound strict room := by
  have htotal := (emit_room w g).trans h.total
  unfold Walk.emit at *
  split
  · exact h
  · split
    · next hzero => exact ⟨h.total, fun _ => hzero, h.ended, h.deep⟩
    · next hcut hroom =>
      rw [if_neg hcut, if_neg hroom] at htotal
      exact ⟨htotal, fun hc => absurd hc hcut, h.ended, h.deep⟩

theorem emitAll_sound (h : w.Sound strict room) (gs : List Nat) : (w.emitAll gs).Sound strict room :=
  List.foldlRecOn gs _ h fun _ hw g _ => emit_sound hw g

/-- Every branch of R91 keeps a walk sound, when walking a referenced form does. -/
theorem takeItem_sound {descend : Option (List Item → Walk → Walk)}
    (hd : ∀ walk ∈ descend, ∀ items (v : Walk), v.Sound strict room → (walk items v).Sound strict room)
    (h : w.Sound strict room) (t : List NameEntry) (i : Item) : (takeItem t strict descend w i).Sound strict room := by
  cases hstop : w.stopped with
  | true => rwa [takeItem_stopped descend hstop]
  | false =>
    cases i with
    | glyph g =>
      have e : takeItem t strict descend w (.glyph g) = w.emit g := by simp [takeItem, hstop]
      exact e ▸ emit_sound h g
    | ref target form =>
      cases ht : findName t target with
      | none =>
        rw [takeItem_absent descend hstop ht]
        obtain ⟨htotal, hfull, hended, hdeep⟩ := emit_sound h 0xE0
        exact ⟨htotal, hfull, hended, hdeep⟩
      | some e =>
        cases descend with
        | some walk =>
          rw [takeItem_held walk hstop ht]
          exact hd walk rfl _ w h
        | none =>
          rw [takeItem_deep hstop ht]
          cases strict with
          | true => exact ⟨h.total, h.full, fun _ => rfl, h.deep⟩
          | false =>
            obtain ⟨htotal, hfull, hended, _⟩ := emitAll_sound h e.fallbackGlyphs
            exact ⟨htotal, hfull, hended, fun _ => rfl⟩

theorem walkForm_sound (t : List NameEntry) (depth : Nat) : ∀ (items : List Item) (v : Walk), v.Sound strict room →
    (walkForm t strict depth items v).Sound strict room := by
  induction depth with
  | zero =>
    exact fun items v h => List.foldlRecOn items _ h fun _ hw i _ => takeItem_sound (descend := none) nofun hw t i
  | succ depth ih =>
    refine fun items v h => List.foldlRecOn items _ h fun _ hw i _ => takeItem_sound (fun walk hwalk => ?_) hw t i
    cases hwalk
    exact ih

/-- A free string's walk stays sound, and a strict replacement in it needs strict mode (R94). -/
theorem takeFree_sound {a : Walk × Nat} (h : a.1.Sound strict room ∧ (0 < a.2 → strict = true)) (t : List NameEntry)
    (i : Item) : (takeFree t strict a i).1.Sound strict room ∧ (0 < (takeFree t strict a i).2 → strict = true) := by
  obtain ⟨hwalk, hcount⟩ := h
  cases i with
  | glyph g => exact ⟨takeItem_sound (descend := none) nofun hwalk t (.glyph g), hcount⟩
  | ref target form =>
    have hw := takeItem_sound (descend := some (walkForm t strict (Config.stackDepth - 1)))
      (fun walk h => by cases h; exact walkForm_sound t _) hwalk t (.ref target form)
    unfold takeFree
    dsimp only
    split
    · next hended =>
      split
      · exact ⟨emitAll_sound hwalk _, fun _ => hw.ended hended⟩
      · exact ⟨hwalk, hcount⟩
    · exact ⟨hw, hcount⟩

/-- What a sound walk delivers. -/
theorem deliver_sound (h : w.Sound strict room) (short : Bool) {k : Nat} (hk : 0 < k → strict = true) :
    (w.deliver short k).glyphs.length ≤ room ∧
    ((w.deliver short k).cut = true → (w.deliver short k).glyphs.length = room) ∧
    ((w.deliver short k).replaced = true → strict = true) ∧ ((w.deliver short k).deep = true → strict = false) := by
  obtain ⟨htotal, hfull, _, hdeep⟩ := h
  refine ⟨by simp only [Walk.deliver]; omega, fun hcut => ?_, fun hr => hk (of_decide_eq_true hr),
    fun hd => hdeep (of_decide_eq_true hd)⟩
  have hzero := hfull hcut
  simp only [Walk.deliver]
  omega

end Sound

/-! ### What is delivered (R90, R94) -/

section Delivered

variable {t : List NameEntry} {strict : Bool} {mode : Selector} {room code : Nat} {e : NameEntry}

/-- The walk of a whole text, from an empty Expansion Stack (R91). -/
def topWalk (t : List NameEntry) (strict : Bool) (room : Nat) (items : List Item) : Walk :=
  walkForm t strict Config.stackDepth items (Walk.start room)

theorem topWalk_eq (t : List NameEntry) (strict : Bool) (room : Nat) (items : List Item) : topWalk t strict room items =
    items.foldl (takeItem t strict (some (walkForm t strict (Config.stackDepth - 1)))) (Walk.start room) := rfl

theorem topWalk_sound (t : List NameEntry) (strict : Bool) (room : Nat) (items : List Item) :
    (topWalk t strict room items).Sound strict room := walkForm_sound t _ items _ (start_sound strict room)

theorem expandName_absent (h : findName t code = none) (strict : Bool) (mode : Selector) (room : Nat) :
    expandName t strict mode room code = expandAbsent code room := by
  simp only [expandName, h]

theorem expandName_replaced (h : findName t code = some e) (hended : (topWalk t strict room (e.form mode)).strict = true) :
    expandName t strict mode room code = ((Walk.start room).emitAll e.fallbackGlyphs).deliver e.short.isSome 1 := by
  simp only [expandName, h]
  exact if_pos hended

theorem expandName_delivered (h : findName t code = some e) (hgoes : (topWalk t strict room (e.form mode)).strict = false) :
    expandName t strict mode room code = (topWalk t strict room (e.form mode)).deliver e.short.isSome 0 := by
  simp only [expandName, h]
  exact if_neg (by rw [← topWalk, hgoes]; nofun)

/-- Where the strict rule does not apply, a free string is walked as a name's form is (R90, R94). -/
theorem foldl_takeFree (t : List NameEntry) (strict : Bool) (k : Nat) (items : List Item) : ∀ w : Walk,
    (items.foldl (takeItem t strict (some (walkForm t strict (Config.stackDepth - 1)))) w).strict = false →
    items.foldl (takeFree t strict) (w, k) =
      (items.foldl (takeItem t strict (some (walkForm t strict (Config.stackDepth - 1)))) w, k) := by
  induction items with
  | nil => exact fun _ _ => rfl
  | cons i items ih =>
    intro w h
    rw [List.foldl_cons] at h
    have hgoes : (takeItem t strict (some (walkForm t strict (Config.stackDepth - 1))) w i).strict = false := by
      by_contra hended
      rw [Bool.not_eq_false] at hended
      rw [foldl_takeItem_strict _ items hended, hended] at h
      cases h
    have hstep : takeFree t strict (w, k) i =
        (takeItem t strict (some (walkForm t strict (Config.stackDepth - 1))) w i, k) := by
      cases i with
      | glyph g => rfl
      | ref target form => exact if_neg (by rw [hgoes]; nofun)
    rw [List.foldl_cons, hstep, ih _ h, List.foldl_cons]

theorem expandFree_delivered {items : List Item} (h : (topWalk t strict room items).strict = false) :
    expandFree t strict room items = (topWalk t strict room items).deliver false 0 := by
  have hwalk := foldl_takeFree t strict 0 items (Walk.start room) h
  unfold expandFree
  rw [hwalk, ← topWalk_eq]

/-- An expansion that walks these items first: of a free string, or of a name in the mode that takes this form (R90). -/
def Expansion.Walks (x : Expansion) (t : List NameEntry) (strict : Bool) (room : Nat) (items : List Item) : Prop :=
  x = expandFree t strict room items ∨ ∃ code e, findName t code = some e ∧
    (e.full = items ∧ x = expandName t strict .full room code ∨
      (e.short = some items ∨ e.short = none ∧ e.full = items) ∧ x = expandName t strict .short room code)

theorem form_short {items : List Item} (h : e.short = some items ∨ e.short = none ∧ e.full = items) :
    e.form .short = items := by
  rcases h with h | ⟨h, hfull⟩
  · simp [NameEntry.form, h]
  · simp [NameEntry.form, h, hfull]

/-- Where the strict rule does not apply, the walk of the items is what is delivered. -/
theorem Expansion.Walks.delivered {x : Expansion} {items : List Item} (h : x.Walks t strict room items)
    (hgoes : (topWalk t strict room items).strict = false) :
    ∃ short, x = (topWalk t strict room items).deliver short 0 := by
  rcases h with rfl | ⟨code, e, he, ⟨rfl, rfl⟩ | ⟨hform, rfl⟩⟩
  · exact ⟨false, expandFree_delivered hgoes⟩
  · exact ⟨_, expandName_delivered (mode := .full) he hgoes⟩
  · rw [← form_short hform] at hgoes ⊢
    exact ⟨_, expandName_delivered he hgoes⟩

/-! ### Glyphs, and one reference among them (R91, R92) -/

theorem topWalk_glyphs (t : List NameEntry) (strict : Bool) (room : Nat) (gs : List Nat) :
    topWalk t strict room (gs.map .glyph) = ⟨gs.take room, room - gs.length, decide (room < gs.length), 0, 0, false⟩ :=
  (foldl_takeItem_glyphs t strict _ gs (Walk.start room) rfl).trans (emitAll_eq gs rfl)

/-- A reference between glyphs that find room is taken after the first and before the others. -/
theorem topWalk_reference {before : List Nat} (after : List Nat) {i : Item} {w : Walk} (hbefore : before.length ≤ room)
    (hw : takeItem t strict (some (walkForm t strict (Config.stackDepth - 1)))
      ⟨before, room - before.length, false, 0, 0, false⟩ i = w)
    (hgoes : w.strict = false) (hcut : w.cut = false) (hafter : after.length ≤ w.room) :
    topWalk t strict room (before.map .glyph ++ i :: after.map .glyph) =
      { w with out := w.out ++ after, room := w.room - after.length } := by
  have hfirst := foldl_takeItem_glyphs t strict (some (walkForm t strict (Config.stackDepth - 1))) before
    (Walk.start room) rfl
  rw [topWalk_eq, List.foldl_append, hfirst, start_emitAll hbefore, List.foldl_cons, hw,
    foldl_takeItem_glyphs _ _ _ _ _ hgoes]
  exact emitAll_fits after w hcut hafter

theorem topWalk_absent {before after : List Nat} {target : Nat} (form : Selector) (ht : findName t target = none)
    (hroom : before.length + 1 + after.length ≤ room) :
    topWalk t strict room (before.map .glyph ++ .ref target form :: after.map .glyph) =
      ⟨before ++ 0xE0 :: after, room - before.length - 1 - after.length, false, 1, 0, false⟩ := by
  have hstep := (takeItem_absent (strict := strict) (some (walkForm t strict (Config.stackDepth - 1)))
    (w := ⟨before, room - before.length, false, 0, 0, false⟩) rfl ht form).trans
    (emitMissing_fits rfl (show 0 < room - before.length by omega))
  rw [topWalk_reference after (by omega) hstep rfl rfl (by dsimp only; omega)]
  simp

theorem walkForm_glyphs (t : List NameEntry) (strict : Bool) (depth : Nat) (gs : List Nat) {w : Walk}
    (h : w.strict = false) : walkForm t strict depth (gs.map .glyph) w = w.emitAll gs := by
  cases depth <;> exact foldl_takeItem_glyphs t strict _ gs w h

theorem topWalk_held {before after inner : List Nat} {target : Nat} {form : Selector} (ht : findName t target = some e)
    (hform : e.form form = inner.map .glyph) (hroom : before.length + inner.length + after.length ≤ room) :
    topWalk t strict room (before.map .glyph ++ .ref target form :: after.map .glyph) =
      ⟨before ++ inner ++ after, room - before.length - inner.length - after.length, false, 0, 0, false⟩ := by
  have hstep := takeItem_held (strict := strict) (w := ⟨before, room - before.length, false, 0, 0, false⟩)
    (walkForm t strict (Config.stackDepth - 1)) rfl ht form
  rw [hform, walkForm_glyphs t strict _ inner rfl,
    emitAll_fits inner ⟨before, room - before.length, false, 0, 0, false⟩ rfl (by dsimp only; omega)] at hstep
  exact topWalk_reference after (by omega) hstep rfl rfl (by dsimp only; omega)

/-! ### A form that refers to itself (R93, R94) -/

/-- The walk goes down to full depth, whatever the depth left. -/
theorem walkForm_selfReference (strict : Bool) (hfind : findName t code = some e) (hself : e.full = [.ref code .full])
    {w : Walk} (hw : w.stopped = false) (depth : Nat) : walkForm t strict depth [.ref code .full] w =
      if strict then { w with strict := true } else w.emitDeep e := by
  induction depth with
  | zero => exact takeItem_deep hw hfind .full
  | succ depth ih =>
    have hdown := takeItem_held (strict := strict) (walkForm t strict depth) hw hfind .full
    rw [show e.form .full = [.ref code .full] from hself, ih] at hdown
    exact hdown

/-- Outside strict mode a self reference after some glyphs gives the fallback (R93). -/
theorem topWalk_selfReference {before : List Nat} (hfind : findName t code = some e)
    (hself : e.full = [.ref code .full]) (hroom : before.length + 3 ≤ room) :
    topWalk t false room (before.map .glyph ++ [.ref code .full]) =
      ⟨before ++ e.fallbackGlyphs, room - before.length - 3, false, 0, 1, false⟩ := by
  have hstep := takeItem_held (strict := false) (w := ⟨before, room - before.length, false, 0, 0, false⟩)
    (walkForm t false (Config.stackDepth - 1)) rfl hfind .full
  rw [show e.form .full = [.ref code .full] from hself, walkForm_selfReference false hfind hself rfl, if_neg nofun,
    emitDeep_fits e rfl (show 3 ≤ room - before.length by omega)] at hstep
  simpa using topWalk_reference [] (by omega) hstep rfl rfl (Nat.zero_le _)

/-- In strict mode a self reference after some glyphs of a free string is replaced by the fallback (R94). -/
theorem expandFree_selfReference {before : List Nat} (hfind : findName t code = some e)
    (hself : e.full = [.ref code .full]) (hroom : before.length + 3 ≤ room) :
    expandFree t true room (before.map .glyph ++ [.ref code .full]) =
      Walk.deliver ⟨before ++ e.fallbackGlyphs, room - before.length - 3, false, 0, 0, false⟩ false 1 := by
  have hbefore : before.length ≤ room := by omega
  have hwalked := foldl_takeItem_glyphs t true (some (walkForm t true (Config.stackDepth - 1))) before
    (Walk.start room) rfl
  rw [start_emitAll hbefore] at hwalked
  have hfirst := foldl_takeFree t true 0 (before.map .glyph) (Walk.start room) (by rw [hwalked])
  rw [hwalked] at hfirst
  have hended := takeItem_held (strict := true) (w := ⟨before, room - before.length, false, 0, 0, false⟩)
    (walkForm t true (Config.stackDepth - 1)) rfl hfind .full
  rw [show e.form .full = [.ref code .full] from hself, walkForm_selfReference true hfind hself rfl] at hended
  have hlast : takeFree t true (⟨before, room - before.length, false, 0, 0, false⟩, 0) (.ref code .full) =
      (Walk.emitAll ⟨before, room - before.length, false, 0, 0, false⟩ e.fallbackGlyphs, 1) := by
    simp only [takeFree, hended, if_true, hfind]
  have hfallback := emitAll_fits e.fallbackGlyphs ⟨before, room - before.length, false, 0, 0, false⟩ rfl
    (show 3 ≤ room - before.length by omega)
  unfold expandFree
  rw [List.foldl_append, hfirst, List.foldl_cons, List.foldl_nil, hlast, hfallback]
  rfl

end Delivered

/-! ### A code without entry (R96) -/

theorem digits_unit {n : Nat} (h : n < 10) : (Nat.toDigits 10 n).map Char.toNat = [0x30 + n] := by
  simp [Nat.toDigits_of_lt_base h, Nat.toNat_digitChar_of_lt_ten h]

theorem digits_more {n : Nat} (h : 10 ≤ n) :
    (Nat.toDigits 10 n).map Char.toNat = (Nat.toDigits 10 (n / 10)).map Char.toNat ++ [0x30 + n % 10] := by
  simp [Nat.toDigits_of_base_le (show 1 < 10 by decide) h,
    Nat.toNat_digitChar_of_lt_ten (Nat.mod_lt n (show 0 < 10 by decide))]

/-- A code of at most four digits is shown in decimal without leading zeros (R96). -/
theorem codeDigits_eq {n : Nat} (h : n < 10000) : codeDigits n = (Nat.toDigits 10 n).map Char.toNat := by
  have hhundreds : n / 10 / 10 = n / 100 := Nat.div_div_eq_div_mul ..
  have hthousands : n / 100 / 10 = n / 1000 := Nat.div_div_eq_div_mul ..
  unfold codeDigits
  split
  · next hunits => exact (digits_unit hunits).symm
  · rw [digits_more (by omega)]
    split
    · rw [digits_unit (by omega)]
      rfl
    · rw [digits_more (by omega), hhundreds]
      split
      · rw [digits_unit (by omega)]
        rfl
      · rw [digits_more (by omega), hthousands, digits_unit (by omega)]
        rfl

theorem codeDigits_length (n : Nat) : (codeDigits n).length ≤ 4 := by
  unfold codeDigits
  split_ifs <;> simp

/-- A code without entry in a room that its digits fit. -/
theorem expandAbsent_fits {code room : Nat} (h : 4 ≤ room) :
    (expandAbsent code room).cut = false ∧ (expandAbsent code room).missing = decide (4080 ≤ code) ∧
    (expandAbsent code room).glyphs = if 4080 ≤ code then [0xE0] else codeDigits code := by
  have hlen : (if 4080 ≤ code then [0xE0] else codeDigits code).length ≤ room := by
    split
    · exact Nat.le_trans (by decide) h
    · exact (codeDigits_length code).trans h
  have hpos : 0 < room := by omega
  simp only [expandAbsent, decide_eq_true_eq, start_emitAll hlen, decide_eq_true hpos, Bool.and_true, and_self]

/-! ### The statement -/

/-- Every name request keeps to its room, and strict replacement gives the entry's fallback (R94, R95). -/
theorem expandName_within (t : List NameEntry) (strict : Bool) (mode : Selector) (room code : Nat) {x : Expansion}
    (hx : x = expandName t strict mode room code) :
    x.glyphs.length ≤ room ∧ (x.cut = true → x.glyphs.length = room) ∧ (x.replaced = true → strict = true) ∧
      (x.deep = true → strict = false) ∧
      (x.replaced = true → ∃ e, findName t code = some e ∧
        x.glyphs = [e.fallback.1, e.fallback.2.1, e.fallback.2.2].take room) := by
  subst hx
  cases hfind : findName t code with
  | none =>
    rw [expandName_absent hfind]
    obtain ⟨hroom, hcut, _⟩ := deliver_sound (emitAll_sound (start_sound strict room)
      (if decide (4080 ≤ code) = true then [0xE0] else codeDigits code)) false (k := 0) nofun
    exact ⟨hroom, hcut, nofun, nofun, nofun⟩
  | some e =>
    have hwalk := topWalk_sound t strict room (e.form mode)
    cases hended : (topWalk t strict room (e.form mode)).strict with
    | true =>
      rw [expandName_replaced hfind hended]
      obtain ⟨hroom, hcut, hreplaced, hdeep⟩ := deliver_sound
        (emitAll_sound (start_sound strict room) e.fallbackGlyphs) e.short.isSome (k := 1) fun _ => hwalk.ended hended
      exact ⟨hroom, hcut, hreplaced, hdeep, fun _ => ⟨e, rfl, congrArg Walk.out (emitAll_eq e.fallbackGlyphs rfl)⟩⟩
    | false =>
      rw [expandName_delivered hfind hended]
      obtain ⟨hroom, hcut, hreplaced, hdeep⟩ := deliver_sound hwalk e.short.isSome (k := 0) nofun
      exact ⟨hroom, hcut, hreplaced, hdeep, nofun⟩

/-- Settles O31: every walk keeps to its room, and the walks of glyphs, of one reference and of a self reference are
delivered. -/
theorem expansionFitsItsRoom : Obligations.ExpansionFitsItsRoom := by
  refine ⟨fun t strict mode room code x => expandName_within t strict mode room code, ?free, ?absent, ?items, ?self⟩
  case free =>
    rintro t strict room items x rfl
    obtain ⟨hwalk, hcount⟩ := List.foldlRecOn items (takeFree t strict) (b := (Walk.start room, 0))
      (motive := fun a => a.1.Sound strict room ∧ (0 < a.2 → strict = true))
      ⟨start_sound strict room, nofun⟩ fun _ h i _ => takeFree_sound h t i
    exact deliver_sound hwalk false hcount
  case absent =>
    intro t strict mode room code hfind hroom
    obtain ⟨hcut, hmissing, hglyphs⟩ := expandAbsent_fits (code := code) hroom
    rw [expandName_absent hfind, hglyphs]
    exact ⟨rfl, hcut, hmissing, fun h => if_pos h,
      fun h => (if_neg (by omega)).trans (codeDigits_eq (by omega))⟩
  case items =>
    intro t strict room items x hx
    replace hx : x.Walks t strict room items := hx
    refine ⟨fun gs hitems => ?_, fun before after target form hitems hfind hroom => ?_,
      fun before after inner target form e hitems hfind hroom hform => ?_⟩ <;> subst hitems
    · have hwalk := topWalk_glyphs t strict room gs
      obtain ⟨short, rfl⟩ := hx.delivered (by rw [hwalk])
      rw [hwalk]
      exact ⟨rfl, rfl, rfl, rfl, rfl, rfl⟩
    · have hwalk := topWalk_absent (strict := strict) form hfind hroom
      obtain ⟨short, rfl⟩ := hx.delivered (by rw [hwalk])
      rw [hwalk]
      exact ⟨rfl, rfl, rfl, rfl, rfl⟩
    · have hinner : e.form form = inner.map .glyph := by
        rcases hform with ⟨rfl, hfull⟩ | ⟨rfl, hshort⟩
        · exact hfull
        · exact form_short hshort
      have hwalk := topWalk_held (strict := strict) hfind hinner hroom
      obtain ⟨short, rfl⟩ := hx.delivered (by rw [hwalk])
      rw [hwalk]
      exact ⟨rfl, rfl, rfl, rfl, rfl⟩
  case self =>
    rintro t strict room code e before x y hfind hself hroom rfl rfl
    have hform : e.form .full = [.ref code .full] := hself
    cases strict with
    | false =>
      have hname := topWalk_selfReference (before := []) (room := room) hfind hself (by simp; omega)
      have hfree := topWalk_selfReference hfind hself hroom
      rw [List.map_nil, List.nil_append, ← hform] at hname
      rw [expandName_delivered hfind (by rw [hname]), expandFree_delivered (by rw [hfree]), hname, hfree]
      exact ⟨rfl, rfl, rfl, rfl, rfl, rfl, rfl, rfl⟩
    | true =>
      have hended : (topWalk t true room (e.form .full)).strict = true := by
        rw [hform, topWalk, walkForm_selfReference true hfind hself rfl]
        rfl
      have hfallback : e.fallbackGlyphs.length ≤ room := show 3 ≤ room by omega
      rw [expandName_replaced hfind hended, start_emitAll hfallback, expandFree_selfReference hfind hself hroom]
      exact ⟨rfl, rfl, rfl, rfl, rfl, rfl, rfl, rfl⟩

end Sys2Proof.Machine
end

section
/-! PROOFS. The Font Store: what a Font Define and a Glyph Put leave of the records (R104 to R107), and that every record stays in
its ranges (R102, R103). -/

namespace Sys2Proof.Machine

/-! ### Lists by key -/

/-- A value put under a key brings no other pair. -/
theorem mem_of_mem_keyedPut {α : Type} {k : Nat} {v : α} {l : List (Nat × α)} {x : Nat × α} (h : x ∈ keyedPut k v l) :
    x = (k, v) ∨ x ∈ l := by
  induction l with
  | nil => exact Or.inl (List.mem_singleton.1 h)
  | cons y ys ih =>
    unfold keyedPut at h
    split at h
    · exact List.mem_cons.1 h
    · split at h
      · exact (List.mem_cons.1 h).imp_right (List.mem_cons_of_mem y)
      · rcases List.mem_cons.1 h with rfl | h
        · exact Or.inr (List.mem_cons_self ..)
        · exact (ih h).imp_right (List.mem_cons_of_mem y)

/-! ### Records by id (R102) -/

/-- A record read after one was replaced is the new one or the one it was. -/
theorem Fonts.get_set_cases (f : Fonts) (i : Nat) (r : FontRecord) (j : Nat) :
    (f.set i r).get j = r ∨ (f.set i r).get j = f.get j := by
  unfold Fonts.set Fonts.get
  split <;> split <;> simp

/-! ### Values clamped (R104, R106) -/

theorem clamp_eq_self_iff (lo hi v : Nat) : clamp lo hi v = v ↔ lo ≤ v ∧ v ≤ hi := by
  unfold clamp
  split
  · omega
  · split <;> omega

/-- A frame is DONE when no value needed a clamp, and ADJUSTED otherwise. -/
theorem doneOr_eq_ite {changed : Bool} {inRange : Prop} [Decidable inRange] (h : changed = true ↔ ¬ inRange) :
    doneOr changed = if inRange then .done else .adjusted := by
  unfold doneOr
  by_cases hr : inRange
  · rw [if_pos hr, if_neg fun hc => h.1 hc hr]
  · rw [if_neg hr, if_pos (h.2 hr)]

theorem b8_toNat {n : Nat} (h : n ≤ 255) : (b8 n).toNat = n := Nat.mod_eq_of_lt (Nat.lt_succ_of_le h)

/-! ### Font Define (R104, R105) -/

/-- A Font Define of a font, by its table and with clamped values. -/
theorem defineFont_font (f : Fonts) {p : List Byte} {id height nominal minimum : Nat} (hid : id ≤ 3) (hheight : height ≤ 255)
    (hnominal : nominal ≤ 255) (hminimum : minimum ≤ 255) (hp : p = [b8 id, b8 height, b8 nominal, b8 minimum]) :
    defineFont f p =
      ⟨f.set id ((f.get id).define (clamp 5 16 height) (min nominal 3) (min minimum (min nominal 3))),
        if 5 ≤ height ∧ height ≤ 16 ∧ nominal ≤ 3 ∧ minimum ≤ nominal then .done else .adjusted⟩ := by
  have h0 : u8 p 0 = id := hp ▸ b8_toNat (by omega)
  have h1 : u8 p 1 = height := hp ▸ b8_toNat hheight
  have h2 : u8 p 2 = nominal := hp ▸ b8_toNat hnominal
  have h3 : u8 p 3 = minimum := hp ▸ b8_toNat hminimum
  have hlen : p.length = 4 := hp ▸ rfl
  unfold defineFont
  dsimp only
  rw [h0, h1, h2, h3, if_neg (by omega), if_neg (by omega)]
  congr 1
  refine doneOr_eq_ite ?_
  have hclamp := clamp_eq_self_iff 5 16 height
  simp only [Bool.or_eq_true, decide_eq_true_eq, ne_eq, hclamp]
  omega

/-- A Font Define of the Symbol Set carries gaps that take no part. -/
theorem defineFont_symbols (f : Fonts) {p : List Byte} {height : Nat} (hheight : height ≤ 255) {nominal minimum : Byte}
    (hp : p = [4, b8 height, nominal, minimum]) :
    defineFont f p = ⟨f.set 4 (f.symbols.define (clamp 5 16 height) 0 0),
      if 5 ≤ height ∧ height ≤ 16 then .done else .adjusted⟩ := by
  have h0 : u8 p 0 = 4 := hp ▸ rfl
  have h1 : u8 p 1 = height := hp ▸ b8_toNat hheight
  have hlen : p.length = 4 := hp ▸ rfl
  unfold defineFont
  dsimp only
  rw [h0, h1, if_neg (by omega), if_pos rfl]
  refine congrArg (FontResult.mk _) (doneOr_eq_ite ?_)
  rw [decide_eq_true_iff, ne_eq, clamp_eq_self_iff]

/-! ### Bitmaps (R107) -/

theorem bitmapRows_length (perRow advance : Nat) (n : Nat) : ∀ bytes : List Byte,
    (bitmapRows bytes perRow advance n).length = n := by
  induction n with
  | zero => exact fun _ => rfl
  | succ n ih => exact fun bytes => congrArg Nat.succ (ih _)

/-- A pixel of a row is a bit of the byte that holds its column, the most significant one first. -/
theorem rowPixels_pixel {bytes : List Byte} {advance x : Nat} (h : x < advance) :
    (rowPixels bytes advance).getD x false = (bytes.getD (x / 8) 0).getLsbD (7 - x % 8) := by
  simp [rowPixels, List.getD_eq_getElem?_getD, h]

/-- A pixel of a bitmap is a bit of its row's bytes, the rows one after another from the top. -/
theorem bitmapRows_pixel {perRow advance x : Nat} (hx : x < advance) (hrow : advance ≤ 8 * perRow) (n : Nat) :
    ∀ (bytes : List Byte) (y : Nat), y < n → ((bitmapRows bytes perRow advance n).getD y []).getD x false =
      (bytes.getD (y * perRow + x / 8) 0).getLsbD (7 - x % 8) := by
  have hbyte : x / 8 < perRow := by omega
  induction n with
  | zero => exact fun _ _ hy => absurd hy (Nat.not_lt_zero _)
  | succ n ih =>
    intro bytes y hy
    cases y with
    | zero =>
      refine (rowPixels_pixel hx).trans ?_
      simp [List.getD_eq_getElem?_getD, hbyte]
    | succ y =>
      refine (ih (bytes.drop perRow) y (Nat.lt_of_succ_lt_succ hy)).trans ?_
      rw [List.getD_eq_getElem?_getD, List.getD_eq_getElem?_getD, List.getElem?_drop,
        show perRow + (y * perRow + x / 8) = (y + 1) * perRow + x / 8 by rw [Nat.succ_mul]; omega]

/-! ### Glyph Put (R106, R107) -/

/-- The code stands in the range of its record (R106). -/
theorem codeBelongs_of_range {id code : Nat} (hfont : id < 4 → code ≤ 0xDF) (hsymbol : id = 4 → 0xE0 ≤ code)
    (hid : id ≤ 4) (hcode : code ≤ 0xFF) : codeBelongs id code = true := by
  unfold codeBelongs
  split
  · next h => simp [hsymbol h, hcode]
  · next h =>
    have := hfont (by omega)
    exact decide_eq_true (by omega)

/-- The cell that a Glyph Put loads: the clamped advance, and the bitmap's rows. -/
def Cell.ofBitmap (advance height : Nat) (bytes : List Byte) : Cell :=
  ⟨advance, bitmapRows bytes ((advance + 7) / 8) advance height⟩

/-- A Glyph Put of a sound form: the record's state, then the length, decide it (R106). -/
theorem putGlyph_formed (f : Fonts) {p : List Byte} {id code adv a : Nat} {bytes : List Byte} {r : FontRecord} (hid : id ≤ 4)
    (hcode : code ≤ 0xFF) (hadv : adv ≤ 255) (hbelongs : codeBelongs id code = true)
    (hp : p = b8 id :: b8 code :: b8 adv :: bytes) (hr : r = f.get id) (ha : a = clamp 1 16 adv) :
    putGlyph f p =
      if r.defined = false then ⟨f, .notFound⟩
      else if bytes.length ≠ r.height * ((a + 7) / 8) then ⟨f, .malformed⟩
      else ⟨f.set id { r with cells := keyedPut code (Cell.ofBitmap a r.height bytes) r.cells },
        if 1 ≤ adv ∧ adv ≤ 16 then .done else .adjusted⟩ := by
  have h0 : u8 p 0 = id := hp ▸ b8_toNat (by omega)
  have h1 : u8 p 1 = code := hp ▸ b8_toNat hcode
  have h2 : u8 p 2 = adv := hp ▸ b8_toNat hadv
  have hlen : p.length = bytes.length + 3 := hp ▸ rfl
  have hbytes : p.drop 3 = bytes := hp ▸ rfl
  have hform : ¬ (bytes.length + 3 < 3 ∨ 4 < id ∨ codeBelongs id code = false) := by
    rw [hbelongs]
    simp only [Bool.true_eq_false, or_false]
    omega
  have hout : doneOr (decide (a ≠ adv)) = if 1 ≤ adv ∧ adv ≤ 16 then .done else .adjusted := by
    refine doneOr_eq_ite ?_
    rw [decide_eq_true_iff, ne_eq, ha, clamp_eq_self_iff]
  unfold putGlyph
  dsimp only
  rw [h0, h1, h2, hbytes, hlen, Nat.add_sub_cancel, if_neg hform, ← hr, ← ha, hout]
  rfl

/-! ### The frames complete (R12) -/

/-- The Font Store's owner leaves the same state but for the port whatever the feed counters are. -/
theorem State.SameButPort.setFonts {t u : State} (h : t.SameButPort u) (f : Fonts) :
    ({ t with fonts := f } : State).SameButPort { u with fonts := f } :=
  ⟨congrArg (fun x : State => { x with fonts := f }) h.1, h.2⟩

section Complete

variable {f : FeedFrame} {s : State} {r : FontResult} (h : s.TakesData f)
include h

theorem fontDefine_completes (hr : defineFont s.fonts f.payload = r) :
    Completes (.fontDefine f) f .fontDefine s { s with fonts := r.fonts } r.code :=
  dataFrame_completes rfl rfl h (congrArg s.arrived.takeFonts hr) ((arrived_sameButPort s).setFonts r.fonts) rfl

theorem glyphPut_completes (hr : putGlyph s.fonts f.payload = r) :
    Completes (.glyphPut f) f .glyphPut s { s with fonts := r.fonts } r.code :=
  dataFrame_completes rfl rfl h (congrArg s.arrived.takeFonts hr) ((arrived_sameButPort s).setFonts r.fonts) rfl

end Complete

/-- Settles O32: each frame's result by its table, taken into the state; a pixel of the cell is a bit of its bitmap. -/
theorem fontFramesLoadCells : Obligations.FontFramesLoadCells := by
  refine ⟨fun f s id height nominal minimum r htakes hid hheight hnominal hminimum hp hr => ?font,
    fun f s height nominal minimum htakes hheight hp => ?symbols,
    fun f s id code adv a bytes r htakes hid hfont hsymbol hcode hadv hp hr => ?glyph⟩
  case font =>
    subst hr
    exact fontDefine_completes htakes (defineFont_font s.fonts hid hheight hnominal hminimum hp)
  case symbols => exact fontDefine_completes htakes (defineFont_symbols s.fonts hheight hp)
  case glyph =>
    have hput {w : Nat} (hw : w = clamp 1 16 adv) := putGlyph_formed s.fonts hid hcode hadv
      (codeBelongs_of_range hfont hsymbol hid hcode) hp hr hw
    refine ⟨fun hundef => ?undefined, fun hdef ha hlen => ?malformed, fun hdef ha hlen => ?loaded⟩
    case undefined => exact glyphPut_completes htakes ((hput rfl).trans (if_pos hundef))
    case malformed =>
      have hnot : ¬ r.defined = false := by rw [hdef]; decide
      exact glyphPut_completes htakes ((hput ha).trans ((if_neg hnot).trans (if_pos hlen)))
    case loaded =>
      have hnot : ¬ r.defined = false := by rw [hdef]; decide
      refine ⟨Cell.ofBitmap a r.height bytes, rfl, bitmapRows_length _ _ _ _, fun y x hy hx => ?pixel, ?completes⟩
      case pixel => exact bitmapRows_pixel hx (by omega) r.height bytes y hy
      case completes =>
        exact glyphPut_completes htakes ((hput ha).trans ((if_neg hnot).trans (if_neg (not_not_intro hlen))))

/-! ### Every step keeps the records in their ranges (R102, R103) -/

/-- The Font Store's part of `State.FontsSound`. -/
def Fonts.Sound (f : Fonts) : Prop := ∀ id : Fin 5, (f.get id.val).Sound

theorem fontsSound_iff (s : State) : s.FontsSound ↔ s.fonts.Sound := Iff.rfl

theorem undefined_sound : FontRecord.undefined.Sound := by decide

theorem fontsEmpty_sound : Fonts.empty.Sound := fun id => (fontsEmpty_get id.val).symm ▸ undefined_sound

theorem Fonts.Sound.get {f : Fonts} (h : f.Sound) {id : Nat} (hid : id ≤ 4) : (f.get id).Sound :=
  h ⟨id, Nat.lt_succ_of_le hid⟩

theorem Fonts.Sound.set {f : Fonts} (h : f.Sound) {r : FontRecord} (hr : r.Sound) (id : Nat) : (f.set id r).Sound := by
  intro j
  rcases f.get_set_cases id r j.val with e | e <;> rw [e]
  · exact hr
  · exact h j

/-- The cells kept by a Define have the height they had (R105). -/
theorem FontRecord.Sound.define {r : FontRecord} (h : r.Sound) {height nominal minimum : Nat} (hlo : 5 ≤ height)
    (hhi : height ≤ 16) (hnominal : nominal ≤ 3) (hminimum : minimum ≤ nominal) :
    (r.define height nominal minimum).Sound := by
  obtain ⟨_, _, _, _, hcells⟩ := h
  refine ⟨fun _ => ⟨hlo, hhi⟩, nofun, hnominal, hminimum, fun c hc => ?_⟩
  unfold FontRecord.define at hc ⊢
  dsimp only at hc ⊢
  split at hc
  · next hkept => exact hkept.2 ▸ hcells c hc
  · exact absurd hc List.not_mem_nil

/-- A cell loaded into a DEFINED record has the record's height (R103, R107). -/
theorem FontRecord.Sound.load {r : FontRecord} (h : r.Sound) (hdef : r.defined ≠ false) (code : Nat) {cell : Cell}
    (hlo : 1 ≤ cell.advance) (hhi : cell.advance ≤ 16) (hrows : cell.rows.length = r.height) :
    ({ r with cells := keyedPut code cell r.cells } : FontRecord).Sound := by
  obtain ⟨hheight, _, hnominal, hminimum, hcells⟩ := h
  refine ⟨hheight, fun hd => absurd hd hdef, hnominal, hminimum, fun c hc => ?_⟩
  rcases mem_of_mem_keyedPut hc with rfl | hc
  · exact ⟨hlo, hhi, hrows⟩
  · exact hcells c hc

theorem defineFont_sound {f : Fonts} (h : f.Sound) (p : List Byte) : (defineFont f p).fonts.Sound := by
  obtain ⟨hlo, hhi⟩ := clamp_bounds (by decide : 5 ≤ 16) (u8 p 1)
  unfold defineFont
  split
  · exact h
  · next hform =>
    have hrecord := h.get (id := u8 p 0) (by omega)
    dsimp only
    split
    · exact h.set ((h.get (Nat.le_refl 4)).define hlo hhi (Nat.zero_le _) (Nat.zero_le _)) 4
    · exact h.set (hrecord.define hlo hhi (Nat.min_le_right _ _) (Nat.min_le_right _ _)) _

theorem putGlyph_sound {f : Fonts} (h : f.Sound) (p : List Byte) : (putGlyph f p).fonts.Sound := by
  obtain ⟨hlo, hhi⟩ := clamp_bounds (by decide : 1 ≤ 16) (u8 p 2)
  unfold putGlyph
  split
  · exact h
  · next hform =>
    have hrecord := h.get (id := u8 p 0) (by omega)
    split
    · exact h
    · next hdef =>
      dsimp only
      split
      · exact h
      · exact h.set (hrecord.load hdef _ hlo hhi (bitmapRows_length _ _ _ _)) _

theorem fontsSound_of_eq {s t : State} (e : t.fonts = s.fonts) (h : s.FontsSound) : t.FontsSound := by
  rw [fontsSound_iff, e]
  exact h

/-- A setting touches neither the fonts nor the heads (R188). -/
theorem applySetting_fonts_heads (s : State) (n v : Nat) :
    (s.applySetting n v).1.fonts = s.fonts ∧ (s.applySetting n v).1.heads = s.heads := by
  unfold State.applySetting
  split
  case h_3 =>
    unfold State.setOwnPlatform
    split <;> exact ⟨rfl, rfl⟩
  case h_4 =>
    unfold State.setDayStart
    split <;> exact ⟨rfl, rfl⟩
  case h_15 =>
    unfold State.setSyncSource
    dsimp only
    generalize (if v = 0 then SyncSource.internal else .fsync) = source
    split <;> exact ⟨rfl, rfl⟩
  all_goals exact ⟨rfl, rfl⟩

theorem fontsSound_invariant : StoreInvariant State.FontsSound where
  same e h := fontsSound_of_eq (congrArg Stores.fonts e) h
  board := by
    intro s k hk p h
    have hkeeps : ∀ r : BoardResult, (s.takeBoard r).1.FontsSound := fun r =>
      fontsSound_of_eq (congrArg Stores.fonts ((raiseAll_stores _ _).trans (bumpAll_stores _ _))) h
    simp only [List.mem_cons, List.not_mem_nil, or_false] at hk
    rcases hk with rfl | rfl | rfl | rfl | rfl <;> exact hkeeps _
  names _ _ _ h := h
  fonts := by
    intro s p f hf h
    simp only [List.mem_cons, List.not_mem_nil, or_false] at hf
    rcases hf with rfl | rfl
    · exact defineFont_sound h p
    · exact putGlyph_sound h p
  setting n v h := fontsSound_of_eq (applySetting_fonts_heads _ n v).1 h
  advance h := h
  edge _ h := h
  loss _ h := h
  instant h := h
  time _ h := h
  departures _ _ h := h
  builds h := h
  restart _ := fontsEmpty_sound
  reset _ _ := fontsEmpty_sound

end Sys2Proof.Machine
end

section
/-! PROOFS. What the Panel Link, the feed port and the stores leave of the heads' records: all of it. -/

namespace Sys2Proof.Machine

/-! ### The Panel Link with the Frame Store -/

/-- Two states agree but for the Panel Link, the buffers and the counters. -/
def State.LinkOnly (s t : State) : Prop := t = { s with link := t.link, buffers := t.buffers, counters := t.counters }

theorem State.LinkOnly.trans {a b c : State} (h : a.LinkOnly b) (g : b.LinkOnly c) : a.LinkOnly c := by
  unfold State.LinkOnly at *
  rw [g, h]

theorem State.LinkOnly.heads {s t : State} (h : s.LinkOnly t) : t.heads = s.heads := (congrArg State.heads h).trans rfl

theorem bumpOpt_linkOnly (s : State) (c : Option Ctr) : s.LinkOnly (s.bumpOpt c) := by
  cases c <;> rfl

theorem setLinkHead_linkOnly (s : State) (i : HeadIx) (l : LinkHead) : s.LinkOnly (s.setLinkHead i l) := rfl

theorem setSending_linkOnly (s : State) (f : Option HeadFrame) : s.LinkOnly (s.setSending f) := rfl

theorem setBuffers_linkOnly (s : State) (i : HeadIx) (b : Buffers) : s.LinkOnly (s.setBuffers i b) := rfl

theorem swapIfReady_linkOnly (s : State) (i : HeadIx) : s.LinkOnly (s.swapIfReady i) := by
  rcases swapIfReady_cases s i with e | e <;> rw [e] <;> rfl

theorem clearBuffers_linkOnly (s : State) (i : HeadIx) : s.LinkOnly (s.clearBuffers i) := by
  unfold State.clearBuffers
  split
  · split <;> rfl
  · rfl

theorem beginFrame_linkOnly (s : State) (i : HeadIx) (h : Head) : s.LinkOnly (s.beginFrame i h) := by
  unfold State.beginFrame
  dsimp only
  split <;> rfl

theorem nextOfRound_linkOnly (l : List HeadIx) (s : State) : s.LinkOnly (s.nextOfRound l) := by
  induction l with
  | nil => rfl
  | cons i l ih =>
    unfold State.nextOfRound
    split
    · exact beginFrame_linkOnly _ i _
    · exact ih

theorem frameRound_linkOnly (s : State) : s.LinkOnly s.frameRound := by
  have h := (frameRound_frame s).1
  unfold State.LinkOnly
  rw [h]

theorem loseLink_linkOnly (s : State) (o : Ownership) : s.LinkOnly (s.loseLink o) :=
  forHeads_keeps (P := s.LinkOnly) (fun i t h => h.trans (swapIfReady_linkOnly t i)) rfl

theorem lreqSeen_linkOnly (s : State) : s.LinkOnly s.lreqSeen := by
  unfold State.lreqSeen
  split
  · split
    · rfl
    · exact loseLink_linkOnly s _
  · rfl

theorem lreqGone_linkOnly (s : State) : s.LinkOnly s.lreqGone := by
  unfold State.lreqGone
  split
  · split <;> rfl
  · rfl

theorem seeActivity_linkOnly (s : State) : s.LinkOnly s.seeActivity := by
  unfold State.seeActivity
  split <;> rfl

theorem lgntSeen_linkOnly (s : State) : s.LinkOnly s.lgntSeen := by
  unfold State.lgntSeen
  split <;> rfl

theorem windowExpires_linkOnly (s : State) : s.LinkOnly s.windowExpires := by
  unfold State.windowExpires
  split
  · split <;> rfl
  · rfl

theorem takeLinkRequest_linkOnly (s : State) : s.LinkOnly s.takeLinkRequest.1 := by
  unfold State.takeLinkRequest
  split
  · rfl
  · split <;> rfl

theorem giveLinkRequest_linkOnly (s : State) : s.LinkOnly s.giveLinkRequest.1 := by
  unfold State.giveLinkRequest
  split
  · rfl
  · split
    · split
      · rfl
      · dsimp only
        exact loseLink_linkOnly s _
    all_goals rfl

theorem afterFrame_linkOnly (s : State) : s.LinkOnly s.afterFrame := by
  unfold State.afterFrame State.continueRound
  split
  · exact loseLink_linkOnly s _
  · split
    · exact loseLink_linkOnly s _
    · split
      · exact nextOfRound_linkOnly _ s
      · rfl

theorem endFrame_linkOnly (s : State) (f : HeadFrame) (e : FrameEnd) : s.LinkOnly (s.endFrame f e) := by
  have hcounted := bumpOpt_linkOnly s e.counter
  have hanswered : s.LinkOnly (if f.void then s.bumpOpt e.counter else
      (s.bumpOpt e.counter).setLinkHead f.head (((s.bumpOpt e.counter).link.heads.get f.head).after e)) := by
    split
    · exact hcounted
    · exact hcounted.trans (setLinkHead_linkOnly _ _ _)
  unfold State.endFrame
  exact (((hanswered.trans (setSending_linkOnly _ _)).trans (setBuffers_linkOnly _ _ _)).trans
    (swapIfReady_linkOnly _ _)).trans (afterFrame_linkOnly _)

theorem takeAck_linkOnly (s : State) (head ambient : Byte) : s.LinkOnly (s.takeAck head ambient) := by
  unfold State.takeAck
  split
  · split
    · exact endFrame_linkOnly s _ _
    · rfl
  · rfl

theorem takeNak_linkOnly (s : State) (head code : Byte) : s.LinkOnly (s.takeNak head code) := by
  unfold State.takeNak
  split
  · split
    · exact endFrame_linkOnly s _ _
    · rfl
  · rfl

theorem takeAnswer_linkOnly (s : State) (a : Option Answer) : s.LinkOnly (s.takeAnswer a) := by
  unfold State.takeAnswer
  split
  · exact takeAck_linkOnly s _ _
  · exact takeNak_linkOnly s _ _
  · rfl

theorem takeGroups_linkOnly (s : State) (groups : List (BitVec 5)) : s.LinkOnly (s.takeGroups groups) := by
  unfold State.takeGroups
  refine List.foldlRecOn _ State.takeAnswer (motive := s.LinkOnly) ?_ fun t h a _ => h.trans (takeAnswer_linkOnly t a)
  split
  · exact seeActivity_linkOnly s
  · rfl

theorem ackTimesOut_linkOnly (s : State) : s.LinkOnly s.ackTimesOut := by
  unfold State.ackTimesOut
  split
  · exact endFrame_linkOnly s _ _
  · rfl

theorem testHold_linkOnly (s : State) (f : HeadFrame) (y : Nat) (holdn : Bool) : s.LinkOnly (s.testHold f y holdn) := by
  unfold State.testHold
  split <;> rfl

theorem headerDone_linkOnly (s : State) (holdn : Bool) : s.LinkOnly (s.headerDone holdn) := by
  unfold State.headerDone
  split
  · split
    · exact testHold_linkOnly s _ _ _
    all_goals rfl
  · rfl

theorem rowDone_linkOnly (s : State) (holdn : Bool) : s.LinkOnly (s.rowDone holdn) := by
  unfold State.rowDone
  split
  · split
    · split
      · exact testHold_linkOnly s _ _ _
      · rfl
    all_goals rfl
  · rfl

theorem holdReleased_linkOnly (s : State) : s.LinkOnly s.holdReleased := by
  unfold State.holdReleased
  split
  · split <;> rfl
  · rfl

theorem holdExpires_linkOnly (s : State) : s.LinkOnly s.holdExpires := by
  unfold State.holdExpires
  split
  · split
    · exact endFrame_linkOnly s _ _
    all_goals rfl
  · rfl

theorem putBrightness_linkOnly (s : State) (p : List Byte) : s.LinkOnly (s.putBrightness p).1 := by
  unfold State.putBrightness
  split <;> rfl

/-! ### Counters, events and compositions -/

theorem bumpAll_heads (l : List Ctr) : ∀ s : State, (s.bumpAll l).heads = s.heads := by
  induction l with
  | nil => exact fun _ => rfl
  | cons c l ih => exact fun s => ih (s.bump c)

theorem raiseAll_heads (l : List Event) : ∀ s : State, (s.raiseAll l).heads = s.heads := by
  induction l with
  | nil => exact fun _ => rfl
  | cons e l ih => exact fun s => ih (s.raise e)

theorem tally_heads (s : State) (l : List (Ctr × Nat)) : (s.tally l).heads = s.heads :=
  (congrArg State.heads (tally_frame l s)).trans rfl

theorem abandon_heads (s : State) (i : HeadIx) : (s.abandon i).heads = s.heads := (abandon_at s i).2.2.2.1

theorem completeComp_heads (s : State) (i : HeadIx) : (s.completeComp i).heads = s.heads :=
  (swapIfReady_linkOnly _ i).heads

theorem completeIfLast_heads (s : State) (i : HeadIx) (painted : Nat) : (s.completeIfLast i painted).heads = s.heads := by
  unfold State.completeIfLast
  split
  · split
    · exact completeComp_heads s i
    · rfl
  · rfl

/-! ### The stores and Management -/

theorem takeBoard_heads (s : State) (r : BoardResult) : (s.takeBoard r).1.heads = s.heads :=
  (raiseAll_heads _ _).trans (bumpAll_heads _ _)

theorem takeNames_heads (s : State) (r : NameResult) : (s.takeNames r).1.heads = s.heads := bumpAll_heads _ _

theorem timeFrame_heads (s : State) (p : List Byte) : (s.timeFrame p).1.heads = s.heads := by
  unfold State.timeFrame
  split
  · rfl
  · dsimp only
    split <;> rfl

theorem applyPairs_heads (s : State) (l : List (Nat × Nat)) : (s.applyPairs l).1.heads = s.heads :=
  List.foldlRecOn l _ (motive := fun r : State × Bool => r.1.heads = s.heads) rfl fun r h p _ =>
    (applySetting_fonts_heads r.1 p.1 p.2).2.trans h

theorem configure_heads (s : State) (p : List Byte) : (s.configure p).1.heads = s.heads := by
  unfold State.configure
  split
  · rfl
  · exact applyPairs_heads s _

theorem freezeSecond_heads (s : State) : s.freezeSecond.heads = s.heads := by
  unfold State.freezeSecond
  split
  · split <;> rfl
  · rfl

theorem unfreeze_heads (s : State) : s.unfreeze.1.heads = s.heads := by
  unfold State.unfreeze
  split <;> rfl

theorem fill_heads (l : List (Option Byte)) : ∀ s : State, (s.fill l).2.heads = s.heads := by
  induction l with
  | nil => exact fun _ => rfl
  | cons b l ih =>
    intro s
    cases b with
    | none => exact ih s.takeFreeByte.2
    | some b => exact ih s

theorem counterRead_heads (s : State) (x : Header) : (s.counterRead x).1.heads = s.heads := by
  unfold State.counterRead
  split
  · dsimp only
    split <;> rfl
  · rfl

theorem readRequest_heads (s : State) (a : ReadAnswer) : (s.readRequest a).1.heads = s.heads := fill_heads _ _

theorem assignAddress_heads (s : State) (x : Header) : (s.assignAddress x).1.heads = s.heads := by
  unfold State.assignAddress
  split
  · rfl
  · split
    · split <;> rfl
    · rfl

/-! ### The feed port -/

theorem forward_heads (s : State) (body : List Byte) (h : Header) : (s.forward body h).heads = s.heads := by
  rcases forward_cases s body h with e | e | e <;> rw [e] <;> rfl

theorem offerReply_heads (s : State) (tag : Byte) (r : Reply) : (s.offerReply tag r).heads = s.heads := by
  rcases offerReply_cases s tag r with ⟨_, e⟩ | ⟨_, e⟩ <;> rw [e] <;> rfl

theorem offerOpt_heads (s : State) (tag : Byte) (r : Option Reply) : (s.offerOpt tag r).heads = s.heads := by
  cases r with
  | none => rfl
  | some r => exact offerReply_heads s tag r

theorem unknownKind_heads (s : State) (body : List Byte) (h : Header) : (s.unknownKind body h).heads = s.heads := by
  have hsent := forward_heads (s.bump .unknownKind) body h
  unfold State.unknownKind
  dsimp only
  split
  · exact (offerReply_heads _ _ _).trans hsent
  · exact hsent

theorem rxIdle_heads (s : State) : s.rxIdle.heads = s.heads := by
  unfold State.rxIdle
  split <;> rfl

theorem rxSync_heads (s : State) : s.rxSync.heads = s.heads := by
  unfold State.rxSync
  split <;> rfl

theorem rxData_heads (s : State) (b : Byte) : (s.rxData b).heads = s.heads := by
  unfold State.rxData
  split
  · rfl
  · rfl
  · split <;> rfl

theorem rxBody_heads (s : State) (body : List Byte) : (body.foldl State.rxData s).heads = s.heads :=
  List.foldlRecOn body State.rxData (motive := fun t => t.heads = s.heads) rfl fun t h b _ => (rxData_heads t b).trans h

theorem rxInvalid_heads (s : State) : s.rxInvalid.heads = s.heads := by
  unfold State.rxInvalid
  split <;> rfl

theorem forwardSent_heads (s : State) : s.forwardSent.heads = s.heads := by
  unfold State.forwardSent
  split <;> rfl

theorem gapEnd_heads (s : State) : s.gapEnd.heads = s.heads := by
  unfold State.gapEnd
  split <;> rfl

end Sys2Proof.Machine
end

section
/-! PROOFS. A head's record stays sound: its geometry, the order of its fields, and its ticker contexts within their loops, under
every operation of Layout and Page Control and of the Composer on it (R118 to R132, R151 to R156). -/

namespace Sys2Proof.Machine

/-! ### Lists by key -/

/-- The pairs stand in ascending order of key. -/
def KeysAscend {α : Type} (l : List (Nat × α)) : Prop := l.Pairwise (fun a b => a.1 < b.1)

theorem KeysAscend.put {α : Type} {l : List (Nat × α)} (h : KeysAscend l) (k : Nat) (v : α) :
    KeysAscend (keyedPut k v l) := by
  induction l with
  | nil => exact List.pairwise_singleton _ _
  | cons x xs ih =>
    obtain ⟨hx, hxs⟩ := List.pairwise_cons.1 h
    unfold keyedPut
    split
    · next hlt =>
      refine List.pairwise_cons.2 ⟨fun y hy => ?_, h⟩
      rcases List.mem_cons.1 hy with rfl | hy
      · exact hlt
      · exact hlt.trans (hx y hy)
    · split
      · next heq => exact List.pairwise_cons.2 ⟨fun y hy => heq ▸ hx y hy, hxs⟩
      · refine List.pairwise_cons.2 ⟨fun y hy => ?_, ih hxs⟩
        rcases mem_of_mem_keyedPut hy with rfl | hy
        · dsimp only
          omega
        · exact hx y hy

theorem mem_of_keyedGet {α : Type} {k : Nat} {v : α} {l : List (Nat × α)} (h : keyedGet k l = some v) : (k, v) ∈ l := by
  induction l with
  | nil => cases h
  | cons x xs ih =>
    unfold keyedGet at h
    split at h
    · next hk =>
      cases h
      exact hk ▸ List.mem_cons_self ..
    · exact List.mem_cons_of_mem _ (ih h)

/-! ### Ticker contexts (R151 to R153) -/

section Contexts

variable {l : List (Nat × Ticker)} (h : TickersSound l)
include h

theorem TickersSound.put {k : Ticker} (hk : k.Within) (i : Nat) : TickersSound (keyedPut i k l) := by
  refine ⟨KeysAscend.put h.1 i k, fun t ht => ?_⟩
  rcases mem_of_mem_keyedPut ht with rfl | ht
  · exact hk
  · exact h.2 t ht

theorem TickersSound.filter (p : Nat × Ticker → Bool) : TickersSound (l.filter p) :=
  ⟨h.1.sublist List.filter_sublist, fun t ht => h.2 t (List.mem_of_mem_filter ht)⟩

theorem TickersSound.erase (i : Nat) : TickersSound (keyedErase i l) := h.filter _

theorem TickersSound.get {i : Nat} {k : Ticker} (hk : keyedGet i l = some k) : k.Within := h.2 _ (mem_of_keyedGet hk)

/-- Saved contexts put back among those that stand (R132, R156). -/
theorem TickersSound.restore {saved : List (Nat × Ticker)} (hsaved : ∀ t ∈ saved, t.2.Within) :
    TickersSound (saved.foldl (fun l t => keyedPut t.1 t.2 l) l) :=
  List.foldlRecOn saved _ (motive := TickersSound) h fun _ hl t ht => hl.put (hsaved t ht) t.1

end Contexts

theorem tickersSound_nil : TickersSound [] := ⟨List.Pairwise.nil, nofun⟩

/-- A loop of some length has room for a position in it. -/
theorem Ticker.Within.loop_pos {k : Ticker} (h : k.Within) : 0 < k.loop := by
  by_contra hloop
  have hlt : k.pos < 16 * k.loop := h
  omega

/-- A context that an advance does not end is within its loop (R153). -/
theorem Ticker.Within.advance {k k' : Ticker} (h : k.Within) {v : Nat} (hk : (k.advance v).1 = some k') : k'.Within :=
  Ticker.advance_within hk h.loop_pos

/-- A new context starts within its loop, when the loop has a length (R151). -/
theorem create_within (bound : Option Nat) (t : Text) {loop : Nat} (h : 0 < loop) : (Ticker.create bound t loop).Within :=
  Nat.mul_pos (by decide) h

/-- A context measured again keeps its place and its loop (R152). -/
theorem Ticker.Within.remeasured {k : Ticker} (h : k.Within) (t : Text) (loop : Nat) : (k.remeasured t loop).Within := h

/-! ### What a painting does to a context (R152, R155) -/

/-- A context that a painting updates or begins is within its loop. -/
def TickerChange.Within : TickerChange → Prop
  | .keep | .discard => True
  | .update k | .restart k => k.Within

/-- Where no step of the ladder fits, the text is wider than the field (R147). -/
theorem wider_of_ladder_none {f : Fonts} {r : FieldRecord} {full short : Text} (h : (ladder f r full short).1 = none) :
    r.width < widthAt f r.font (f.get r.font).nominalGap full.glyphs := by
  by_contra hfits
  by_cases hempty : full.glyphs = []
  · rw [ladder_empty hempty] at h
    cases h
  · rw [ladder_fits hempty (Nat.not_lt.1 hfits)] at h
    cases h

/-- A field that begins to scroll has a loop longer than its width (R151, R152). -/
theorem planFresh_within (f : Fonts) (r : FieldRecord) (bound : Option Nat) (full short : Text) (held : Bool) :
    (planFresh f r bound full short held).ticker.Within := by
  unfold planFresh
  dsimp only
  split
  · dsimp only
    split <;> trivial
  · next hnone =>
    have hwide := wider_of_ladder_none hnone
    exact create_within bound full (by omega)

theorem planStatic_keeps (f : Fonts) (r : FieldRecord) (full short : Text) :
    (planStatic f r full short).ticker = .keep := by
  unfold planStatic
  dsimp only
  split <;> rfl

theorem planField_within (s : State) (i : HeadIx) (snap : Snapshot) (r : FieldRecord) {held : Option Ticker}
    (hheld : ∀ k ∈ held, k.Within) : (s.planField i snap r held).ticker.Within := by
  unfold State.planField
  split
  · unfold planScroll
    split
    · trivial
    · split
      · exact planFresh_within _ _ _ _ _ _
      · next k =>
        split
        · exact (hheld k rfl).remeasured _ _
        · exact planFresh_within _ _ _ _ _ _
  · rw [planStatic_keeps]
    trivial

/-- The loop of an overlay's context is at least its head's width (R155). -/
theorem overlayContext_within (f : Fonts) {h : Head} (hwidth : 0 < h.width) (hticker : ∀ k ∈ h.overlayTicker, k.Within)
    (number : Nat) (t : Text) : ∀ k ∈ overlayContext f h number t, k.Within := by
  have hnew := create_within (some number) t (Nat.add_pos_right
    (widthAt f h.overlayFont (f.get h.overlayFont).nominalGap t.glyphs) hwidth)
  intro k hk
  unfold overlayContext at hk
  dsimp only at hk
  split at hk
  · cases hk
  · split at hk
    · next held heq =>
      split at hk
      · cases hk
        exact (hticker held heq).remeasured _ _
      · cases hk
        exact hnew
    · cases hk
      exact hnew

/-! ### A head's record (R118) -/

/-- The geometry of a DEFINED head (R118). -/
def LegalGeometry (width height : Nat) : Prop :=
  32 ≤ width ∧ width ≤ 256 ∧ width % 8 = 0 ∧ 8 ≤ height ∧ height ≤ 32

/-- Fields at indices 0..23, in ascending order (R122). -/
def FieldsSound (l : List (Nat × FieldSlot)) : Prop := KeysAscend l ∧ ∀ f ∈ l, f.1 ≤ 23

/-- The contexts of a head: those that stand, those saved, and the overlay's (R151, R153, R155). -/
structure Head.ContextsSound (h : Head) : Prop where
  standing : TickersSound h.tickers
  saved : TickersSound h.savedTickers
  overlay : ∀ k ∈ h.overlayTicker, k.Within

theorem headSound_iff (h : Head) :
    h.Sound ↔ LegalGeometry h.width h.height ∧ FieldsSound h.fields ∧ h.ContextsSound := by
  constructor
  · rintro ⟨hlo, hhi, hmod, hlow, hhigh, hfields, hindex, hstanding, hsaved, hoverlay⟩
    exact ⟨⟨hlo, hhi, hmod, hlow, hhigh⟩, ⟨hfields, hindex⟩, hstanding, hsaved, hoverlay⟩
  · rintro ⟨⟨hlo, hhi, hmod, hlow, hhigh⟩, ⟨hfields, hindex⟩, hstanding, hsaved, hoverlay⟩
    exact ⟨hlo, hhi, hmod, hlow, hhigh, hfields, hindex, hstanding, hsaved, hoverlay⟩

theorem fieldsSound_nil : FieldsSound [] := ⟨List.Pairwise.nil, fun _ hf => absurd hf List.not_mem_nil⟩

theorem FieldsSound.put {l : List (Nat × FieldSlot)} (h : FieldsSound l) {i : Nat} (hi : i ≤ 23) (x : FieldSlot) :
    FieldsSound (keyedPut i x l) := by
  refine ⟨h.1.put i x, fun f hf => ?_⟩
  rcases mem_of_mem_keyedPut hf with rfl | hf
  · exact hi
  · exact h.2 f hf

theorem FieldsSound.erase {l : List (Nat × FieldSlot)} (h : FieldsSound l) (i : Nat) : FieldsSound (keyedErase i l) :=
  ⟨List.Pairwise.sublist List.filter_sublist h.1, fun f hf => h.2 f (List.mem_of_mem_filter hf)⟩

/-- A change of slots that leaves the indices leaves their order. -/
theorem FieldsSound.map {l : List (Nat × FieldSlot)} (h : FieldsSound l) {g : Nat × FieldSlot → Nat × FieldSlot}
    (hg : ∀ f, (g f).1 = f.1) : FieldsSound (l.map g) := by
  refine ⟨List.pairwise_map.2 (List.Pairwise.imp (fun {a b} hab => ?_) h.1), fun f hf => ?_⟩
  · rw [hg, hg]
    exact hab
  · obtain ⟨x, hx, rfl⟩ := List.mem_map.1 hf
    exact (hg x).trans_le (h.2 x hx)

section Record

variable {x : Head} (h : x.Sound)
include h

theorem Head.Sound.geometry : LegalGeometry x.width x.height := ((headSound_iff x).1 h).1

theorem Head.Sound.fieldsSound : FieldsSound x.fields := ((headSound_iff x).1 h).2.1

theorem Head.Sound.contexts : x.ContextsSound := ((headSound_iff x).1 h).2.2

theorem Head.Sound.width_pos : 0 < x.width := by
  obtain ⟨hlo, _⟩ := h.geometry
  omega

/-- Geometry, overlay font and row, and brightness replaced (R120). -/
theorem Head.Sound.redefined {d : HeadData} (hd : LegalGeometry d.width d.height) : (x.redefined d).Sound :=
  (headSound_iff _).2 ⟨hd, h.fieldsSound, ⟨h.contexts.standing, h.contexts.saved, h.contexts.overlay⟩⟩

theorem Head.Sound.setFields {l : List (Nat × FieldSlot)} (hl : FieldsSound l) : ({ x with fields := l } : Head).Sound :=
  (headSound_iff _).2 ⟨h.geometry, hl, ⟨h.contexts.standing, h.contexts.saved, h.contexts.overlay⟩⟩

theorem Head.Sound.setTickers {l : List (Nat × Ticker)} (hl : TickersSound l) : ({ x with tickers := l } : Head).Sound :=
  (headSound_iff _).2 ⟨h.geometry, h.fieldsSound, ⟨hl, h.contexts.saved, h.contexts.overlay⟩⟩

theorem Head.Sound.setOverlayTicker {k : Option Ticker} (hk : ∀ t ∈ k, t.Within) :
    ({ x with overlayTicker := k } : Head).Sound :=
  (headSound_iff _).2 ⟨h.geometry, h.fieldsSound, ⟨h.contexts.standing, h.contexts.saved, hk⟩⟩

/-- A head that shows its pages has no saved contexts. -/
theorem Head.Sound.setPages (p : PageState) : ({ x with mode := .pages p } : Head).Sound :=
  (headSound_iff _).2 ⟨h.geometry, h.fieldsSound, ⟨h.contexts.standing, tickersSound_nil, h.contexts.overlay⟩⟩

theorem Head.Sound.setOverlay (slot : HeadIx) {shadow : Shadow} (hs : TickersSound shadow.tickers) :
    ({ x with mode := .overlay slot shadow } : Head).Sound :=
  (headSound_iff _).2 ⟨h.geometry, h.fieldsSound, ⟨h.contexts.standing, hs, h.contexts.overlay⟩⟩

theorem Head.Sound.shadow {slot : HeadIx} {shadow : Shadow} (hm : x.mode = .overlay slot shadow) :
    TickersSound shadow.tickers := by
  have hsaved := h.contexts.saved
  unfold Head.savedTickers at hsaved
  rwa [hm] at hsaved

/-! ### Pages and holds (R125 to R127) -/

theorem Head.Sound.onPages (f : PageState → PageState) : (x.onPages f).Sound := by
  unfold Head.onPages
  split
  · exact h.setPages _
  · exact h

theorem Head.Sound.advancePage (dwell n : Nat) : (x.advancePage dwell n).Sound := h.onPages _

theorem Head.Sound.checkPage (n : Nat) : (x.checkPage n).Sound := h.onPages _

theorem Head.Sound.leaveHold (dwell n i : Nat) : (x.leaveHold dwell n i).Sound := by
  cases hm : x.mode with
  | pages p =>
    rw [leaveHold_pages hm]
    exact h.setPages _
  | overlay slot shadow =>
    rw [leaveHold_overlay hm]
    exact h

theorem Head.Sound.dwellExpires (dwell limit n : Nat) : (x.dwellExpires dwell limit n).Sound := by
  unfold Head.dwellExpires
  split
  · exact h.onPages _
  · split
    · exact h.advancePage _ _
    · exact h.onPages _

theorem Head.Sound.countDwell (dwell limit n : Nat) : (x.countDwell dwell limit n).Sound := by
  unfold Head.countDwell
  split
  · split
    · split
      · exact h.dwellExpires _ _ _
      · exact h.setPages _
    · exact h
  · exact h

theorem Head.Sound.countHold (dwell n : Nat) : (x.countHold dwell n).1.Sound := by
  unfold Head.countHold
  split
  · split
    · split
      · exact (h.setPages _).advancePage _ _
      · exact h.setPages _
    · exact h
  · exact h

/-! ### Contexts of fields (R127, R152, R153, R156) -/

theorem Head.Sound.discardTicker (dwell n i : Nat) : (x.discardTicker dwell n i).Sound :=
  (h.setTickers (h.contexts.standing.erase i)).leaveHold _ _ _

theorem Head.Sound.discardSaved (i : Nat) : (x.discardSaved i).Sound := by
  unfold Head.discardSaved
  split
  · exact h
  · next hm => exact h.setOverlay _ ((h.shadow hm).erase i)

theorem Head.Sound.discardAll (dwell n : Nat) : (x.discardAll dwell n).Sound := by
  have hdiscarded : (x.tickers.foldl (fun h t => h.discardTicker dwell n t.1) x).Sound :=
    List.foldlRecOn x.tickers _ (motive := Head.Sound) h fun _ hy t _ => hy.discardTicker dwell n t.1
  unfold Head.discardAll
  dsimp only
  split
  · exact (hdiscarded.setOverlayTicker (k := none) nofun).setPages _
  · exact (hdiscarded.setOverlayTicker (k := none) nofun).setOverlay _ tickersSound_nil

theorem Head.Sound.applyTicker (dwell n idx : Nat) {c : TickerChange} (hc : c.Within) :
    (x.applyTicker dwell n idx c).Sound := by
  cases c with
  | keep => exact h
  | discard => exact h.discardTicker _ _ _
  | update k => exact h.setTickers (h.contexts.standing.put hc idx)
  | restart k => exact (h.setTickers (h.contexts.standing.put hc idx)).leaveHold _ _ _

theorem Head.Sound.setStatus (idx : Nat) (st : FieldStatus) : (x.setStatus idx st).Sound :=
  h.setFields (h.fieldsSound.map fun f => by split <;> rfl)

theorem Head.Sound.advanceTicker (dwell n idx : Nat) : (x.advanceTicker dwell n idx).Sound := by
  unfold Head.advanceTicker
  split
  · exact h
  · next k hk =>
    have hwithin := h.contexts.standing.get hk
    have hadvanced : (match (k.advance (x.speedOf idx)).1 with
        | some k' => { x with tickers := keyedPut idx k' x.tickers }
        | none => { x with tickers := keyedErase idx x.tickers } : Head).Sound := by
      split
      · next k' hk' => exact h.setTickers (h.contexts.standing.put (hwithin.advance hk') idx)
      · exact h.setTickers (h.contexts.standing.erase idx)
    dsimp only
    split
    · exact hadvanced.leaveHold _ _ _
    · exact hadvanced

theorem Head.Sound.advanceTickers (dwell n : Nat) : (x.advanceTickers dwell n).Sound := by
  unfold Head.advanceTickers
  split
  · exact List.foldlRecOn (x.tickers.map Prod.fst) _ (motive := Head.Sound) h fun _ hy idx _ => hy.advanceTicker dwell n idx
  · refine h.setOverlayTicker fun t ht => ?_
    obtain ⟨k, hk, ht⟩ := Option.bind_eq_some_iff.1 ht
    exact (h.contexts.overlay k hk).advance ht

/-! ### Overlays (R131, R132, R156) -/

theorem Head.Sound.startOverlay (slot : HeadIx) : (x.startOverlay slot).Sound := by
  unfold Head.startOverlay
  split
  · exact (h.setTickers (h.contexts.standing.filter _)).setOverlay slot (h.contexts.standing.filter _)
  · next hm => exact h.setOverlay slot (h.shadow hm)

theorem Head.Sound.endOverlay (dwell n : Nat) : (x.endOverlay dwell n).Sound := by
  unfold Head.endOverlay
  split
  · exact h
  · next hm =>
    exact ((h.setTickers (h.contexts.standing.restore (h.shadow hm).2)).setOverlayTicker (k := none) nofun).setPages _

end Record

/-! ### Head Define and Field Put (R119, R120, R123) -/

/-- The geometry that a Head Define carries is clamped to a legal one (R119). -/
theorem headData_legal {p : List Byte} {i : HeadIx} {d : HeadData} (hd : HeadData.ofPayload p = some (i, d)) :
    LegalGeometry d.width d.height := by
  unfold HeadData.ofPayload at hd
  split at hd
  · cases hd
  · split at hd
    · cases hd
    · cases hd
      obtain ⟨hlow, hhigh⟩ := clamp_bounds (by decide : 8 ≤ 32) (u8 p 3)
      obtain ⟨hlo, hhi⟩ := clamp_bounds (by decide : 32 ≤ 256) (u16 p 1 / 8 * 8)
      refine ⟨hlo, hhi, ?_, hlow, hhigh⟩
      dsimp only [clamp]
      split
      · rfl
      · split
        · rfl
        · exact Nat.mul_mod_left _ _

theorem newHead_sound {d : HeadData} (hd : LegalGeometry d.width d.height) (dwell : Nat) : (d.newHead dwell).Sound :=
  (headSound_iff _).2 ⟨hd, fieldsSound_nil, ⟨tickersSound_nil, tickersSound_nil, nofun⟩⟩

/-- The index that a Field Put carries is one of the 24 (R123). -/
theorem fieldData_index {p : List Byte} {d : FieldData} (hd : FieldData.ofPayload p = some d) : d.index ≤ 23 := by
  unfold FieldData.ofPayload at hd
  split at hd
  · cases hd
  · next hform =>
    have hindex : u8 p 1 ≤ 23 := by
      simp only [not_or, not_lt] at hform
      exact hform.2.2.2.1
    split at hd
    · split at hd
      · cases hd
      · exact (congrArg FieldData.index (Option.some.inj hd)).symm.trans_le hindex
    · cases hd

end Sys2Proof.Machine
end

section
/-! PROOFS. Every step keeps every DEFINED head's record sound (R118, R119, R122, R151, R153). -/

namespace Sys2Proof.Machine

/-! ### Updates of the heads' records -/

theorem headsSound_of_head {s t : State} (e : ∀ i, t.head i = s.head i) (h : s.HeadsSound) : t.HeadsSound := by
  intro i x hx
  rw [e] at hx
  exact h i x hx

/-- What leaves the heads' records keeps them sound. -/
theorem headsSound_of_heads {s t : State} (e : t.heads = s.heads) (h : s.HeadsSound) : t.HeadsSound :=
  headsSound_of_head (fun i => congrArg (fun b => (b.get i).head) e) h

theorem headsSound_undefined {s : State} (e : s.heads = Bank8.fill .undefined) : s.HeadsSound := by
  intro i x hx
  unfold State.head at hx
  rw [e, Bank8.get_fill] at hx
  cases hx

theorem restart_headsSound (s : State) : s.restart.HeadsSound := headsSound_undefined rfl

section Heads

variable {s : State} (h : s.HeadsSound)
include h

theorem setHead_headsSound (i : HeadIx) {x : Option Head} (hx : ∀ y ∈ x, y.Sound) : (s.setHead i x).HeadsSound := by
  intro j y hy
  by_cases hj : j = i
  · subst hj
    rw [State.setHead_head_self] at hy
    exact hx y hy
  · rw [State.setHead_head_ne s x hj] at hy
    exact h j y hy

theorem setHead_some_headsSound (i : HeadIx) {x : Head} (hx : x.Sound) : (s.setHead i (some x)).HeadsSound :=
  setHead_headsSound h i fun _ hy => Option.some.inj hy ▸ hx

theorem onHead_headsSound (i : HeadIx) {f : Head → Head} (hf : ∀ x : Head, x.Sound → (f x).Sound) :
    (s.onHead i f).HeadsSound := by
  unfold State.onHead
  split
  · next x hx => exact setHead_some_headsSound h i (hf x (h i x hx))
  · exact h

/-- Blanking and the overlay's number stand beside a head's record (R131, R133). -/
theorem nextOverlayNumber_headsSound (i : HeadIx) : (s.nextOverlayNumber i).HeadsSound := by
  refine headsSound_of_head (fun j => ?_) h
  unfold State.nextOverlayNumber State.head
  rw [Bank8.get_set]
  split
  · next hj => rw [hj]; rfl
  · rfl

theorem setBlank_headsSound (mask : Byte) (on : Bool) : (s.setBlank mask on).HeadsSound := by
  refine headsSound_of_head (fun j => ?_) h
  unfold State.setBlank State.head
  rw [Bank8.get_mapIx]
  split <;> rfl

theorem abandon_headsSound (i : HeadIx) : (s.abandon i).HeadsSound := headsSound_of_heads (abandon_heads s i) h

/-! ### Overlays and notices (R130 to R132) -/

theorem takeHead_headsSound (i slot : HeadIx) {x : Head} (hx : x.Sound) : (s.takeHead i slot x).HeadsSound := by
  have htaken := nextOverlayNumber_headsSound (setHead_some_headsSound h i (hx.startOverlay slot)) i
  unfold State.takeHead
  dsimp only
  split
  · exact abandon_headsSound htaken i
  · split <;> exact htaken

theorem releaseHead_headsSound (slot i : HeadIx) : (s.releaseHead slot i).HeadsSound := by
  unfold State.releaseHead
  split
  · next x hx =>
    split
    · exact abandon_headsSound (setHead_some_headsSound h i ((h i x hx).endOverlay _ _)) i
    · exact h
  · exact h

theorem emptyNotice_headsSound (slot : HeadIx) : (s.emptyNotice slot).HeadsSound :=
  forHeads_keeps (P := State.HeadsSound) (fun i _ ht => releaseHead_headsSound ht slot i) h

theorem noticeOnHead_headsSound (slot : HeadIx) (n : Notice) (i : HeadIx) : (s.noticeOnHead slot n i).HeadsSound := by
  unfold State.noticeOnHead
  split
  · next x hx =>
    split
    · exact takeHead_headsSound h i slot (h i x hx)
    · exact releaseHead_headsSound h slot i
  · exact h

theorem noticeFrame_headsSound (p : List Byte) : (s.noticeFrame p).1.HeadsSound := by
  unfold State.noticeFrame
  split
  · unfold State.appendNotice
    split
    · exact h
    · split
      · exact h
      · split <;> exact h
  · unfold State.putNotice
    split
    · exact h
    · next d _ =>
      exact forHeads_keeps (P := State.HeadsSound) (fun i _ ht => noticeOnHead_headsSound ht d.slot d.notice i) h

theorem clearNotice_headsSound (p : List Byte) : (s.clearNotice p).1.HeadsSound := by
  unfold State.clearNotice
  split
  · exact h
  · split
    · exact h
    · split
      · exact h
      · exact emptyNotice_headsSound h _

/-! ### Heads and fields (R119 to R124) -/

theorem defineHead_headsSound (i : HeadIx) {d : HeadData} (hd : LegalGeometry d.width d.height) :
    (s.defineHead i d).HeadsSound := by
  unfold State.defineHead
  split
  · exact setHead_some_headsSound h i (newHead_sound hd _)
  · next x hx =>
    have hredefined := (h i x hx).redefined hd
    split
    · exact setHead_some_headsSound h i hredefined
    · exact headsSound_of_heads (clearBuffers_linkOnly _ i).heads
        (abandon_headsSound (setHead_some_headsSound h i (hredefined.discardAll _ _)) i)

theorem putHead_headsSound (p : List Byte) : (s.putHead p).1.HeadsSound := by
  unfold State.putHead
  split
  · exact h
  · next i d hd => exact headsSound_of_heads (by rfl) (defineHead_headsSound h i (headData_legal hd))

theorem dropHead_headsSound (p : List Byte) : (s.dropHead p).1.HeadsSound := by
  unfold State.dropHead
  split
  · exact h
  · split
    · exact h
    · next i _ =>
      split
      · exact h
      · exact headsSound_of_heads (clearBuffers_linkOnly _ i).heads
          (abandon_headsSound (setHead_headsSound h i (x := none) nofun) i)

theorem putField_headsSound (p : List Byte) : (s.putField p).1.HeadsSound := by
  unfold State.putField
  split
  · exact h
  · next d hd =>
    split
    · exact h
    · next x hx =>
      have hx := h d.head x hx
      have hput := hx.setFields (hx.fieldsSound.put (fieldData_index hd) ⟨d.record, .notPainted⟩)
      exact setHead_some_headsSound h d.head ((hput.discardSaved _).discardTicker _ _ _)

theorem dropField_headsSound (p : List Byte) : (s.dropField p).1.HeadsSound := by
  unfold State.dropField
  split
  · exact h
  · split
    · exact h
    · next i _ =>
      split
      · exact h
      · next x hx =>
        have hx := h i x hx
        have hdropped := hx.setFields (hx.fieldsSound.erase (u8 p 1))
        split
        · exact h
        · exact setHead_some_headsSound h i ((hdropped.discardSaved _).discardTicker _ _ _)

theorem advancePages_headsSound (mask : Byte) : (s.advancePages mask).1.HeadsSound := by
  unfold State.advancePages
  split
  · refine forHeads_keeps (P := State.HeadsSound) (fun i t ht => ?_) h
    split
    · exact onHead_headsSound ht i fun x hx => hx.advancePage _ _
    · exact ht
  · exact h

/-! ### Second events (R126, R127, R130) -/

theorem countDwellOf_headsSound (i : HeadIx) : (s.countDwellOf i).HeadsSound :=
  onHead_headsSound h i fun _ hx => hx.countDwell _ _ _

theorem countHoldOf_headsSound (i : HeadIx) : (s.countHoldOf i).HeadsSound := by
  unfold State.countHoldOf
  split
  · next x hx =>
    have hcounted := setHead_some_headsSound h i ((h i x hx).countHold s.mgmt.settings.dwell s.entryCount)
    dsimp only
    split <;> exact hcounted
  · exact h

theorem dwellSecond_headsSound : s.dwellSecond.HeadsSound := by
  refine forHeads_keeps (P := State.HeadsSound) (fun i t ht => ?_) h
  split
  · exact countDwellOf_headsSound ht i
  · exact ht

theorem holdSecond_headsSound : s.holdSecond.HeadsSound := by
  refine forHeads_keeps (P := State.HeadsSound) (fun i t ht => ?_) h
  split
  · exact countHoldOf_headsSound ht i
  · exact ht

theorem pageSecond_headsSound : s.pageSecond.HeadsSound := by
  refine forHeads_keeps (P := State.HeadsSound) (fun i t ht => ?_) h
  split
  · exact countDwellOf_headsSound ht i
  · split
    · exact countHoldOf_headsSound ht i
    · exact ht

theorem countNotice_headsSound (slot : HeadIx) : (s.countNotice slot).HeadsSound := by
  unfold State.countNotice
  split
  · split
    · split
      · exact emptyNotice_headsSound h slot
      · exact h
    · exact h
  · exact h

theorem noticeSecond_headsSound : s.noticeSecond.HeadsSound :=
  forHeads_keeps (P := State.HeadsSound) (fun i _ ht => countNotice_headsSound ht i) h

theorem layoutSecond_headsSound : s.layoutSecond.HeadsSound := by
  unfold State.layoutSecond
  split
  · exact h
  · exact noticeSecond_headsSound (pageSecond_headsSound h)

/-! ### Painting and compositions (R139 to R141, R152 to R157) -/

theorem paintField_headsSound (i : HeadIx) {x : Head} (hx : x.Sound) (snap : Snapshot) (idx : Nat) (r : FieldRecord) :
    (s.paintField i x snap idx r).HeadsSound := by
  unfold State.paintField
  dsimp only
  split
  · exact setHead_some_headsSound h i ((hx.discardTicker _ _ _).setStatus _ _)
  · have hplan := planField_within s i snap r fun _ hk => hx.contexts.standing.get (i := idx) hk
    exact headsSound_of_heads (tally_heads _ _)
      (setHead_some_headsSound h i ((hx.applyTicker s.mgmt.settings.dwell s.entryCount idx hplan).setStatus _ _))

theorem paintOverlay_headsSound (i : HeadIx) {x : Head} (hx : x.Sound) (slot : HeadIx) (number : Nat) :
    (s.paintOverlay i x slot number).HeadsSound := by
  unfold State.paintOverlay
  dsimp only
  split
  · exact setHead_some_headsSound h i (hx.setOverlayTicker (k := none) nofun)
  · exact headsSound_of_heads (tally_heads _ _) (setHead_some_headsSound h i
      (hx.setOverlayTicker (overlayContext_within s.fonts hx.width_pos hx.contexts.overlay number _)))

theorem completeComp_headsSound (i : HeadIx) : (s.completeComp i).HeadsSound :=
  headsSound_of_heads (completeComp_heads s i) h

theorem startComp_headsSound (i : HeadIx) {x : Head} (hx : x.Sound) : (s.startComp i x).HeadsSound := by
  have hchecked := hx.checkPage s.entryCount
  have hstarted : ∀ b c, (((s.setHead i (some (x.checkPage s.entryCount))).setBuffers i b).setComp i c).HeadsSound :=
    fun _ _ => headsSound_of_heads (by rfl) (setHead_some_headsSound h i hchecked)
  unfold State.startComp
  dsimp only
  split
  · exact completeComp_headsSound (paintOverlay_headsSound (hstarted _ _) i hchecked _ _) i
  · split
    · exact completeComp_headsSound (hstarted _ _) i
    · exact hstarted _ _

theorem composeHead_headsSound (i : HeadIx) : (s.composeHead i).HeadsSound := by
  unfold State.composeHead
  split
  · next x hx =>
    split
    · exact h
    · exact startComp_headsSound h i (h i x hx)
  · exact h

theorem paintNext_headsSound (i : HeadIx) : (s.paintNext i).HeadsSound := by
  unfold State.paintNext
  split
  · next c x _ hx =>
    split
    · exact completeComp_headsSound (paintOverlay_headsSound h i (h i x hx) _ _) i
    · split
      · next idx f _ =>
        exact headsSound_of_heads (completeIfLast_heads _ i idx)
          (headsSound_of_heads (by rfl) (paintField_headsSound h i (h i x hx) c.snapshot idx f.record))
      · exact completeComp_headsSound h i
  · exact h

theorem frameCompose_headsSound : s.frameCompose.HeadsSound := by
  unfold State.frameCompose
  split
  · exact h
  · have hadvanced := forHeads_keeps (P := State.HeadsSound) (f := State.advanceHead)
      (fun i _ ht => onHead_headsSound ht i fun _ hx => hx.advanceTickers _ _) h
    exact forHeads_keeps (P := State.HeadsSound) (fun i _ ht => composeHead_headsSound ht i) hadvanced

theorem frameRound_headsSound : s.frameRound.HeadsSound := headsSound_of_heads (frameRound_linkOnly s).heads h

theorem frameEvent_headsSound : s.frameEvent.HeadsSound := by
  unfold State.frameEvent
  dsimp only
  split
  · split
    · exact frameRound_headsSound (frameCompose_headsSound h)
    · exact frameCompose_headsSound (frameRound_headsSound h)
  · exact frameRound_headsSound (frameCompose_headsSound h)

theorem frameTimer_headsSound : s.frameTimer.HeadsSound := by
  unfold State.frameTimer
  split
  · exact frameEvent_headsSound h
  · exact h

theorem fsyncEdge_headsSound : s.fsyncEdge.HeadsSound := by
  unfold State.fsyncEdge
  split
  · exact h
  all_goals exact frameEvent_headsSound h

theorem fsyncWatch_headsSound : s.fsyncWatch.HeadsSound := by
  unfold State.fsyncWatch
  split
  · exact h
  · exact h
  · exact h
  · exact frameEvent_headsSound h

/-! ### Clock events (R75) -/

theorem share_headsSound (expiry : Option Nat) (x : Share) : (Share.act expiry s x).HeadsSound := by
  cases x with
  | departures => exact h
  | builds => exact h
  | layout => exact layoutSecond_headsSound h
  | link => exact h
  | freeze => exact headsSound_of_heads (freezeSecond_heads s) h

theorem secondEvent_headsSound (expiry : Option Nat) : (s.secondEvent expiry).HeadsSound := by
  have hshares : ∀ (l : List Share) {t : State}, t.HeadsSound → (l.foldl (Share.act expiry) t).HeadsSound :=
    fun l _ ht => List.foldlRecOn l _ (motive := State.HeadsSound) ht fun _ hu x _ => share_headsSound hu expiry x
  unfold State.secondEvent
  split <;> exact hshares _ h

theorem advanceClock_headsSound : s.advanceClock.HeadsSound :=
  secondEvent_headsSound (s := s.setClock s.clock.advance) h _

theorem internalTick_headsSound : s.internalTick.HeadsSound := by
  unfold State.internalTick
  split
  · exact advanceClock_headsSound h
  · exact h

theorem secpEdge_headsSound (micros : Nat) : (s.secpEdge micros).HeadsSound := by
  unfold State.secpEdge
  split
  · exact h
  · dsimp only
    split
    · exact advanceClock_headsSound h
    · exact h

theorem watchExpires_headsSound : s.watchExpires.HeadsSound := by
  unfold State.watchExpires
  split
  · exact advanceClock_headsSound (advanceClock_headsSound h)
  · exact h

theorem scheduledTick_headsSound : s.scheduledTick.HeadsSound := by
  unfold State.scheduledTick
  split
  · exact advanceClock_headsSound h
  · exact h

/-! ### Frames and requests (R10 to R12) -/

theorem own_headsSound (p : List Byte) (k : Kind) : (s.own p k).1.HeadsSound := by
  cases k
  case departurePut | departureAmend | departureRemove | stops | stopAmend => exact headsSound_of_heads (takeBoard_heads s _) h
  case namePut | nameDrop | namesClear => exact headsSound_of_heads (takeNames_heads s _) h
  case noticePut => exact noticeFrame_headsSound h p
  case noticeClear => exact clearNotice_headsSound h p
  case timeSet => exact headsSound_of_heads (timeFrame_heads s p) h
  case headDefine => exact putHead_headsSound h p
  case headDrop => exact dropHead_headsSound h p
  case fieldPut => exact putField_headsSound h p
  case fieldDrop => exact dropField_headsSound h p
  case brightnessTablePut => exact headsSound_of_heads (putBrightness_linkOnly s p).heads h
  all_goals exact h

theorem request_headsSound (x : Header) (n : Nat) {act : State → State × OutcomeCode} (hact : (act s).1.HeadsSound) :
    (s.request x n act).1.HeadsSound := by
  unfold State.request
  split
  · exact hact
  · exact h

theorem restartRequest_headsSound (x : Header) : (s.restartRequest x).1.HeadsSound := by
  unfold State.restartRequest
  split
  · exact h
  · split
    · exact h
    · exact restart_headsSound _

theorem manage_headsSound (x : Header) (k : Kind) : (s.manage x k).1.HeadsSound := by
  cases k
  case statusQuery => exact headsSound_of_heads (fill_heads _ s) h
  case counterRead => exact headsSound_of_heads (counterRead_heads s x) h
  case eventClear => exact request_headsSound h x 1 h
  case eventEnable => exact request_headsSound h x 1 h
  case configure => exact headsSound_of_heads (configure_heads s _) h
  case freeze => exact request_headsSound h x 0 h
  case unfreeze => exact request_headsSound h x 0 (headsSound_of_heads (unfreeze_heads s) h)
  case advance => exact request_headsSound h x 1 (advancePages_headsSound h _)
  case blank => exact request_headsSound h x 1 (setBlank_headsSound h _ _)
  case unblank => exact request_headsSound h x 1 (setBlank_headsSound h _ _)
  case takeLink => exact request_headsSound h x 0 (headsSound_of_heads (takeLinkRequest_linkOnly s).heads h)
  case giveLink => exact request_headsSound h x 0 (headsSound_of_heads (giveLinkRequest_linkOnly s).heads h)
  case readBack => exact headsSound_of_heads (readRequest_heads s _) h
  case readNext => exact headsSound_of_heads (readRequest_heads s _) h
  case addressAssign => exact headsSound_of_heads (assignAddress_heads s x) h
  case restart => exact restartRequest_headsSound h x
  all_goals exact h

theorem forward_headsSound (body : List Byte) (x : Header) : (s.forward body x).HeadsSound :=
  headsSound_of_heads (forward_heads s body x) h

theorem handData_headsSound (k : Kind) (x : Header) (reply : Bool) : (s.handData k x reply).HeadsSound := by
  have howned := own_headsSound (s := s.bump .framesActedOn) h x.payload k
  unfold State.handData
  dsimp only
  split
  · exact headsSound_of_heads (offerReply_heads _ _ _) howned
  · exact howned

theorem handManagement_headsSound (k : Kind) (x : Header) : (s.handManagement k x).HeadsSound := by
  unfold State.handManagement
  split
  · exact h
  · exact headsSound_of_heads (offerOpt_heads _ _ _) (manage_headsSound (s := s.bump .framesActedOn) h x k)

theorem disposeData_headsSound (k : Kind) (body : List Byte) (x : Header) : (s.disposeData k body x).HeadsSound := by
  unfold State.disposeData
  split
  · exact handData_headsSound h _ _ _
  · split
    · exact forward_headsSound (handData_headsSound h _ _ _) _ _
    · exact forward_headsSound h _ _

theorem disposeManagement_headsSound (k : Kind) (body : List Byte) (x : Header) :
    (s.disposeManagement k body x).HeadsSound := by
  unfold State.disposeManagement
  split
  · exact handManagement_headsSound h _ _
  · split
    · split
      · exact forward_headsSound (handManagement_headsSound h _ _) _ _
      · exact forward_headsSound h _ _
    · split
      · exact forward_headsSound (s := s.bump .unknownKind) h _ _
      · exact forward_headsSound h _ _

theorem dispose_headsSound (body : List Byte) (x : Header) : (s.dispose body x).HeadsSound := by
  unfold State.dispose
  split
  · exact forward_headsSound h _ _
  · split
    · exact headsSound_of_heads (unknownKind_heads s body x) h
    · split
      · exact disposeData_headsSound h _ _ _
      · exact disposeManagement_headsSound h _ _ _

theorem arrive_headsSound (body : List Byte) : (s.arrive body).HeadsSound := by
  unfold State.arrive
  split
  · exact h
  · split
    · exact h
    · split
      · exact h
      · split
        · exact dispose_headsSound (s := s.bump .framesAccepted) h _ _
        · exact h

theorem rxEnd_headsSound : s.rxEnd.HeadsSound := by
  unfold State.rxEnd
  split
  · exact h
  · exact h
  · exact arrive_headsSound (s := s.setRx .wait []) h _

theorem receive_headsSound (body : List Byte) : (s.receive body).HeadsSound :=
  rxEnd_headsSound (headsSound_of_heads ((rxBody_heads s.rxSync body).trans (rxSync_heads s)) h)

theorem replySent_headsSound : s.replySent.HeadsSound := by
  unfold State.replySent
  split
  · dsimp only
    split
    · exact restart_headsSound _
    · exact h
  all_goals exact h

end Heads

/-! ### Every command -/

theorem live_headsSound {s t : State} {effect : State → State} (h : s.HeadsSound) (e : live s effect = .next t)
    (heffect : (effect s).HeadsSound) : t.HeadsSound := by
  rcases live_next e with ⟨_, rfl⟩ | ⟨_, rfl⟩
  · exact heffect
  · exact h

/-- An effect beside the heads' records keeps them sound. -/
theorem live_heads {s t : State} {effect : State → State} (h : s.HeadsSound) (e : live s effect = .next t)
    (heffect : (effect s).heads = s.heads) : t.HeadsSound := live_headsSound h e (headsSound_of_heads heffect h)

/-- What is paused while frozen keeps the records sound if it does when it runs (R134). -/
theorem unlessFrozen_headsSound {s t : State} {f : State → State} (h : s.HeadsSound)
    (e : live s (fun s => if s.mgmt.frozen then s else f s) = .next t) (hf : (f s).HeadsSound) : t.HeadsSound := by
  refine live_headsSound h e ?_
  split
  · exact h
  · exact hf

theorem exec_headsSound (c : Instr) (s t : State) (h : s.HeadsSound) (e : exec c s = .next t) : t.HeadsSound := by
  cases hframe : c.frame with
  | some kf =>
    rw [exec_frame hframe] at e
    exact live_headsSound h e (receive_headsSound h _)
  | none =>
    cases c
    case hardReset =>
      cases e
      exact h
    case hardResetEnd straps =>
      cases e
      split
      · exact headsSound_undefined rfl
      · exact h
    case idleMarker => exact live_heads h e (rxIdle_heads s)
    case syncMarker => exact live_heads h e (rxSync_heads s)
    case dataByte b => exact live_heads (effect := fun s => s.rxData b) h e (rxData_heads s b)
    case invalidCharacter => exact live_heads h e (rxInvalid_heads s)
    case frameArrival => exact live_headsSound h e (rxEnd_headsSound h)
    case idleGapEnd => exact live_heads h e (gapEnd_heads s)
    case forwardedFrameSent => exact live_heads h e (forwardSent_heads s)
    case replySent => exact live_headsSound h e (replySent_headsSound h)
    case internalTick => exact live_headsSound h e (internalTick_headsSound h)
    case secpRisingEdge micros =>
      exact live_headsSound (effect := fun s => s.secpEdge micros) h e (secpEdge_headsSound h micros)
    case clockWatchExpiry => exact live_headsSound h e (watchExpires_headsSound h)
    case scheduledInstantTick => exact live_headsSound h e (scheduledTick_headsSound h)
    case lingerExpiry => exact live_headsSound (effect := State.departureSecond true none) h e h
    case buildTimeout => exact live_headsSound (effect := State.buildSecond) h e h
    case dwellExpiry => exact unlessFrozen_headsSound h e (dwellSecond_headsSound h)
    case holdTimeout => exact unlessFrozen_headsSound h e (holdSecond_headsSound h)
    case noticeExpiry => exact unlessFrozen_headsSound h e (noticeSecond_headsSound h)
    case freezeTimeout => exact live_heads h e (freezeSecond_heads s)
    case frameTimerExpiry => exact live_headsSound h e (frameTimer_headsSound h)
    case fsyncRisingEdge => exact live_headsSound h e (fsyncEdge_headsSound h)
    case fsyncWatchExpiry => exact live_headsSound h e (fsyncWatch_headsSound h)
    case fieldPaint i => exact live_headsSound (effect := fun s => s.paintNext i) h e (paintNext_headsSound h i)
    case rowSent holdn => exact live_heads (effect := fun s => s.rowDone holdn) h e (rowDone_linkOnly s holdn).heads
    case holdnRelease => exact live_heads h e (holdReleased_linkOnly s).heads
    case holdLimitExpiry => exact live_heads h e (holdExpires_linkOnly s).heads
    case ackReceived head ambient =>
      exact live_heads (effect := fun s => s.seeActivity.takeAck head ambient) h e
        ((seeActivity_linkOnly s).trans (takeAck_linkOnly _ head ambient)).heads
    case nakReceived head code =>
      exact live_heads (effect := fun s => s.seeActivity.takeNak head code) h e
        ((seeActivity_linkOnly s).trans (takeNak_linkOnly _ head code)).heads
    case ackTimeout => exact live_heads h e (ackTimesOut_linkOnly s).heads
    case answerNotWellFormed groups =>
      exact live_heads (effect := fun s => s.takeGroups groups) h e (takeGroups_linkOnly s groups).heads
    case lreqAsserted => exact live_heads (s := s.setLreq true) h e (lreqSeen_linkOnly (s.setLreq true)).heads
    case lreqReleased => exact live_heads (s := s.setLreq false) h e (lreqGone_linkOnly (s.setLreq false)).heads
    case lgntAsserted => exact live_heads h e (lgntSeen_linkOnly s).heads
    case activity => exact live_heads h e (seeActivity_linkOnly s).heads
    case grantWaitExpiry => exact live_heads h e (windowExpires_linkOnly s).heads
    case headerSent holdn => exact live_heads (effect := fun s => s.headerDone holdn) h e (headerDone_linkOnly s holdn).heads
    all_goals cases hframe

/-- Settles O56: the records of the Font Store are kept by the frames that act on them, and a head's record by every operation on
a head. -/
theorem fontsAndHeadsStaySound : Obligations.FontsAndHeadsStaySound := fun _ _ ⟨hfonts, hheads⟩ e =>
  ⟨step_keeps (P := State.FontsSound) (fun _ _ h => h) fontsSound_invariant.exec hfonts e,
    step_keeps (P := State.HeadsSound) (fun _ _ h => h) exec_headsSound hheads e⟩

end Sys2Proof.Machine
end

section
/-! PROOFS. What a command leaves when what its owner does stands beside the port: a data frame with its outcome, and a management
request with its reply (R12, R183, R186). -/

namespace Sys2Proof.Machine

/-! ### Operations that stand beside the port -/

/-- An operation whose effect does not depend on the out-port and the feed counters, and which leaves the port. -/
structure BesidePort (op : State → State) : Prop where
  same : ∀ {t u : State}, t.SameButPort u → (op t).SameButPort (op u)
  feed : ∀ s : State, (op s).feed = s.feed

theorem besidePort_id : BesidePort fun s => s := ⟨fun h => h, fun _ => rfl⟩

theorem BesidePort.comp {g op : State → State} (hg : BesidePort g) (hop : BesidePort op) :
    BesidePort fun s => g (op s) :=
  ⟨fun h => hg.same (hop.same h), fun s => (hg.feed _).trans (hop.feed s)⟩

/-- An operation that commutes with a change of the port and the counters stands beside the port. -/
theorem BesidePort.of_comm {op : State → State}
    (h : ∀ (s : State) (f : Feed) (c : Vector Nat 40),
      op { s with feed := f, counters := c } = { op s with feed := f, counters := c }) : BesidePort op := by
  have hfeed (s : State) : (op s).feed = s.feed := (congrArg State.feed (h s s.feed s.counters) :)
  have hcounters (s : State) : (op s).counters = s.counters :=
    (congrArg State.counters (h s s.feed s.counters) :)
  refine ⟨fun {t u} ⟨hs, hrx, hbuf, haddr, hzone, hgroup, hc⟩ => ?_, hfeed⟩
  have hop : op t = { op u with feed := t.feed, counters := t.counters } := (congrArg op hs).trans (h u _ _)
  refine ⟨?_, ?_, ?_, ?_, ?_, ?_, fun c hn => ?_⟩
  · rw [hfeed t, hcounters t]
    exact hop
  · rw [hfeed t, hfeed u, hrx]
  · rw [hfeed t, hfeed u, hbuf]
  · rw [hfeed t, hfeed u, haddr]
  · rw [hfeed t, hfeed u, hzone]
  · rw [hfeed t, hfeed u, hgroup]
  · unfold State.counter
    rw [hcounters t, hcounters u]
    exact hc c hn

theorem besidePort_bump (c : Ctr) : BesidePort fun s => s.bump c := ⟨fun h => h.bump c, fun _ => rfl⟩

/-- What stands beside the port at each head does so over the eight heads. -/
theorem besidePort_forHeads {f : HeadIx → State → State} (hf : ∀ i, BesidePort (f i)) : BesidePort fun s => s.forHeads f := by
  unfold State.forHeads
  induction HeadIx.all with
  | nil => exact besidePort_id
  | cons i l ih => exact ih.comp (hf i)

theorem State.SameButPort.head {t u : State} (h : t.SameButPort u) (i : HeadIx) : t.head i = u.head i :=
  (congrArg (fun s : State => s.head i) h.1).trans rfl

theorem State.SameButPort.dwell {t u : State} (h : t.SameButPort u) : t.mgmt.settings.dwell = u.mgmt.settings.dwell :=
  (congrArg (fun s : State => s.mgmt.settings.dwell) h.1).trans rfl

theorem State.SameButPort.entryCount {t u : State} (h : t.SameButPort u) : t.entryCount = u.entryCount :=
  (congrArg State.entryCount h.1).trans rfl

theorem besidePort_setHead (i : HeadIx) (h : Option Head) : BesidePort fun s => s.setHead i h :=
  BesidePort.of_comm fun _ _ _ => rfl

theorem besidePort_setNotices (slot : HeadIx) (n : Option Notice) :
    BesidePort fun s => { s with notices := s.notices.set slot n } :=
  BesidePort.of_comm fun _ _ _ => rfl

theorem besidePort_headRedefined (i : HeadIx) : BesidePort fun s => s.headRedefined i :=
  BesidePort.of_comm fun _ _ _ => rfl

theorem besidePort_leaveRound (i : HeadIx) : BesidePort fun s => s.leaveRound i :=
  BesidePort.of_comm fun _ _ _ => rfl

theorem besidePort_nextOverlayNumber (i : HeadIx) : BesidePort fun s => s.nextOverlayNumber i :=
  BesidePort.of_comm fun _ _ _ => rfl

theorem besidePort_abandon (i : HeadIx) : BesidePort fun s => s.abandon i :=
  BesidePort.of_comm fun s f c => by
    unfold State.abandon
    dsimp only
    split <;> rfl

theorem besidePort_clearBuffers (i : HeadIx) : BesidePort fun s => s.clearBuffers i :=
  BesidePort.of_comm fun s f c => by
    unfold State.clearBuffers
    dsimp only
    split
    · split <;> rfl
    · rfl

/-! ### A data frame completes -/

/-- A data frame completes with what its owner does, when that stands beside the port (R11, R12). -/
theorem BesidePort.completes {op : State → State} (hop : BesidePort op) {c : Instr} {k : Kind} {f : FeedFrame} {s : State}
    {code : OutcomeCode} (hc : c.frame = some (k, f)) (hk : k.isData = true) (h : s.TakesData f)
    (hown : s.arrived.own f.payload k = (op s.arrived, code)) : Completes c f k s (op s) code :=
  dataFrame_completes hc hk h hown (hop.same (arrived_sameButPort s)) (hop.feed s.arrived)

/-- A data frame that its owner turns away leaves the state. -/
theorem dataFrame_refused {c : Instr} {k : Kind} {f : FeedFrame} {s : State} {code : OutcomeCode}
    (hc : c.frame = some (k, f)) (hk : k.isData = true) (h : s.TakesData f)
    (hown : s.arrived.own f.payload k = (s.arrived, code)) : Completes c f k s s code :=
  besidePort_id.completes hc hk h hown

/-! ### A management request is answered -/

/-- A management request to act on leaves what Management leaves and finds its reply in the Reply Slot (R12, R183). -/
theorem request_answers {c : Instr} {k : Kind} {f : FeedFrame} {s u v : State} {r : Option Reply}
    (hc : c.frame = some (k, f)) (hk : k.isData = false) (h : s.TakesRequest f)
    (hmanage : s.arrived.manage (frameHeader k.code f) k = (v, r)) (hsame : v.SameButPort u) (hfeed : v.feed = s.feed) :
    Answers c s u (r.map fun x => replyBody x.1 (b8 s.feed.address) f.tag x.2) := by
  have hleaves := (requestIsHandedOver c k f s (v, r) hc hk hmanage.symm).1 h
  have hslot : v.feed.slot = none := hfeed ▸ h.2.2
  refine ⟨_, hleaves, State.SameButPort.matches ?_, ?_⟩
  · cases r with
    | none => exact hsame
    | some x => exact (offerReply_sameButPort v _ _).trans hsame
  · cases r with
    | none => exact hslot
    | some x =>
      rw [← hfeed]
      exact offerReply_slot hslot _ _

/-- A management request answered by its outcome, when what is done stands beside the port. -/
theorem BesidePort.answers {op : State → State} (hop : BesidePort op) {c : Instr} {k : Kind} {f : FeedFrame} {s : State}
    {code : OutcomeCode} (hc : c.frame = some (k, f)) (hk : k.isData = false) (h : s.TakesRequest f)
    (hmanage : s.arrived.manage (frameHeader k.code f) k = (op s.arrived, (frameHeader k.code f).answer code)) :
    Answers c s (op s) (s.outcomeIf f k code) := by
  have hreply : ((frameHeader k.code f).answer code).map (fun x => replyBody x.1 (b8 s.feed.address) f.tag x.2) =
      s.outcomeIf f k code := by
    unfold Header.answer State.outcomeIf
    exact (apply_ite (Option.map _) _ _ _).trans rfl
  rw [← hreply]
  exact request_answers hc hk h hmanage (hop.same (arrived_sameButPort s)) (hop.feed s.arrived)

end Sys2Proof.Machine
end

section
/-! PROOFS. What an overlay saves and what its end gives back (R131, R132, R142, R156). -/

namespace Sys2Proof.Machine

/-! ### Saved contexts put back -/

theorem keyedGet_cons {α : Type} (idx : Nat) (x : Nat × α) (l : List (Nat × α)) :
    keyedGet idx (x :: l) = if x.1 = idx then some x.2 else keyedGet idx l := by
  conv_lhs => unfold keyedGet

theorem keyedGet_isSome {α : Type} {idx : Nat} {l : List (Nat × α)} :
    (keyedGet idx l).isSome = true ↔ ∃ x ∈ l, x.1 = idx := by
  induction l with
  | nil => simp [keyedGet]
  | cons x l ih =>
    rw [keyedGet_cons]
    by_cases hx : x.1 = idx <;> simp [hx, ih]

theorem keyedGet_eq_none {α : Type} {idx : Nat} {l : List (Nat × α)} (h : idx ∉ l.map Prod.fst) : keyedGet idx l = none := by
  rw [← Option.not_isSome_iff_eq_none, keyedGet_isSome]
  rintro ⟨x, hx, rfl⟩
  exact h (List.mem_map_of_mem hx)

/-- Contexts given back stand in place of any held for those fields (R132, R156). -/
theorem keyedGet_restored {α : Type} (idx : Nat) (saved : List (Nat × α)) : ∀ l : List (Nat × α),
    (saved.map Prod.fst).Nodup →
    keyedGet idx (saved.foldl (fun l t => keyedPut t.1 t.2 l) l) = (keyedGet idx saved).or (keyedGet idx l) := by
  induction saved with
  | nil => exact fun _ _ => rfl
  | cons x saved ih =>
    intro l hn
    obtain ⟨hx, hsaved⟩ := List.nodup_cons.1 hn
    rw [List.foldl_cons, ih _ hsaved, keyedGet_cons]
    by_cases hidx : x.1 = idx
    · subst hidx
      rw [if_pos rfl, keyedGet_eq_none hx, keyedGet_put_self]
      rfl
    · rw [if_neg hidx, keyedGet_put_ne _ _ (Ne.symm hidx)]

/-- The entry-kind contexts and the others together are all the contexts. -/
theorem keyedGet_partition (p : Nat → Bool) (l : List (Nat × Ticker)) (idx : Nat) :
    (keyedGet idx (l.filter (fun t => p t.1))).or (keyedGet idx (l.filter (fun t => !p t.1))) = keyedGet idx l := by
  rw [keyedGet_filter p, keyedGet_filter (fun i => !p i)]
  cases p idx
  · rfl
  · exact Option.or_none

/-! ### The start and the end of an overlay -/

theorem startOverlay_pages {h : Head} {p : PageState} (hm : h.mode = .pages p) (slot : HeadIx) : h.startOverlay slot = { h with
    mode := .overlay slot ⟨p, h.tickers.filter (fun t => h.entryField t.1)⟩
    tickers := h.tickers.filter (fun t => !h.entryField t.1) } := by
  unfold Head.startOverlay
  rw [hm]

theorem startOverlay_overlay {h : Head} {old : HeadIx} {shadow : Shadow} (hm : h.mode = .overlay old shadow) (slot : HeadIx) :
    h.startOverlay slot = { h with mode := .overlay slot shadow } := by
  unfold Head.startOverlay
  rw [hm]

theorem endOverlay_overlay {h : Head} {slot : HeadIx} {shadow : Shadow} (hm : h.mode = .overlay slot shadow) (dwell n : Nat) :
    h.endOverlay dwell n = { h with
      mode := .pages (h.restoredPages dwell n shadow)
      tickers := shadow.tickers.foldl (fun l t => keyedPut t.1 t.2 l) h.tickers
      overlayTicker := none } := by
  unfold Head.endOverlay
  rw [hm]

theorem overlaySlot_startOverlay (h : Head) (slot : HeadIx) : (h.startOverlay slot).overlaySlot = some slot := by
  unfold Head.startOverlay
  split <;> rfl

theorem overlaySlot_endOverlay (dwell n : Nat) (h : Head) : (h.endOverlay dwell n).overlaySlot = none := by
  unfold Head.endOverlay Head.overlaySlot
  cases hm : h.mode with
  | pages p => simp only [hm]
  | overlay slot shadow => rfl

theorem entryField_eq (h : Head) (idx : Nat) :
    h.entryField idx = (keyedGet idx h.fields).any (fun x => x.record.kind.isEntry) := by
  unfold Head.entryField
  cases keyedGet idx h.fields <;> rfl

/-! ### The three restores of the page state (R132) -/

section Restore

variable {dwell n : Nat} {h : Head} {shadow : Shadow} {p : PageState} {kept : List Nat} (hp : p = shadow.page)
  (hkept : kept = p.holdSet.filter (fun i => (keyedGet i shadow.tickers).isSome))
include hp

theorem restoredPages_outOfRange (hpage : h.pageCount n ≤ p.page) :
    h.restoredPages dwell n shadow = ⟨0, .dwell, dwell, p.hold, []⟩ := by
  subst hp
  exact if_neg (Nat.not_lt.2 hpage)

include hkept

theorem restoredPages_saved (hpage : p.page < h.pageCount n) (hstay : p.phase = .dwell ∨ kept ≠ []) :
    h.restoredPages dwell n shadow = { p with holdSet := kept } := by
  subst hp hkept
  have hnot : ¬ (shadow.page.phase = .hold ∧ shadow.page.holdSet.filter (fun i => (keyedGet i shadow.tickers).isSome) = []) := by
    rintro ⟨hhold, hempty⟩
    rcases hstay with hdwell | hne
    · rw [hdwell] at hhold
      cases hhold
    · exact hne hempty
  exact (if_pos hpage).trans (if_neg hnot)

theorem restoredPages_holdEmptied (hpage : p.page < h.pageCount n) (hhold : p.phase = .hold) (hempty : kept = []) :
    h.restoredPages dwell n shadow = ⟨(p.page + 1) % h.pageCount n, .dwell, dwell, p.hold, []⟩ := by
  subst hp hkept
  exact (if_pos hpage).trans (if_pos ⟨hhold, hempty⟩)

end Restore

/-! ### With nothing changed in between -/

section Unchanged

variable {h : Head} {p : PageState} (hm : h.mode = .pages p)
include hm

/-- The end of an overlay gives every context back as it was (R132, R156). -/
theorem endOverlay_startOverlay_tickers (hn : (h.tickers.map Prod.fst).Nodup) (slot : HeadIx) (dwell n idx : Nat) :
    keyedGet idx (Head.endOverlay dwell n (h.startOverlay slot)).tickers = keyedGet idx h.tickers := by
  have hsaved : ((h.tickers.filter (fun t => h.entryField t.1)).map Prod.fst).Nodup :=
    hn.sublist (List.filter_sublist.map _)
  rw [startOverlay_pages hm, endOverlay_overlay rfl]
  exact (keyedGet_restored idx _ _ hsaved).trans (keyedGet_partition h.entryField h.tickers idx)

/-- The end of an overlay gives the page state back as it was: every member of the hold kept its context (R132). -/
theorem endOverlay_startOverlay_mode {n : Nat} (hpage : p.page < h.pageCount n)
    (hmembers : ∀ x ∈ p.holdSet, ∃ y ∈ h.tickers, y.1 = x ∧ h.entryField x = true)
    (hhold : p.phase = .hold → p.holdSet ≠ []) (slot : HeadIx) (dwell : Nat) :
    (Head.endOverlay dwell n (h.startOverlay slot)).mode = .pages p := by
  have hkept : p.holdSet = p.holdSet.filter
      (fun i => (keyedGet i (h.tickers.filter (fun t => h.entryField t.1))).isSome) := by
    refine (List.filter_eq_self.2 fun x hx => ?_).symm
    obtain ⟨y, hy, hyx, hentry⟩ := hmembers x hx
    rw [keyedGet_filter h.entryField, if_pos hentry]
    exact keyedGet_isSome.2 ⟨y, hy, hyx⟩
  have hstay : p.phase = .dwell ∨ p.holdSet ≠ [] := by
    cases hphase : p.phase with
    | dwell => exact Or.inl rfl
    | hold => exact Or.inr (hhold hphase)
  rw [startOverlay_pages hm, endOverlay_overlay rfl]
  exact congrArg HeadMode.pages (restoredPages_saved rfl hkept hpage hstay)

theorem endOverlay_startOverlay_fields (slot : HeadIx) (dwell n : Nat) :
    (Head.endOverlay dwell n (h.startOverlay slot)).fields = h.fields := by
  rw [startOverlay_pages hm, endOverlay_overlay rfl]

end Unchanged

/-- Settles O36: the start, the switch, the three restores, and the overlay number of a head taken. -/
theorem overlayReturnsThePage : Obligations.OverlayReturnsThePage := by
  refine ⟨fun slot dwell n h p hm hpage hn hmembers hhold => ⟨?_, ?_, ?_, ?_⟩, fun slot h => ⟨?_, ?_, ?_⟩, ?ends,
    fun s i slot h => ?taken⟩
  · exact endOverlay_startOverlay_tickers hm hn slot dwell n
  · exact endOverlay_startOverlay_mode hm hpage hmembers hhold slot dwell
  · exact endOverlay_startOverlay_fields hm slot dwell n
  · exact overlaySlot_startOverlay h slot
  · exact fun p hm => startOverlay_pages hm slot
  · exact fun old shadow hm => startOverlay_overlay hm slot
  · exact entryField_eq h
  case ends =>
    rintro dwell n pages h h' slot shadow p kept hm hp rfl hkept rfl
    rw [endOverlay_overlay hm]
    refine ⟨rfl, fun hpage hstay => ?_, fun hpage hhold hempty => ?_, fun hpage => ?_, fun hn idx => ?_⟩
    · exact congrArg HeadMode.pages (restoredPages_saved hp hkept hpage hstay)
    · exact congrArg HeadMode.pages (restoredPages_holdEmptied hp hkept hpage hhold hempty)
    · exact congrArg HeadMode.pages (restoredPages_outOfRange hp hpage)
    · refine (keyedGet_restored idx shadow.tickers h.tickers hn).trans ?_
      cases keyedGet idx shadow.tickers <;> rfl
  case taken =>
    obtain ⟨_, _, hothers, hentry, habandoned, _⟩ := takeHead_at s i slot h
    refine ⟨congrArg HeadEntry.overlayNumber hentry, congrArg HeadEntry.head hentry,
      fun hnone => (habandoned hnone).1, fun j hj => (hothers j hj).1⟩

end Sys2Proof.Machine
end

section
/-! PROOFS. Head Define and Head Drop (R119 to R121, R142, R168, R169). -/

namespace Sys2Proof.Machine

/-! ### Contexts discarded (R127, R156) -/

/-- Two records of a head agree but for the page state and the live contexts. -/
structure Head.SameButContexts (h h' : Head) : Prop where
  rest : h' = { h with mode := h'.mode, tickers := h'.tickers }
  slot : h'.overlaySlot = h.overlaySlot
  saved : h'.savedTickers = h.savedTickers

theorem Head.SameButContexts.refl (h : Head) : h.SameButContexts h := ⟨rfl, rfl, rfl⟩

theorem Head.SameButContexts.trans {a b c : Head} (h : a.SameButContexts b) (g : b.SameButContexts c) :
    a.SameButContexts c := by
  refine ⟨?_, g.slot.trans h.slot, g.saved.trans h.saved⟩
  rw [g.rest, h.rest]

theorem leaveHold_sameButContexts (h : Head) (dwell n i : Nat) : h.SameButContexts (h.leaveHold dwell n i) := by
  cases hm : h.mode with
  | pages p =>
    rw [leaveHold_pages hm]
    exact ⟨rfl, by simp [Head.overlaySlot, hm], by simp [Head.savedTickers, hm]⟩
  | overlay slot shadow =>
    rw [leaveHold_overlay hm]
    exact Head.SameButContexts.refl h

theorem leaveHold_tickers (h : Head) (dwell n i : Nat) : (h.leaveHold dwell n i).tickers = h.tickers := by
  cases hm : h.mode with
  | pages p => rw [leaveHold_pages hm]
  | overlay slot shadow => rw [leaveHold_overlay hm]

theorem discardTicker_sameButContexts (h : Head) (dwell n i : Nat) : h.SameButContexts (h.discardTicker dwell n i) :=
  Head.SameButContexts.trans (b := { h with tickers := keyedErase i h.tickers }) ⟨rfl, rfl, rfl⟩
    (leaveHold_sameButContexts _ dwell n i)

theorem discardTicker_tickers (h : Head) (dwell n i : Nat) :
    (h.discardTicker dwell n i).tickers = keyedErase i h.tickers := leaveHold_tickers _ dwell n i

/-- Contexts discarded one after another: those of the fields named are gone. -/
theorem foldl_discardTicker (dwell n : Nat) (l : List (Nat × Ticker)) : ∀ (h : Head),
    h.SameButContexts (l.foldl (fun h t => h.discardTicker dwell n t.1) h) ∧
    (l.foldl (fun h t => h.discardTicker dwell n t.1) h).tickers =
      h.tickers.filter (fun x => decide (x.1 ∉ l.map Prod.fst)) := by
  induction l with
  | nil => exact fun h => ⟨.refl h, by simp⟩
  | cons t l ih =>
    intro h
    obtain ⟨hsame, htickers⟩ := ih (h.discardTicker dwell n t.1)
    refine ⟨(discardTicker_sameButContexts h dwell n t.1).trans hsame, ?_⟩
    rw [List.foldl_cons, htickers, discardTicker_tickers, keyedErase, List.filter_filter]
    refine List.filter_congr fun x _ => ?_
    rw [Bool.eq_iff_iff]
    simp only [Bool.and_eq_true, decide_eq_true_eq, bne_iff_ne, List.map_cons, List.mem_cons, not_or]
    exact and_comm

theorem foldl_discardTicker_own (dwell n : Nat) (h : Head) :
    (h.tickers.foldl (fun h t => h.discardTicker dwell n t.1) h).tickers = [] := by
  rw [(foldl_discardTicker dwell n h.tickers h).2, List.filter_eq_nil_iff]
  intro x hx
  simpa using ⟨x.2, hx⟩

/-- A head whose contexts are all discarded keeps everything else, its overlay too (R120, R156). -/
theorem discardAll_spec (dwell n : Nat) (h : Head) :
    h.discardAll dwell n = { h with mode := (h.discardAll dwell n).mode, tickers := [], overlayTicker := none } ∧
    (h.discardAll dwell n).overlaySlot = h.overlaySlot ∧ (h.discardAll dwell n).savedTickers = [] := by
  obtain ⟨hrest, hslot, _⟩ := (foldl_discardTicker dwell n h.tickers h).1
  have htickers := foldl_discardTicker_own dwell n h
  unfold Head.discardAll
  dsimp only
  generalize h.tickers.foldl (fun h t => h.discardTicker dwell n t.1) h = x at hrest hslot htickers
  rw [← hslot]
  refine ⟨?_, ?_⟩
  · rw [hrest, htickers]
  · cases hm : x.mode <;> simp [Head.overlaySlot, Head.savedTickers, hm]

/-! ### A head's buffers and composition go (R142) -/

/-- A head frame to the head clears the head's front at its end. -/
def HeadFrame.clearedFor (i : HeadIx) (f : HeadFrame) : HeadFrame := if f.head = i then { f with clearFront := true } else f

/-- A head's record replaced, its composition abandoned and its buffers cleared, the front at the end of a head frame to it. -/
def State.headReplaced (s : State) (i : HeadIx) (x : Option Head) : State :=
  { s with
    heads := s.heads.set i { s.heads.get i with head := x }
    comps := s.comps.set i none
    buffers := s.buffers.set i (if s.sendingTo i then { s.buffers.get i with back := 0, backState := .idle }
      else ⟨0, 0, .unsent, .idle⟩)
    link := { s.link with
      sending := s.link.sending.map (HeadFrame.clearedFor i) } }

/-- The composition of an index is gone, and its back, once cleared, is the same whether it was composing or not. -/
theorem abandon_eq (s : State) (i : HeadIx) : ∃ b : Buffers, s.abandon i = { s with
      comps := s.comps.set i none
      buffers := s.buffers.set i b } ∧
    { b with back := 0, backState := .idle } = { s.buffers.get i with back := 0, backState := .idle } := by
  rcases abandon_cases s i with ⟨hnone, e⟩ | e <;> rw [e]
  · refine ⟨s.buffers.get i, ?_, rfl⟩
    rw [← hnone, Bank8.set_get, Bank8.set_get]
  · exact ⟨_, rfl, rfl⟩

/-- The buffers cleared, the front at the end of a head frame in transmission to the head (R142, R164). -/
theorem clearBuffers_eq (s : State) (i : HeadIx) : s.clearBuffers i = { s with
    buffers := s.buffers.set i (if s.sendingTo i then { s.buffers.get i with back := 0, backState := .idle }
      else ⟨0, 0, .unsent, .idle⟩)
    link := { s.link with
      sending := s.link.sending.map (HeadFrame.clearedFor i) } } := by
  unfold State.clearBuffers State.sendingTo
  split
  · next f hs =>
    rw [hs, Option.map_some, HeadFrame.clearedFor]
    by_cases hf : f.head = i
    · simp [hf]
    · simp only [hf, if_false, decide_false, Bool.false_eq_true]
      rw [← hs]
      rfl
  · next hs =>
    rw [hs, Option.map_none, ← hs]
    rfl

theorem headReplaced_eq (s : State) (i : HeadIx) (x : Option Head) :
    ((s.setHead i x).abandon i).clearBuffers i = s.headReplaced i x := by
  obtain ⟨b, hb, hcleared⟩ := abandon_eq (s.setHead i x) i
  rw [hb, clearBuffers_eq]
  dsimp only at hcleared ⊢
  rw [Bank8.get_set_self, Bank8.set_set, hcleared]
  rfl

/-! ### What a Head Define's payload holds (R119) -/

theorem headIxOf_val (i : HeadIx) : headIxOf i.val = some i := dif_pos i.isLt

theorem headIxOf_none {n : Nat} (h : 7 < n) : headIxOf n = none := dif_neg (by omega)

theorem clamp_eq_max_min {lo hi : Nat} (h : lo ≤ hi) (v : Nat) : clamp lo hi v = max lo (min v hi) := by
  unfold clamp
  split
  · omega
  · split <;> omega

theorem headData_ofPayload (i : HeadIx) {w h mode level font row : Nat} (hw : w ≤ 65535) (hh : h ≤ 255) (hmode : mode ≤ 1)
    (hlevel : level ≤ 255) (hfont : font ≤ 3) (hrow : row ≤ 255) :
    HeadData.ofPayload ([b8 i.val] ++ b16 w ++ [b8 h, b8 mode, b8 level, b8 font, b8 row]) =
      some (i, ⟨max 32 (min (w / 8 * 8) 256), max 8 (min h 32), if mode = 0 then .auto else .fixed (min level 15), font,
        min row 31, !decide (w % 8 = 0 ∧ 32 ≤ w ∧ w ≤ 256 ∧ 8 ≤ h ∧ h ≤ 32 ∧ (mode = 0 ∨ level ≤ 15) ∧ row ≤ 31)⟩) := by
  generalize hp : [b8 i.val] ++ b16 w ++ [b8 h, b8 mode, b8 level, b8 font, b8 row] = p
  have h0 : u8 p 0 = i.val := hp ▸ b8_toNat (by omega)
  have h1 : u16 p 1 = w := hp ▸ u16_append [b8 i.val] [b8 h, b8 mode, b8 level, b8 font, b8 row] hw
  have h3 : u8 p 3 = h := hp ▸ b8_toNat hh
  have h4 : u8 p 4 = mode := hp ▸ b8_toNat (by omega)
  have h5 : u8 p 5 = level := hp ▸ b8_toNat hlevel
  have h6 : u8 p 6 = font := hp ▸ b8_toNat (by omega)
  have h7 : u8 p 7 = row := hp ▸ b8_toNat hrow
  have hlen : p.length = 8 := hp ▸ rfl
  have hadjusted : (decide (max 32 (min (w / 8 * 8) 256) ≠ w) || decide (max 8 (min h 32) ≠ h) ||
      (decide (mode = 1) && decide (min level 15 ≠ level)) || decide (min row 31 ≠ row)) =
      !decide (w % 8 = 0 ∧ 32 ≤ w ∧ w ≤ 256 ∧ 8 ≤ h ∧ h ≤ 32 ∧ (mode = 0 ∨ level ≤ 15) ∧ row ≤ 31) := by
    rw [Bool.eq_iff_iff]
    simp only [Bool.or_eq_true, Bool.and_eq_true, decide_eq_true_eq, Bool.not_eq_true', decide_eq_false_iff_not]
    omega
  unfold HeadData.ofPayload
  simp only [h0, h1, h3, h4, h5, h6, h7, hlen, headIxOf_val, clamp_eq_max_min (show 32 ≤ 256 by decide),
    clamp_eq_max_min (show 8 ≤ 32 by decide), hadjusted]
  exact if_neg (by omega)

theorem headData_malformed {p : List Byte} (h : p.length ≠ 8 ∨ 7 < u8 p 0 ∨ 1 < u8 p 4 ∨ 3 < u8 p 6) :
    HeadData.ofPayload p = none := by
  unfold HeadData.ofPayload
  split
  · rfl
  · rw [headIxOf_none (by omega)]

/-! ### What a Head Define and a Head Drop do (R120, R121) -/

theorem putHead_malformed {p : List Byte} (hp : HeadData.ofPayload p = none) (s : State) : s.putHead p = (s, .malformed) := by
  unfold State.putHead
  rw [hp]

theorem putHead_eq {p : List Byte} {i : HeadIx} {d : HeadData} (hp : HeadData.ofPayload p = some (i, d)) (s : State) :
    s.putHead p = ((s.defineHead i d).headRedefined i, doneOr d.adjusted) := by
  unfold State.putHead
  rw [hp]

theorem defineHead_undefined {s : State} {i : HeadIx} (h : s.head i = none) (d : HeadData) :
    s.defineHead i d = s.setHead i (some (d.newHead s.mgmt.settings.dwell)) := by
  unfold State.defineHead
  rw [h]

theorem defineHead_sameGeometry {s : State} {i : HeadIx} {h : Head} (hi : s.head i = some h) {d : HeadData}
    (hgeometry : h.width = d.width ∧ h.height = d.height) : s.defineHead i d = s.setHead i (some (h.redefined d)) := by
  unfold State.defineHead
  rw [hi]
  exact if_pos hgeometry

theorem defineHead_otherGeometry {s : State} {i : HeadIx} {h : Head} (hi : s.head i = some h) {d : HeadData}
    (hgeometry : ¬ (h.width = d.width ∧ h.height = d.height)) : s.defineHead i d =
      s.headReplaced i (some ((h.redefined d).discardAll s.mgmt.settings.dwell s.entryCount)) := by
  unfold State.defineHead
  rw [hi]
  exact (if_neg hgeometry).trans (headReplaced_eq s i _)

theorem dropHead_malformed {p : List Byte} (h : p.length ≠ 1 ∨ 7 < u8 p 0) (s : State) : s.dropHead p = (s, .malformed) := by
  unfold State.dropHead
  split
  · rfl
  · rw [headIxOf_none (by omega)]

theorem dropHead_byte (s : State) (i : HeadIx) : s.dropHead [b8 i.val] =
    (s.head i).elim (s, .notFound) fun _ => (((s.headReplaced i none).headRedefined i).leaveRound i, .done) := by
  have h0 : u8 [b8 i.val] 0 = i.val := b8_toNat (by omega)
  unfold State.dropHead
  rw [if_neg (by simp), h0, headIxOf_val, ← headReplaced_eq]
  dsimp only
  cases s.head i <;> rfl

theorem dropHead_undefined {s : State} {i : HeadIx} (h : s.head i = none) : s.dropHead [b8 i.val] = (s, .notFound) := by
  rw [dropHead_byte, h, Option.elim_none]

theorem dropHead_defined {s : State} {i : HeadIx} (h : s.head i ≠ none) :
    s.dropHead [b8 i.val] = (((s.headReplaced i none).headRedefined i).leaveRound i, .done) := by
  obtain ⟨x, hx⟩ := Option.ne_none_iff_exists'.1 h
  rw [dropHead_byte, hx, Option.elim_some]

/-! ### The frames complete (R12) -/

theorem besidePort_headReplaced (i : HeadIx) (x : Option Head) : BesidePort fun s => s.headReplaced i x :=
  BesidePort.of_comm fun _ _ _ => rfl

section Complete

variable {f : FeedFrame} {s : State} {i : HeadIx} (htakes : s.TakesData f)
include htakes

/-- A Head Define that reads well completes with the record it puts and the head's link state UNKNOWN (R120, R169). -/
theorem headDefine_completes {d : HeadData} {op : State → State} (hop : BesidePort op)
    (hp : HeadData.ofPayload f.payload = some (i, d)) (hdefine : s.arrived.defineHead i d = op s.arrived) :
    Completes (.headDefine f) f .headDefine s ((op s).headRedefined i) (doneOr d.adjusted) :=
  ((besidePort_headRedefined i).comp hop).completes rfl rfl htakes
    ((putHead_eq hp s.arrived).trans (congrArg (fun t => (State.headRedefined t i, doneOr d.adjusted)) hdefine))

theorem headDrop_completes (hp : f.payload = [b8 i.val]) (hi : s.head i ≠ none) :
    Completes (.headDrop f) f .headDrop s (((s.headReplaced i none).headRedefined i).leaveRound i) .done :=
  ((besidePort_leaveRound i).comp ((besidePort_headRedefined i).comp (besidePort_headReplaced i none))).completes rfl rfl
    htakes ((congrArg s.arrived.dropHead hp).trans (dropHead_defined (s := s.arrived) hi))

end Complete

/-- Settles O33: the payload, the link's share, and each of the three defines and the drop. -/
theorem headDefineAndDrop : Obligations.HeadDefineAndDrop := by
  refine ⟨fun i w h mode level font row hw hh hmode hlevel hfont hrow =>
      headData_ofPayload i hw hh hmode hlevel hfont hrow,
    fun f s htakes => ⟨fun hform => ?_, fun hform => ?_⟩, fun s i => ⟨?_, fun j hj => ?_, rfl, rfl⟩,
    fun f s i d htakes hp => ⟨fun hi => ?undefined, fun h hi hwidth hheight => ?same, fun h hi hgeometry => ?other⟩,
    fun f s u i htakes hp => ⟨fun hi => ?absent, fun hi hu => ?drop⟩⟩
  · exact dataFrame_refused rfl rfl htakes (putHead_malformed (headData_malformed hform) s.arrived)
  · exact dataFrame_refused rfl rfl htakes (dropHead_malformed hform s.arrived)
  · exact Bank8.get_set_self _ _ _
  · exact Bank8.get_set_ne _ _ hj
  case undefined =>
    exact headDefine_completes htakes (besidePort_setHead i _) hp (defineHead_undefined (s := s.arrived) hi d)
  case same =>
    have hrecord : h.redefined d = { h with
        brightness := d.brightness, overlayFont := d.overlayFont, overlayRow := d.overlayRow } := by
      unfold Head.redefined
      rw [← hwidth, ← hheight]
    rw [← hrecord]
    exact headDefine_completes htakes (besidePort_setHead i _) hp
      (defineHead_sameGeometry (s := s.arrived) hi ⟨hwidth, hheight⟩)
  case other =>
    obtain ⟨hrest, hslot, hsaved⟩ := discardAll_spec s.mgmt.settings.dwell s.entryCount (h.redefined d)
    have hkeeps {α : Type} (g : Head → α) := congrArg g hrest
    refine ⟨_, _, hkeeps Head.width, hkeeps Head.height, hkeeps Head.brightness, hkeeps Head.overlayFont,
      hkeeps Head.overlayRow, hkeeps Head.fields, hkeeps Head.tickers, hkeeps Head.overlayTicker, hsaved, hslot, rfl, ?_⟩
    exact headDefine_completes htakes (besidePort_headReplaced i _) hp
      (defineHead_otherGeometry (s := s.arrived) hi hgeometry)
  case absent =>
    exact dataFrame_refused rfl rfl htakes
      ((congrArg s.arrived.dropHead hp).trans (dropHead_undefined (s := s.arrived) hi))
  case drop =>
    subst hu
    exact headDrop_completes htakes hp hi

end Sys2Proof.Machine
end

section
/-! PROOFS. Field Put and Field Drop (R122 to R124, R151). -/

namespace Sys2Proof.Machine

/-! ### Codes read (R194, R197) -/

theorem fieldKind_ofCode_code (k : FieldKind) : FieldKind.ofCode k.code = some k := by
  cases k <;> rfl

theorem align_ofCode_code (a : Align) : Align.ofCode a.code = some a := by
  cases a <;> rfl

theorem fitPolicy_ofCode_code (x : FitPolicy) : FitPolicy.ofCode x.code = some x := by
  cases x <;> rfl

theorem fieldKind_code_le (k : FieldKind) : k.code ≤ 10 := by
  cases k <;> decide

theorem align_code_le (a : Align) : a.code ≤ 2 := by
  cases a <;> decide

theorem fitPolicy_code_le (x : FitPolicy) : x.code ≤ 1 := by
  cases x <;> decide

/-- The codes of the entry kinds are 0 to 7, those of the other kinds 8 to 10 (R122, R197). -/
theorem fieldKind_of_ofCode {n : Nat} {k : FieldKind} (h : FieldKind.ofCode n = some k) :
    n ≤ 10 ∧ k.isEntry = decide (n ≤ 7) := by
  unfold FieldKind.ofCode at h
  split at h <;> cases h <;> decide

theorem align_of_ofCode {n : Nat} {a : Align} (h : Align.ofCode n = some a) : n ≤ 2 := by
  unfold Align.ofCode at h
  split at h <;> cases h <;> decide

theorem fitPolicy_of_ofCode {n : Nat} {x : FitPolicy} (h : FitPolicy.ofCode n = some x) : n ≤ 1 := by
  unfold FitPolicy.ofCode at h
  split at h <;> cases h <;> decide

theorem headIxOf_le {n : Nat} {i : HeadIx} (h : headIxOf n = some i) : n ≤ 7 := by
  by_contra hn
  rw [headIxOf_none (by omega)] at h
  cases h

/-- No item of a glyph string that reads well is bad (R84). -/
theorem itemsAt_good {p : List Byte} {n : Nat} : ∀ {off : Nat} {xs : List Item}, itemsAt p off n = some xs →
    ∀ k, k < n → Item.ofCode (u16 p (off + 2 * k)) ≠ none := by
  induction n with
  | zero => exact fun _ k hk => absurd hk (Nat.not_lt_zero k)
  | succ n ih =>
    intro off xs h k hk
    unfold itemsAt at h
    split at h
    · next x rest hx hrest =>
      cases k with
      | zero => exact fun hnone => Option.some_ne_none x (hx.symm.trans hnone)
      | succ k =>
        rw [show off + 2 * (k + 1) = off + 2 + 2 * k by omega]
        exact ih hrest k (Nat.lt_of_succ_lt_succ hk)
    · cases h

/-! ### What a Field Put's payload holds (R123) -/

/-- The values of a Field Put's payload before its text. -/
structure FieldFront where
  head       : HeadIx
  index      : Nat
  kind       : FieldKind
  slot       : Nat
  x          : Nat
  y          : Nat
  width      : Nat
  font       : Nat
  align      : Align
  fit        : FitPolicy
  speed      : Nat
  spacer     : Nat
  noticeSlot : Nat
  flags      : Byte
  count      : Nat

/-- The first sixteen bytes of a Field Put (R198). -/
def FieldFront.bytes (a : FieldFront) : List Byte :=
  [b8 a.head.val, b8 a.index, b8 a.kind.code, b8 a.slot, b8 a.x, b8 a.y] ++ b16 a.width ++
    [b8 a.font, b8 a.align.code, b8 a.fit.code, b8 a.speed, b8 a.spacer, b8 a.noticeSlot, a.flags, b8 a.count]

/-- The values that the form test lets through (R123). -/
structure FieldFront.Formed (a : FieldFront) : Prop where
  index : a.index ≤ 23
  slot : a.slot ≤ 8
  entry : a.kind.isEntry = true ↔ a.slot ≠ 0
  x : a.x ≤ 255
  y : a.y ≤ 255
  width_pos : 1 ≤ a.width
  width : a.width ≤ 65535
  font : a.font ≤ 3
  speed : a.speed ≤ 255
  spacer : a.spacer ≤ 255
  noticeSlot : a.noticeSlot ≤ 7
  count : a.count ≤ 24

/-- The record a Field Put stores, its values taken into their ranges (R123). -/
def FieldFront.record (a : FieldFront) (text : List Item) : FieldRecord :=
  ⟨a.kind, a.slot, a.x, min a.y 31, min a.width 256, a.font, a.align, a.fit, max 1 (min a.speed 64), min a.spacer 64,
    a.noticeSlot, text, a.flags.getLsbD 0⟩

/-- A Field Put's payload is read value by value (R123). -/
theorem fieldData_ofFront {a : FieldFront} (h : a.Formed) {text : List Item} (hcount : a.count = text.length)
    (htext : ∀ t ∈ text, Item.ofCode t.code = some t) :
    FieldData.ofPayload (a.bytes ++ itemBytes text) = some ⟨a.head, a.index, a.record text,
      !decide (a.y ≤ 31 ∧ a.width ≤ 256 ∧ 1 ≤ a.speed ∧ a.speed ≤ 64 ∧ a.spacer ≤ 64)⟩ := by
  obtain ⟨hindex, hslot, hentry, hx, hy, hpos, hwidth, hfont, hspeed, hspacer, hnotice, hle⟩ := h
  have hlen : (a.bytes ++ itemBytes text).length = 16 + 2 * text.length := by
    rw [List.length_append, itemBytes_length]
    rfl
  have hitems : itemsAt (a.bytes ++ itemBytes text) 16 text.length = some text := by
    have hread := itemsAt_itemBytes text a.bytes [] htext
    rwa [List.append_nil] at hread
  generalize hp : a.bytes ++ itemBytes text = p at hlen hitems
  have h0 : u8 p 0 = a.head.val := hp ▸ b8_toNat (by omega)
  have h1 : u8 p 1 = a.index := hp ▸ b8_toNat (by omega)
  have h2 : u8 p 2 = a.kind.code := hp ▸ b8_toNat ((fieldKind_code_le a.kind).trans (by decide))
  have h3 : u8 p 3 = a.slot := hp ▸ b8_toNat (by omega)
  have h4 : u8 p 4 = a.x := hp ▸ b8_toNat hx
  have h5 : u8 p 5 = a.y := hp ▸ b8_toNat hy
  have h6 : u16 p 6 = a.width :=
    hp ▸ u16_append [b8 a.head.val, b8 a.index, b8 a.kind.code, b8 a.slot, b8 a.x, b8 a.y] _ hwidth
  have h8 : u8 p 8 = a.font := hp ▸ b8_toNat (by omega)
  have h9 : u8 p 9 = a.align.code := hp ▸ b8_toNat ((align_code_le a.align).trans (by decide))
  have h10 : u8 p 10 = a.fit.code := hp ▸ b8_toNat ((fitPolicy_code_le a.fit).trans (by decide))
  have h11 : u8 p 11 = a.speed := hp ▸ b8_toNat hspeed
  have h12 : u8 p 12 = a.spacer := hp ▸ b8_toNat hspacer
  have h13 : u8 p 13 = a.noticeSlot := hp ▸ b8_toNat (by omega)
  have h14 : flagBit (u8 p 14) 0 = a.flags.getLsbD 0 := hp ▸ rfl
  have h15 : u8 p 15 = text.length := hcount ▸ hp ▸ b8_toNat (by omega)
  have hkind : ¬ a.kind.isEntry = decide (a.slot = 0) := by
    rw [Bool.eq_iff_iff, hentry, decide_eq_true_eq]
    omega
  have hclamped : (decide (min a.y 31 ≠ a.y) || decide (min a.width 256 ≠ a.width) ||
      decide (max 1 (min a.speed 64) ≠ a.speed) || decide (min a.spacer 64 ≠ a.spacer)) =
      !decide (a.y ≤ 31 ∧ a.width ≤ 256 ∧ 1 ≤ a.speed ∧ a.speed ≤ 64 ∧ a.spacer ≤ 64) := by
    rw [Bool.eq_iff_iff]
    simp only [Bool.or_eq_true, decide_eq_true_eq, Bool.not_eq_true', decide_eq_false_iff_not]
    omega
  unfold FieldData.ofPayload
  simp only [h0, h1, h2, h3, h4, h5, h6, h8, h9, h10, h11, h12, h13, h14, h15, hlen, hitems, headIxOf_val,
    fieldKind_ofCode_code, align_ofCode_code, fitPolicy_ofCode_code, clamp_eq_max_min (show 1 ≤ 64 by decide), hclamped]
  exact (if_neg (by omega)).trans (if_neg hkind)

/-- A Field Put outside the form test is MALFORMED (R123). -/
theorem fieldData_malformed {p : List Byte}
    (h : p.length ≠ 16 + 2 * u8 p 15 ∨ 24 < u8 p 15 ∨ 7 < u8 p 0 ∨ 23 < u8 p 1 ∨ 10 < u8 p 2 ∨ 8 < u8 p 3 ∨
      (u8 p 2 ≤ 7 ∧ u8 p 3 = 0) ∨ (8 ≤ u8 p 2 ∧ u8 p 3 ≠ 0) ∨ u16 p 6 = 0 ∨ 3 < u8 p 8 ∨ 2 < u8 p 9 ∨ 1 < u8 p 10 ∨
      7 < u8 p 13 ∨ (∃ k, k < u8 p 15 ∧ Item.ofCode (u16 p (16 + 2 * k)) = none)) : FieldData.ofPayload p = none := by
  unfold FieldData.ofPayload
  split
  · rfl
  · next hform =>
    split
    · next hhead hkind halign hfit htext =>
      have hhead := headIxOf_le hhead
      obtain ⟨hkindLe, hentry⟩ := fieldKind_of_ofCode hkind
      have halign := align_of_ofCode halign
      have hfit := fitPolicy_of_ofCode hfit
      have hgood : ¬ ∃ k, k < u8 p 15 ∧ Item.ofCode (u16 p (16 + 2 * k)) = none := by
        rintro ⟨k, hk, hbad⟩
        exact itemsAt_good htext k hk hbad
      simp only [hgood, or_false] at h
      refine if_pos ?_
      rw [hentry, decide_eq_decide]
      omega
    · rfl

/-! ### A record changed, its contexts discarded (R123, R124, R156; log 32) -/

/-- The fields replaced, and the contexts of one of them discarded, the saved one first. -/
def Head.fieldChanged (dwell n i : Nat) (fields : List (Nat × FieldSlot)) (h : Head) : Head :=
  Head.discardTicker dwell n i (Head.discardSaved i { h with fields := fields })

theorem discardSaved_spec (i : Nat) (h : Head) : h.discardSaved i = { h with mode := (h.discardSaved i).mode } ∧
    (h.discardSaved i).overlaySlot = h.overlaySlot ∧
    (h.discardSaved i).savedTickers = keyedErase i h.savedTickers := by
  unfold Head.discardSaved
  cases hm : h.mode with
  | pages p => exact ⟨rfl, rfl, by simp [Head.savedTickers, hm, keyedErase]⟩
  | overlay slot shadow => exact ⟨rfl, by simp [Head.overlaySlot, hm], by simp [Head.savedTickers, hm]⟩

theorem fieldChanged_spec (dwell n i : Nat) (fields : List (Nat × FieldSlot)) (h : Head) :
    h.fieldChanged dwell n i fields =
      { h with
        fields := fields
        mode := (h.fieldChanged dwell n i fields).mode
        tickers := keyedErase i h.tickers } ∧
    (h.fieldChanged dwell n i fields).overlaySlot = h.overlaySlot ∧
    (h.fieldChanged dwell n i fields).savedTickers = keyedErase i h.savedTickers := by
  obtain ⟨hsaved, hsavedSlot, hsavedTickers⟩ := discardSaved_spec i { h with fields := fields }
  unfold Head.fieldChanged
  generalize Head.discardSaved i { h with fields := fields } = x at hsaved hsavedSlot hsavedTickers ⊢
  obtain ⟨hrest, hslot, hkept⟩ := discardTicker_sameButContexts x dwell n i
  rw [discardTicker_tickers] at hrest
  refine ⟨hrest.trans ?_, hslot.trans hsavedSlot, hkept.trans hsavedTickers⟩
  rw [hsaved]

/-! ### What the frames do -/

theorem putField_defined {p : List Byte} {d : FieldData} (hp : FieldData.ofPayload p = some d) {s : State} {h : Head}
    (hi : s.head d.head = some h) : s.putField p =
      (s.setHead d.head (some (h.fieldChanged s.mgmt.settings.dwell s.entryCount d.index
        (keyedPut d.index ⟨d.record, .notPainted⟩ h.fields))), doneOr d.clamped) := by
  simp only [State.putField, hp, hi, Head.fieldChanged]

theorem putField_undefined {p : List Byte} {d : FieldData} (hp : FieldData.ofPayload p = some d) {s : State}
    (hi : s.head d.head = none) : s.putField p = (s, .notFound) := by
  simp only [State.putField, hp, hi]

theorem putField_malformed {p : List Byte} (hp : FieldData.ofPayload p = none) (s : State) : s.putField p = (s, .malformed) := by
  unfold State.putField
  rw [hp]

theorem dropField_malformed {p : List Byte} (h : p.length ≠ 2 ∨ 7 < u8 p 0 ∨ 23 < u8 p 1) (s : State) :
    s.dropField p = (s, .malformed) := by
  unfold State.dropField
  split
  · rfl
  · rw [headIxOf_none (by omega)]

section Drop

variable {s : State} {i : HeadIx} {idx : Nat} (hidx : idx ≤ 23)
include hidx

theorem dropField_eq : s.dropField [b8 i.val, b8 idx] = (s.head i).elim (s, .notFound) fun h =>
    (keyedGet idx h.fields).elim (s, .notFound) fun _ =>
      (s.setHead i (some (h.fieldChanged s.mgmt.settings.dwell s.entryCount idx (keyedErase idx h.fields))), .done) := by
  have h0 : u8 [b8 i.val, b8 idx] 0 = i.val := b8_toNat (by omega)
  have h1 : u8 [b8 i.val, b8 idx] 1 = idx := b8_toNat (by omega)
  unfold State.dropField
  rw [h0, h1, headIxOf_val, if_neg (by simp; omega)]
  dsimp only
  cases s.head i with
  | none => rfl
  | some h =>
    dsimp only [Option.elim]
    cases keyedGet idx h.fields <;> rfl

theorem dropField_notHeld (hnone : ∀ h, s.head i = some h → keyedGet idx h.fields = none) :
    s.dropField [b8 i.val, b8 idx] = (s, .notFound) := by
  rw [dropField_eq hidx]
  cases hi : s.head i with
  | none => rw [Option.elim_none]
  | some h => rw [Option.elim_some, hnone h hi, Option.elim_none]

theorem dropField_held {h : Head} {x : FieldSlot} (hi : s.head i = some h) (hx : keyedGet idx h.fields = some x) :
    s.dropField [b8 i.val, b8 idx] =
      (s.setHead i (some (h.fieldChanged s.mgmt.settings.dwell s.entryCount idx (keyedErase idx h.fields))), .done) := by
  rw [dropField_eq hidx, hi, Option.elim_some, hx, Option.elim_some]

end Drop

/-- Settles O34: the payload, its form test, and what each frame does to its head's record. -/
theorem fieldPutAndDrop : Obligations.FieldPutAndDrop := by
  refine ⟨?payload, fun f s p htakes hp => ⟨fun hform => ?_, fun hform => ?_⟩,
    fun f s d h htakes hp hi => ?put, fun f s d htakes hp hi => ?undefined,
    fun f s i idx htakes hp hidx => ⟨fun hnone => ?notHeld, fun h x hi hx => ?drop⟩⟩
  case payload =>
    intro i index slot x y w font speed spacer notice kind align fit flags text hindex hslot hentry hx hy hpos hw hfont
      hspeed hspacer hnotice hcount htext
    exact fieldData_ofFront (a := ⟨i, index, kind, slot, x, y, w, font, align, fit, speed, spacer, notice, flags, text.length⟩)
      ⟨hindex, hslot, hentry, hx, hy, hpos, hw, hfont, hspeed, hspacer, hnotice, hcount⟩ rfl htext
  · subst hp
    exact dataFrame_refused rfl rfl htakes (putField_malformed (fieldData_malformed hform) s.arrived)
  · subst hp
    exact dataFrame_refused rfl rfl htakes (dropField_malformed hform s.arrived)
  case put =>
    obtain ⟨hrest, hslot, hsaved⟩ := fieldChanged_spec s.mgmt.settings.dwell s.entryCount d.index
      (keyedPut d.index ⟨d.record, .notPainted⟩ h.fields) h
    have hkeeps {α : Type} (g : Head → α) := congrArg g hrest
    refine ⟨_, hkeeps Head.fields, hkeeps Head.tickers, hsaved, hkeeps Head.width, hkeeps Head.height,
      hkeeps Head.brightness, hkeeps Head.overlayTicker, hslot, ?_⟩
    exact (besidePort_setHead d.head _).completes rfl rfl htakes (putField_defined hp (s := s.arrived) hi)
  case undefined =>
    exact dataFrame_refused rfl rfl htakes (putField_undefined hp (s := s.arrived) hi)
  case notHeld =>
    exact dataFrame_refused rfl rfl htakes
      ((congrArg s.arrived.dropField hp).trans (dropField_notHeld (s := s.arrived) hidx hnone))
  case drop =>
    obtain ⟨hrest, hslot, hsaved⟩ := fieldChanged_spec s.mgmt.settings.dwell s.entryCount idx (keyedErase idx h.fields) h
    have hkeeps {α : Type} (g : Head → α) := congrArg g hrest
    refine ⟨_, hkeeps Head.fields, hkeeps Head.tickers, hsaved, hkeeps Head.width, hkeeps Head.height,
      hkeeps Head.brightness, hkeeps Head.overlayTicker, hslot, ?_⟩
    exact (besidePort_setHead i _).completes rfl rfl htakes
      ((congrArg s.arrived.dropField hp).trans (dropField_held (s := s.arrived) hidx hi hx))

end Sys2Proof.Machine
end

section
/-! PROOFS. Notice Put, Append and Notice Clear, with the overlays they start, switch and end (R129 to R132, R136, R142). -/

namespace Sys2Proof.Machine

/-! ### Overlays that end with a slot (R130, R132, R142) -/

/-- What becomes of a head when the overlays of some slots end: the head that shows one is restored and its composition abandoned,
every other head is left. -/
structure EndedAt (ends : HeadIx → Prop) (s t : State) (i : HeadIx) : Prop where
  ended : ∀ h slot, s.head i = some h → h.overlaySlot = some slot → ends slot → s.AbandonedAt t i ∧
    t.heads.get i = { s.heads.get i with head := some (h.endOverlay s.mgmt.settings.dwell s.entryCount) }
  kept : (∀ h slot, s.head i = some h → h.overlaySlot = some slot → ¬ ends slot) → s.SameAt t i

theorem head_of_sameAt {s t : State} {i : HeadIx} (h : s.SameAt t i) : t.head i = s.head i := congrArg HeadEntry.head h.1

/-- What abandons a composition is told by what stands at the index before and after. -/
theorem abandonedAt_of_same {s u v t : State} {i : HeadIx} (h : u.AbandonedAt v i) (hs : s.SameAt u i) (hv : v.SameAt t i) :
    s.AbandonedAt t i := by
  obtain ⟨_, hcomp, hbuffers⟩ := hs
  obtain ⟨_, hcomp', hbuffers'⟩ := hv
  refine ⟨hcomp'.trans h.1, hbuffers'.trans ?_⟩
  rw [h.2, hcomp, hbuffers]

/-- The end of overlays at an index depends on that index and on what the restore reads. -/
theorem EndedAt.of_same {ends : HeadIx → Prop} {s u v t : State} {i : HeadIx} (h : EndedAt ends u v i)
    (hdwell : u.mgmt.settings.dwell = s.mgmt.settings.dwell) (hcount : u.entryCount = s.entryCount) (hs : s.SameAt u i)
    (hv : v.SameAt t i) : EndedAt ends s t i := by
  have hhead := head_of_sameAt hs
  refine ⟨fun x slot hi hslot hends => ?_, fun hnone => ?_⟩
  · obtain ⟨habandoned, hentry⟩ := h.ended x slot (hhead.trans hi) hslot hends
    refine ⟨abandonedAt_of_same habandoned hs hv, hv.1.trans ?_⟩
    rw [hentry, hs.1, hdwell, hcount]
  · exact SameAt.trans hs (SameAt.trans (h.kept fun x slot hi => hnone x slot (hhead.symm.trans hi)) hv)

theorem EndedAt.congr {A B : HeadIx → Prop} {s t : State} {i : HeadIx} (h : EndedAt A s t i) (hAB : ∀ x, A x ↔ B x) :
    EndedAt B s t i :=
  ⟨fun x slot hi hslot hends => h.ended x slot hi hslot ((hAB slot).2 hends),
    fun hnone => h.kept fun x slot hi hslot hends => hnone x slot hi hslot ((hAB slot).1 hends)⟩

/-- Overlays that end one slot after another: a head restored shows no slot any more. -/
theorem EndedAt.trans {A B : HeadIx → Prop} {s u t : State} {i : HeadIx} (h : EndedAt A s u i) (g : EndedAt B u t i)
    (hdwell : u.mgmt.settings.dwell = s.mgmt.settings.dwell) (hcount : u.entryCount = s.entryCount) :
    EndedAt (fun x => A x ∨ B x) s t i := by
  have huntouched (hA : ∀ x slot, s.head i = some x → x.overlaySlot = some slot → ¬ A slot) : EndedAt B s t i :=
    g.of_same hdwell hcount (h.kept hA) ⟨rfl, rfl, rfl⟩
  refine ⟨fun x slot hi hslot hends => ?_, fun hnone => ?_⟩
  · by_cases hA : A slot
    · obtain ⟨habandoned, hentry⟩ := h.ended x slot hi hslot hA
      have hsame : u.SameAt t i := g.kept fun y slot' hy hslot' => by
        have hrestored : u.head i = some (x.endOverlay s.mgmt.settings.dwell s.entryCount) := congrArg HeadEntry.head hentry
        rw [Option.some.inj (hy.symm.trans hrestored), overlaySlot_endOverlay] at hslot'
        cases hslot'
      exact ⟨abandonedAt_of_same habandoned ⟨rfl, rfl, rfl⟩ hsame, hsame.1.trans hentry⟩
    · refine (huntouched fun y slot' hy hslot' => ?_).ended x slot hi hslot (hends.resolve_left hA)
      rw [Option.some.inj (hy.symm.trans hi), hslot] at hslot'
      exact Option.some.inj hslot' ▸ hA
  · exact (huntouched fun x slot hi hslot hA => hnone x slot hi hslot (Or.inl hA)).kept
      fun x slot hi hslot hB => hnone x slot hi hslot (Or.inr hB)

theorem releaseHead_endedAt (s : State) (slot i : HeadIx) : EndedAt (fun x => x = slot) s (s.releaseHead slot i) i := by
  obtain ⟨_, _, _, hended, hkept⟩ := releaseHead_at s slot i
  refine ⟨fun h x hi hslot hx => hended h hi (hx ▸ hslot), fun hnone => hkept fun h hi hslot => hnone h slot hi hslot rfl⟩

theorem releaseHead_local (slot : HeadIx) : LocalToHead fun i s => s.releaseHead slot i := by
  intro i s
  obtain ⟨honly, _, hothers, _⟩ := releaseHead_at s slot i
  exact ⟨honly, hothers⟩

/-- A slot emptied: its overlays end, and nothing but notices, heads, compositions and buffers changes (R130, R132, R142). -/
theorem emptyNotice_spec (s : State) (slot : HeadIx) :
    s.emptyNotice slot = { s with
      notices := s.notices.set slot none
      heads := (s.emptyNotice slot).heads
      comps := (s.emptyNotice slot).comps
      buffers := (s.emptyNotice slot).buffers } ∧
    ∀ i, EndedAt (fun x => x = slot) s (s.emptyNotice slot) i := by
  obtain ⟨honly, heach⟩ := forHeads_local (releaseHead_local slot) { s with notices := s.notices.set slot none }
  have hcounters : (s.emptyNotice slot).counters = s.counters :=
    forHeads_keeps (P := fun t => t.counters = s.counters)
      (fun i t ht => (releaseHead_at t slot i).2.1.trans ht) rfl
  refine ⟨?_, fun i => ?_⟩
  · rw [← hcounters]
    exact honly
  · obtain ⟨u, hu, hsame, hfinal⟩ := heach i
    have hdwell : u.mgmt.settings.dwell = s.mgmt.settings.dwell :=
      (congrArg (fun t : State => t.mgmt.settings.dwell) hu).trans rfl
    have hcount : u.entryCount = s.entryCount := (congrArg State.entryCount hu).trans rfl
    exact (releaseHead_endedAt u slot i).of_same hdwell hcount hsame hfinal

/-! ### The notice frames stand beside the port -/

theorem besidePort_takeHead (i slot : HeadIx) (h : Head) : BesidePort fun s => s.takeHead i slot h := by
  have htaken := (besidePort_nextOverlayNumber i).comp (besidePort_setHead i (some (h.startOverlay slot)))
  unfold State.takeHead
  cases h.overlaySlot with
  | none => exact (besidePort_abandon i).comp htaken
  | some old =>
    dsimp only
    by_cases hold : old = slot
    · simpa only [if_pos hold] using htaken
    · simpa only [if_neg hold] using (besidePort_bump .overlaysReplaced).comp htaken

theorem besidePort_releaseHead (slot i : HeadIx) : BesidePort fun s => s.releaseHead slot i := by
  refine ⟨fun {t u} h => ?_, fun s => (congrArg State.feed (releaseHead_local slot i s).1).trans rfl⟩
  unfold State.releaseHead
  rw [h.head i, h.dwell, h.entryCount]
  cases u.head i with
  | none => exact h
  | some x =>
    dsimp only
    by_cases hslot : x.overlaySlot = some slot
    · rw [if_pos hslot, if_pos hslot]
      exact ((besidePort_abandon i).comp (besidePort_setHead i _)).same h
    · rw [if_neg hslot, if_neg hslot]
      exact h

theorem besidePort_noticeOnHead (slot : HeadIx) (n : Notice) (i : HeadIx) : BesidePort (State.noticeOnHead slot n i) := by
  refine ⟨fun {t u} h => ?_, fun s => (congrArg State.feed (noticeOnHead_local slot n i s).1).trans rfl⟩
  unfold State.noticeOnHead
  rw [h.head i]
  cases u.head i with
  | none => exact h
  | some x =>
    dsimp only
    by_cases htakes : n.priority = .overlay ∧ inMask n.mask i = true
    · rw [if_pos htakes, if_pos htakes]
      exact (besidePort_takeHead i slot x).same h
    · rw [if_neg htakes, if_neg htakes]
      exact (besidePort_releaseHead slot i).same h

theorem besidePort_emptyNotice (slot : HeadIx) : BesidePort fun s => s.emptyNotice slot :=
  (besidePort_forHeads fun i => besidePort_releaseHead slot i).comp (besidePort_setNotices slot none)

/-- A notice put in its slot, acting on every head (R129, R131, R132). -/
def State.noticePlaced (s : State) (slot : HeadIx) (n : Notice) : State :=
  ({ s with notices := s.notices.set slot (some n) }).forHeads (State.noticeOnHead slot n)

theorem besidePort_noticePlaced (slot : HeadIx) (n : Notice) : BesidePort fun s => s.noticePlaced slot n :=
  (besidePort_forHeads fun i => besidePort_noticeOnHead slot n i).comp (besidePort_setNotices slot (some n))

/-! ### What the payloads hold (R129, R198) -/

/-- The notice that a put carries: priority by bit 0 of its flags, a duration limited to an hour, and 0 for until cleared (R129). -/
def noticeOf (flags mask : Byte) (duration : Nat) (items : List Item) : Notice :=
  ⟨if flags.getLsbD 0 then .overlay else .info, mask, if duration = 0 then none else some (min duration 3600), items⟩

theorem noticeOf_overlay_iff (flags mask : Byte) (duration : Nat) (items : List Item) :
    (noticeOf flags mask duration items).priority = .overlay ↔ flags.getLsbD 0 = true := by
  unfold noticeOf
  cases flags.getLsbD 0 <;> simp

section Payload

variable {p : List Byte} {slot : HeadIx} {flags : Byte} {items : List Item}
  (hgood : ∀ x ∈ items, Item.ofCode x.code = some x)
include hgood

theorem noticeData_ofPayload {mask : Byte} {duration : Nat} (hduration : duration ≤ 65535) (hpos : 1 ≤ items.length)
    (hle : items.length ≤ 117)
    (hp : p = [b8 slot.val, flags, mask] ++ b16 duration ++ [b8 items.length] ++ itemBytes items) :
    NoticeData.ofPayload p = some ⟨slot, noticeOf flags mask duration items, !decide (duration ≤ 3600)⟩ := by
  have hlen : p.length = 6 + 2 * items.length := by
    rw [hp, List.length_append, itemBytes_length]
    rfl
  have hitems : itemsAt p 6 items.length = some items := by
    have hread := itemsAt_itemBytes items ([b8 slot.val, flags, mask] ++ b16 duration ++ [b8 items.length]) [] hgood
    rwa [List.append_nil, ← hp] at hread
  have h0 : u8 p 0 = slot.val := hp ▸ b8_toNat (by omega)
  have h1 : flagBit (u8 p 1) 0 = flags.getLsbD 0 := hp ▸ rfl
  have h2 : p.getD 2 0 = mask := hp ▸ rfl
  have h3 : u16 p 3 = duration := hp ▸ u16_append [b8 slot.val, flags, mask] _ hduration
  have h5 : u8 p 5 = items.length := hp ▸ b8_toNat (by omega)
  have hzero : (min duration 3600 = 0) = (duration = 0) := propext (by omega)
  have hclamped : decide (min duration 3600 ≠ duration) = !decide (duration ≤ 3600) := by
    rw [Bool.eq_iff_iff, Bool.not_eq_true', decide_eq_true_eq, decide_eq_false_iff_not]
    omega
  unfold NoticeData.ofPayload
  simp only [h0, h1, h2, h3, h5, hlen, hitems, headIxOf_val, hzero, hclamped]
  exact if_neg (by omega)

theorem append_ofPayload (hle : items.length ≤ 118) (hp : p = [b8 slot.val, flags, b8 items.length] ++ itemBytes items) :
    appendOfPayload p = some (slot, items) := by
  have hlen : p.length = 3 + 2 * items.length := by
    rw [hp, List.length_append, itemBytes_length]
    rfl
  have hitems : itemsAt p 3 items.length = some items := by
    have hread := itemsAt_itemBytes items [b8 slot.val, flags, b8 items.length] [] hgood
    rwa [List.append_nil, ← hp] at hread
  have h0 : u8 p 0 = slot.val := hp ▸ b8_toNat (by omega)
  have h2 : u8 p 2 = items.length := hp ▸ b8_toNat (by omega)
  unfold appendOfPayload
  simp only [h0, h2, hlen, hitems, headIxOf_val]
  exact if_neg (by omega)

end Payload

/-! ### What the frames do (R129, R130) -/

theorem noticeFrame_put {p : List Byte} (hflag : flagBit (u8 p 1) 1 = false) {d : NoticeData}
    (hp : NoticeData.ofPayload p = some d) (s : State) :
    s.noticeFrame p = (s.noticePlaced d.slot d.notice, doneOr d.clamped) := by
  unfold State.noticeFrame State.putNotice
  rw [hflag, hp]
  rfl

section Append

variable {p : List Byte} (hflag : flagBit (u8 p 1) 1 = true) {slot : HeadIx} {items : List Item}
  (hp : appendOfPayload p = some (slot, items)) {s : State}
include hflag hp

theorem noticeFrame_append_notHeld (hs : s.notices.get slot = none) : s.noticeFrame p = (s, .notFound) := by
  simp only [State.noticeFrame, State.appendNotice, hflag, hp, hs, if_true]

theorem noticeFrame_append_tooLong {n : Notice} (hs : s.notices.get slot = some n)
    (hlong : 120 < n.text.length + items.length) : s.noticeFrame p = (s, .malformed) := by
  simp only [State.noticeFrame, State.appendNotice, hflag, hp, hs, if_true, if_pos hlong]

theorem noticeFrame_append_held {n : Notice} (hs : s.notices.get slot = some n)
    (hfits : n.text.length + items.length ≤ 120) :
    s.noticeFrame p = ({ s with notices := s.notices.set slot (some { n with text := n.text ++ items }) }, .done) := by
  simp only [State.noticeFrame, State.appendNotice, hflag, hp, hs, if_true, if_neg (Nat.not_lt.2 hfits)]

end Append

theorem clearNotice_byte (s : State) (slot : HeadIx) : s.clearNotice [b8 slot.val] =
    (s.notices.get slot).elim (s, .notFound) fun _ => (s.emptyNotice slot, .done) := by
  have h0 : u8 [b8 slot.val] 0 = slot.val := b8_toNat (by omega)
  unfold State.clearNotice
  rw [if_neg (by simp), h0, headIxOf_val]
  dsimp only
  cases s.notices.get slot <;> rfl

theorem clearNotice_notHeld {s : State} {slot : HeadIx} (h : s.notices.get slot = none) :
    s.clearNotice [b8 slot.val] = (s, .notFound) := by
  rw [clearNotice_byte, h, Option.elim_none]

theorem clearNotice_held {s : State} {slot : HeadIx} (h : s.notices.get slot ≠ none) :
    s.clearNotice [b8 slot.val] = (s.emptyNotice slot, .done) := by
  obtain ⟨n, hn⟩ := Option.ne_none_iff_exists'.1 h
  rw [clearNotice_byte, hn, Option.elim_some]

/-- What a notice just put does to the heads, and what it counts (R131, R132, R136). -/
theorem noticePlaced_spec (s : State) (slot : HeadIx) (n : Notice) :
    s.noticePlaced slot n = { s with
      notices := s.notices.set slot (some n)
      heads := (s.noticePlaced slot n).heads
      comps := (s.noticePlaced slot n).comps
      buffers := (s.noticePlaced slot n).buffers
      counters := (s.noticePlaced slot n).counters } ∧
    (∀ i, NoticeAt slot n s (s.noticePlaced slot n) i) ∧
    (∀ c, c ≠ .overlaysReplaced → (s.noticePlaced slot n).counter c = s.counter c) ∧
    ∀ k, k = (HeadIx.all.filter (fun i => decide (n.priority = .overlay) && n.mask.getLsbD i.val &&
        (s.head i).any (fun h => h.overlaySlot.any (fun old => old != slot)))).length →
      (s.noticePlaced slot n).counter .overlaysReplaced =
        if k = 0 then s.counter .overlaysReplaced else min (s.counter .overlaysReplaced + k) 65535 := by
  obtain ⟨honly, hat, hcounters, hreplaced⟩ := forHeads_notice slot n { s with notices := s.notices.set slot (some n) }
  refine ⟨honly, fun i => ?_, hcounters, fun k hk => hreplaced k (hk.trans ?_)⟩
  · exact ⟨(hat i).undef, (hat i).take, (hat i).free⟩
  · refine congrArg List.length (List.filter_congr fun i _ => ?_)
    rw [Bool.eq_iff_iff, Bool.and_eq_true, Bool.and_eq_true, decide_eq_true_eq, decide_eq_true_eq, and_assoc]
    rfl

/-- Settles O35: the three frames by their payloads; what a put and a clear do, head by head. -/
theorem noticeFramesHoldText : Obligations.NoticeFramesHoldText := by
  refine ⟨?put, fun f s slot flags items htakes hflag hle hgood hp => ?append, fun f s slot htakes hp => ?clear⟩
  case put =>
    intro f s slot flags mask duration items htakes hflag hduration hpos hle hgood hp
    have hread := noticeData_ofPayload hgood hduration hpos hle hp
    have hbit : flagBit (u8 f.payload 1) 1 = false := hp ▸ hflag
    obtain ⟨honly, hat, hcounters, hreplaced⟩ := noticePlaced_spec s slot (noticeOf flags mask duration items)
    have hoverlay := noticeOf_overlay_iff flags mask duration items
    have hcode : doneOr (!decide (duration ≤ 3600)) = if duration ≤ 3600 then .done else .adjusted :=
      doneOr_eq_ite (by simp)
    refine ⟨s.noticePlaced slot (noticeOf flags mask duration items), honly, fun i => (hat i).undef,
      fun i h hi hc => (hat i).take h hi (hc.imp_left hoverlay.2),
      fun i h hi hc => (hat i).free h hi (fun hn => hc (hn.imp_left hoverlay.1)), hcounters,
      fun n hn => hreplaced n (hn.trans ?_), ?_⟩
    · refine congrArg List.length (List.filter_congr fun i _ => ?_)
      have hpriority : decide ((noticeOf flags mask duration items).priority = .overlay) = flags.getLsbD 0 := by
        rw [Bool.eq_iff_iff, decide_eq_true_eq, hoverlay]
      rw [hpriority]
      rfl
    · rw [← hcode]
      exact (besidePort_noticePlaced slot _).completes rfl rfl htakes (noticeFrame_put hbit hread s.arrived)
  case append =>
    have hread := append_ofPayload hgood hle hp
    have hbit : flagBit (u8 f.payload 1) 1 = true := hp ▸ hflag
    refine ⟨fun hs => ?_, fun n hs hlong => ?_, fun n hs hfits => ?_⟩
    · exact dataFrame_refused rfl rfl htakes (noticeFrame_append_notHeld hbit hread (s := s.arrived) hs)
    · exact dataFrame_refused rfl rfl htakes (noticeFrame_append_tooLong hbit hread (s := s.arrived) hs hlong)
    · exact (besidePort_setNotices slot _).completes rfl rfl htakes
        (noticeFrame_append_held hbit hread (s := s.arrived) hs hfits)
  case clear =>
    refine ⟨fun hs => ?_, fun hs => ?_⟩
    · exact dataFrame_refused rfl rfl htakes
        ((congrArg s.arrived.clearNotice hp).trans (clearNotice_notHeld (s := s.arrived) hs))
    · obtain ⟨honly, hat⟩ := emptyNotice_spec s slot
      refine ⟨s.emptyNotice slot, honly, fun i h hi hslot => (hat i).ended h slot hi hslot rfl,
        fun i hnone => (hat i).kept fun h x hi hslot hx => hnone h hi (hx ▸ hslot), ?_⟩
      exact (besidePort_emptyNotice slot).completes rfl rfl htakes
        ((congrArg s.arrived.clearNotice hp).trans (clearNotice_held (s := s.arrived) hs))

end Sys2Proof.Machine
end

section
/-! PROOFS. Advance, Blank and Unblank (R126, R128, R133). -/

namespace Sys2Proof.Machine

/-! ### The head entries changed one after another -/

/-- The record of an entry changed, if its head is DEFINED. -/
def HeadEntry.mapHead (g : Head → Head) (e : HeadEntry) : HeadEntry := { e with head := e.head.map g }

theorem mapHead_some {s : State} {i : HeadIx} {h : Head} (hi : s.head i = some h) (g : Head → Head) :
    (s.heads.get i).mapHead g = { s.heads.get i with head := some (g h) } :=
  congrArg (fun o : Option Head => { s.heads.get i with head := o.map g }) hi

theorem mapHead_none {s : State} {i : HeadIx} (hi : s.head i = none) (g : Head → Head) :
    (s.heads.get i).mapHead g = s.heads.get i :=
  congrArg (fun o : Option Head => { s.heads.get i with head := o }) ((congrArg (Option.map g) hi).trans hi.symm)

/-- A change of a DEFINED head's record is a change of its entry. -/
theorem onHead_eq (s : State) (i : HeadIx) (g : Head → Head) :
    s.onHead i g = { s with heads := s.heads.set i ((s.heads.get i).mapHead g) } := by
  cases hi : s.head i with
  | none => rw [State.onHead_none g hi, mapHead_none hi, Bank8.set_get]
  | some h =>
    rw [State.onHead_some g hi, mapHead_some hi]
    rfl

/-- An operation that changes each index's entry by itself, and nothing else, changes them all. -/
theorem forHeads_entries {s : State} {f : HeadIx → State → State} {g : HeadIx → HeadEntry → HeadEntry}
    (hf : ∀ (i : HeadIx) (b : Bank8 HeadEntry), f i { s with heads := b } = { s with heads := b.set i (g i (b.get i)) }) :
    s.forHeads f = { s with heads := s.heads.mapIx g } := by
  have hfold (l : List HeadIx) : ∀ b : Bank8 HeadEntry, l.foldl (fun t i => f i t) { s with heads := b } =
      { s with heads := l.foldl (fun b i => b.set i (g i (b.get i))) b } := by
    induction l with
    | nil => exact fun _ => rfl
    | cons i l ih =>
      intro b
      rw [List.foldl_cons, hf, ih, List.foldl_cons]
  exact hfold HeadIx.all s.heads

/-- A change of the records of the heads that a test names. -/
theorem forHeads_onHead {s : State} (test : HeadIx → Prop) [DecidablePred test] {f : HeadIx → State → State} {g : Head → Head}
    (hf : ∀ (i : HeadIx) (b : Bank8 HeadEntry), f i { s with heads := b } =
      if test i then ({ s with heads := b } : State).onHead i g else { s with heads := b }) :
    s.forHeads f = { s with heads := s.heads.mapIx (fun i e => if test i then e.mapHead g else e) } := by
  refine forHeads_entries fun i b => ?_
  rw [hf]
  by_cases htest : test i
  · rw [if_pos htest, if_pos htest]
    exact onHead_eq _ i g
  · rw [if_neg htest, if_neg htest, Bank8.set_get]

/-! ### What an Advance does (R126, R128) -/

theorem onPages_pages {h : Head} {p : PageState} (hm : h.mode = .pages p) (g : PageState → PageState) :
    h.onPages g = { h with mode := .pages (g p) } := by
  unfold Head.onPages
  rw [hm]

theorem advancePage_pages {h : Head} {p : PageState} (hm : h.mode = .pages p) (dwell n : Nat) :
    h.advancePage dwell n = { h with mode := .pages ⟨(p.page + 1) % h.pageCount n, .dwell, dwell, p.hold, []⟩ } :=
  onPages_pages hm _

/-- An Advance acts on the masked heads that show their pages. -/
theorem advances_iff (s : State) (mask : Byte) (i : HeadIx) : s.advances mask i = true ↔
    mask.getLsbD i.val = true ∧ ∃ h p, s.head i = some h ∧ h.mode = .pages p := by
  unfold State.advances inMask Head.overlaySlot
  rw [Bool.and_eq_true]
  refine and_congr_right fun _ => ?_
  cases s.head i with
  | none => simp
  | some h => cases hm : h.mode <;> simp [hm]

/-- The heads after an Advance. -/
def State.advancedHeads (s : State) (mask : Byte) : Bank8 HeadEntry :=
  s.heads.mapIx fun i e => if s.advances mask i then e.mapHead (Head.advancePage s.mgmt.settings.dwell s.entryCount) else e

theorem advancePages_acts {s : State} {mask : Byte} (h : ∃ i, s.advances mask i = true) :
    s.advancePages mask = ({ s with heads := s.advancedHeads mask }, .done) := by
  obtain ⟨i, hi⟩ := h
  have hany : HeadIx.all.any (s.advances mask) = true := List.any_eq_true.2 ⟨i, HeadIx.mem_all i, hi⟩
  refine (if_pos hany).trans (congrArg (fun t => (t, OutcomeCode.done)) ?_)
  exact forHeads_onHead (fun i => s.advances mask i = true) fun _ _ => rfl

theorem advancePages_notNow {s : State} {mask : Byte} (h : ∀ i, s.advances mask i = false) :
    s.advancePages mask = (s, .notNow) := by
  have hany : ¬ HeadIx.all.any (s.advances mask) = true := by
    rw [List.any_eq_true]
    rintro ⟨i, _, hi⟩
    rw [h i] at hi
    cases hi
  exact if_neg hany

theorem advancedHeads_turned {s : State} {mask : Byte} {i : HeadIx} {h : Head} {p : PageState}
    (hmask : mask.getLsbD i.val = true) (hi : s.head i = some h) (hm : h.mode = .pages p) :
    (s.advancedHeads mask).get i = { s.heads.get i with head := some { h with
      mode := .pages ⟨(p.page + 1) % h.pageCount s.entryCount, .dwell, s.mgmt.settings.dwell, p.hold, []⟩ } } := by
  unfold State.advancedHeads
  rw [Bank8.get_mapIx, if_pos ((advances_iff s mask i).2 ⟨hmask, h, p, hi, hm⟩), mapHead_some hi, advancePage_pages hm]

theorem advancedHeads_kept {s : State} {mask : Byte} {i : HeadIx}
    (h : mask.getLsbD i.val = false ∨ ∀ h p, s.head i = some h → h.mode ≠ .pages p) :
    (s.advancedHeads mask).get i = s.heads.get i := by
  have hnot : ¬ s.advances mask i = true := by
    rw [advances_iff]
    rintro ⟨hmask, x, p, hi, hm⟩
    rcases h with hclear | hnone
    · exact Bool.false_ne_true (hclear.symm.trans hmask)
    · exact hnone x p hi hm
  unfold State.advancedHeads
  rw [Bank8.get_mapIx, if_neg hnot]

/-! ### The requests are answered (R183) -/

/-- A request of the right length is acted on and answered by its outcome. -/
theorem request_formed (s : State) {x : Header} {n : Nat} {act : State → State × OutcomeCode} (h : x.payload.length = n) :
    s.request x n act = ((act s).1, x.answer (act s).2) := if_pos h

section Mask

variable {f : FeedFrame} {s : State} {mask : Byte} (htakes : s.TakesRequest f) (hp : f.payload = [mask])
include htakes hp

/-- A request that carries a head mask, by what is done with the mask. -/
theorem maskRequest_answers {c : Instr} {k : Kind} {act : Byte → State → State × OutcomeCode} {op : State → State}
    {code : OutcomeCode} (hop : BesidePort op) (hc : c.frame = some (k, f)) (hk : k.isData = false)
    (hmanage : ∀ (t : State) (x : Header), t.manage x k = t.request x 1 (act x.byte0))
    (hact : act mask s.arrived = (op s.arrived, code)) : Answers c s (op s) (s.outcomeIf f k code) := by
  have hbyte : (frameHeader k.code f).byte0 = mask := (congrArg (fun p => p.getD 0 0) hp).trans rfl
  have hlen : (frameHeader k.code f).payload.length = 1 := congrArg List.length hp
  refine hop.answers hc hk htakes ?_
  rw [hmanage, request_formed _ hlen, hbyte, hact]

theorem advance_answers {op : State → State} {code : OutcomeCode} (hop : BesidePort op)
    (hact : s.arrived.advancePages mask = (op s.arrived, code)) :
    Answers (.advance f) s (op s) (s.outcomeIf f .advance code) :=
  maskRequest_answers htakes hp (act := fun m t => t.advancePages m) hop rfl rfl (fun _ _ => rfl) hact

theorem blank_answers : Answers (.blank f) s (s.setBlank mask true) (s.outcomeIf f .blank .done) :=
  maskRequest_answers htakes hp (act := fun m t => (t.setBlank m true, .done)) (op := fun t => t.setBlank mask true)
    (BesidePort.of_comm fun _ _ _ => rfl) rfl rfl (fun _ _ => rfl) rfl

theorem unblank_answers : Answers (.unblank f) s (s.setBlank mask false) (s.outcomeIf f .unblank .done) :=
  maskRequest_answers htakes hp (act := fun m t => (t.setBlank m false, .done)) (op := fun t => t.setBlank mask false)
    (BesidePort.of_comm fun _ _ _ => rfl) rfl rfl (fun _ _ => rfl) rfl

end Mask

theorem besidePort_advancedHeads (mask : Byte) : BesidePort fun s => { s with heads := s.advancedHeads mask } :=
  BesidePort.of_comm fun _ _ _ => rfl

/-- Settles O37: an Advance by whether it acts on any head, and the Blank flags of the masked indices. -/
theorem advanceAndBlankAct : Obligations.AdvanceAndBlankAct := by
  refine ⟨fun f s mask htakes hp hsome => ?acts, fun f s mask htakes hp hnone => ?notNow,
    fun f s mask on htakes hp => ?blank⟩
  case acts =>
    obtain ⟨j, x, q, hmask, hj, hq⟩ := hsome
    have hacts : ∃ i, s.advances mask i = true := ⟨j, (advances_iff s mask j).2 ⟨hmask, x, q, hj, hq⟩⟩
    refine ⟨s.advancedHeads mask, fun i => ⟨?_, advancedHeads_kept⟩, ?_⟩
    · rintro h p p' hmask hi hm rfl
      exact advancedHeads_turned hmask hi hm
    · exact advance_answers htakes hp (besidePort_advancedHeads mask) (advancePages_acts (s := s.arrived) hacts)
  case notNow =>
    have hidle (i : HeadIx) : s.advances mask i = false := by
      rw [← Bool.not_eq_true, advances_iff]
      rintro ⟨hmask, h, p, hi, hm⟩
      exact hnone i h p hmask hi hm
    exact advance_answers htakes hp besidePort_id (advancePages_notNow (s := s.arrived) hidle)
  case blank =>
    refine ⟨(s.setBlank mask on).heads, fun i => Bank8.get_mapIx _ _ i, ?_, ?_⟩
    · rintro rfl
      exact blank_answers htakes hp
    · rintro rfl
      exact unblank_answers htakes hp

end Sys2Proof.Machine
end

section
/-! PROOFS. DWELL_EXPIRY, HOLD_TIMEOUT and NOTICE_EXPIRY (R126, R127, R130, R132, R134, R136, R142; log 9). -/

namespace Sys2Proof.Machine

/-! ### Counts paused while frozen (R134) -/

section Count

variable {s : State} {c : Instr} {count : State → State} (hexec : exec c s = live s fun s => if s.mgmt.frozen then s else count s)
  (hrun : s.inReset = false)
include hexec hrun

theorem frozen_leaves (hfrozen : s.mgmt.frozen = true) : Leaves c s s := by
  unfold Leaves
  rw [hexec, live_running _ hrun, if_pos hfrozen]

theorem unfrozen_leaves (hfrozen : s.mgmt.frozen = false) : Leaves c s (count s) := by
  have hnot : ¬ s.mgmt.frozen = true := by
    rw [hfrozen]
    exact Bool.false_ne_true
  unfold Leaves
  rw [hexec, live_running _ hrun, if_neg hnot]

end Count

/-! ### The dwell of a head (R126, R127) -/

section Dwell

variable {dwell limit n : Nat} {h : Head} {p : PageState} (hm : h.mode = .pages p)
include hm

theorem dwellExpires_onePage (hpages : h.pageCount n = 1) :
    h.dwellExpires dwell limit n = { h with mode := .pages { p with page := 0, dwell := dwell } } :=
  (if_pos hpages.le).trans (onPages_pages hm _)

theorem dwellExpires_turns (hpages : 2 ≤ h.pageCount n) (hnone : h.holdMembers = [] ∨ limit = 0) :
    h.dwellExpires dwell limit n =
      { h with mode := .pages ⟨(p.page + 1) % h.pageCount n, .dwell, dwell, p.hold, []⟩ } :=
  (if_neg (Nat.not_le.2 hpages)).trans ((if_pos hnone).trans (advancePage_pages hm dwell n))

theorem dwellExpires_holds (hpages : 2 ≤ h.pageCount n) (hmembers : h.holdMembers ≠ []) (hlimit : limit ≠ 0) :
    h.dwellExpires dwell limit n = { h with mode := .pages ⟨p.page, .hold, 0, limit, h.holdMembers⟩ } :=
  (if_neg (Nat.not_le.2 hpages)).trans ((if_neg (not_or.2 ⟨hmembers, hlimit⟩)).trans (onPages_pages hm _))

theorem countDwell_dwell (hphase : p.phase = .dwell) : h.countDwell dwell limit n =
    if p.dwell ≤ 1 then h.dwellExpires dwell limit n else { h with mode := .pages { p with dwell := p.dwell - 1 } } := by
  simp only [Head.countDwell, hm, hphase]

theorem countDwell_hold (hphase : p.phase = .hold) : h.countDwell dwell limit n = h := by
  simp only [Head.countDwell, hm, hphase]

end Dwell

theorem countDwell_overlay {h : Head} {slot : HeadIx} {shadow : Shadow} (hm : h.mode = .overlay slot shadow)
    (dwell limit n : Nat) : h.countDwell dwell limit n = h := by
  simp only [Head.countDwell, hm]

/-! ### Phases at the event -/

theorem phaseOf_iff (s : State) (i : HeadIx) (x : Phase) :
    s.phaseOf i = some x ↔ ∃ h p, s.head i = some h ∧ h.mode = .pages p ∧ p.phase = x := by
  unfold State.phaseOf
  cases s.head i with
  | none => simp
  | some h => cases hm : h.mode <;> simp [hm]

/-- A head out of DWELL has no dwell to count. -/
theorem mapHead_countDwell_kept {s : State} {i : HeadIx} (h : s.phaseOf i ≠ some .dwell) (dwell limit n : Nat) :
    (s.heads.get i).mapHead (Head.countDwell dwell limit n) = s.heads.get i := by
  cases hi : s.head i with
  | none => exact mapHead_none hi _
  | some x =>
    have hkept : x.countDwell dwell limit n = x := by
      cases hm : x.mode with
      | overlay slot shadow => exact countDwell_overlay hm dwell limit n
      | pages p =>
        cases hphase : p.phase with
        | dwell => exact absurd ((phaseOf_iff s i .dwell).2 ⟨x, p, hi, hm, hphase⟩) h
        | hold => exact countDwell_hold hm hphase
    rw [mapHead_some hi, hkept, ← hi]
    rfl

/-- The heads once the dwell of every head in DWELL is counted. -/
def State.dwelledHeads (s : State) : Bank8 HeadEntry :=
  s.heads.mapIx fun i e => if s.phaseOf i = some .dwell then
    e.mapHead (Head.countDwell s.mgmt.settings.dwell s.mgmt.settings.dwellHoldLimit s.entryCount) else e

theorem dwellSecond_eq (s : State) : s.dwellSecond = { s with heads := s.dwelledHeads } :=
  forHeads_onHead (fun i => s.phaseOf i = some .dwell) fun _ _ => rfl

theorem dwelledHeads_get (s : State) (i : HeadIx) : s.dwelledHeads.get i =
    (s.heads.get i).mapHead (Head.countDwell s.mgmt.settings.dwell s.mgmt.settings.dwellHoldLimit s.entryCount) := by
  unfold State.dwelledHeads
  rw [Bank8.get_mapIx]
  split
  · rfl
  · next hphase => exact (mapHead_countDwell_kept hphase _ _ _).symm

/-! ### The hold of a head (R127, R136) -/

theorem countHold_goesOn {h : Head} {p : PageState} (hm : h.mode = .pages p) (hphase : p.phase = .hold) (hlong : 2 ≤ p.hold)
    (dwell n : Nat) : (h.countHold dwell n).1 = { h with mode := .pages { p with hold := p.hold - 1 } } := by
  simp only [Head.countHold, hm, hphase, if_neg (show ¬ p.hold ≤ 1 by omega)]

theorem countHold_ends {h : Head} {p : PageState} (hm : h.mode = .pages p) (hphase : p.phase = .hold) (hshort : p.hold ≤ 1)
    (dwell n : Nat) : (h.countHold dwell n).1 =
      { h with mode := .pages ⟨(p.page + 1) % h.pageCount n, .dwell, dwell, 0, []⟩ } := by
  simp only [Head.countHold, hm, hphase, if_pos hshort]
  exact advancePage_pages (p := { p with phase := .hold, hold := 0 }) (by rfl) dwell n

/-- A hold that is counted to its end is one that was about to end. -/
theorem countHold_ended (h : Head) (dwell n : Nat) : (h.countHold dwell n).2 = h.holdEnding := by
  unfold Head.countHold Head.holdEnding
  cases h.mode with
  | overlay slot shadow => rfl
  | pages p =>
    cases hphase : p.phase with
    | dwell => simp [hphase]
    | hold => by_cases hshort : p.hold ≤ 1 <;> simp [hphase, hshort]

theorem holdEnding_phase {s : State} {i : HeadIx} (h : (s.head i).any Head.holdEnding = true) : s.phaseOf i = some .hold := by
  cases hi : s.head i with
  | none =>
    rw [hi] at h
    cases h
  | some x =>
    rw [hi, Option.any_some, Head.holdEnding] at h
    cases hm : x.mode with
    | overlay slot shadow =>
      rw [hm] at h
      cases h
    | pages p =>
      rw [hm, Bool.and_eq_true, decide_eq_true_eq] at h
      exact (phaseOf_iff s i .hold).2 ⟨x, p, hi, hm, h.1⟩

/-- A head's hold counted changes its record, and counts a hold that ends (R127, R136). -/
theorem countHoldOf_spec (i : HeadIx) (s : State) :
    s.countHoldOf i = { s with
      heads := s.heads.set i
        ((s.heads.get i).mapHead fun h => (h.countHold s.mgmt.settings.dwell s.entryCount).1)
      counters := (if (s.head i).any Head.holdEnding then s.bump .holdTimeouts else s).counters } := by
  unfold State.countHoldOf
  cases hi : s.head i with
  | none => rw [mapHead_none hi, Bank8.set_get]; rfl
  | some h =>
    rw [mapHead_some hi, Option.any_some]
    dsimp only
    rw [countHold_ended]
    cases h.holdEnding <;> rfl

/-- What a head does when holds are counted: only a head in HOLD at the event counts. -/
def State.holdStep (s : State) (i : HeadIx) (t : State) : State :=
  if s.phaseOf i = some .hold then t.countHoldOf i else t

theorem holdSecond_eq (s : State) : s.holdSecond = s.forHeads s.holdStep := rfl

theorem holdStep_counters (s t : State) (i : HeadIx) : (s.holdStep i t).counters =
    (if decide (s.phaseOf i = some .hold) && (t.head i).any Head.holdEnding then t.bump .holdTimeouts else t).counters := by
  unfold State.holdStep
  by_cases hphase : s.phaseOf i = some .hold
  · rw [if_pos hphase, countHoldOf_spec, decide_eq_true hphase, Bool.true_and]
  · rw [if_neg hphase, decide_eq_false hphase, Bool.false_and]
    rfl

theorem holdStep_local (s : State) : LocalToHead s.holdStep := by
  intro i t
  unfold State.holdStep
  split
  · rw [countHoldOf_spec]
    exact ⟨rfl, fun j hj => ⟨Bank8.get_set_ne _ _ hj, rfl, rfl⟩⟩
  · exact ⟨rfl, fun _ _ => ⟨rfl, rfl, rfl⟩⟩

/-- Nothing but heads and counters changes when holds are counted. -/
theorem holdSecond_frame (s : State) :
    s.holdSecond = { s with heads := s.holdSecond.heads, counters := s.holdSecond.counters } := by
  rw [holdSecond_eq]
  refine forHeads_keeps (P := fun t => t = { s with heads := t.heads, counters := t.counters }) (fun i t ht => ?_) rfl
  unfold State.holdStep
  split
  · rw [countHoldOf_spec, ht]
  · exact ht

theorem holdSecond_entry (s : State) (i : HeadIx) : s.holdSecond.heads.get i =
    if s.phaseOf i = some .hold then
      (s.heads.get i).mapHead fun h => (h.countHold s.mgmt.settings.dwell s.entryCount).1
    else s.heads.get i := by
  obtain ⟨u, hu, hsame, hfinal⟩ := (forHeads_local (holdStep_local s) s).2 i
  have hdwell : u.mgmt.settings.dwell = s.mgmt.settings.dwell :=
    (congrArg (fun t : State => t.mgmt.settings.dwell) hu).trans rfl
  have hcount : u.entryCount = s.entryCount := (congrArg State.entryCount hu).trans rfl
  rw [holdSecond_eq, hfinal.1]
  unfold State.holdStep
  split
  · rw [countHoldOf_spec]
    dsimp only
    rw [Bank8.get_set_self, hsame.1, hdwell, hcount]
  · exact hsame.1

theorem holdSecond_counter (s : State) {c : Ctr} (h : c ≠ .holdTimeouts) : s.holdSecond.counter c = s.counter c := by
  rw [holdSecond_eq]
  refine forHeads_keeps (P := fun t => t.counter c = s.counter c) (fun i t ht => ?_) rfl
  rw [← ht]
  unfold State.counter
  rw [holdStep_counters]
  split
  · exact State.counter_bump_ne t h
  · rfl

/-- Each hold that ends is counted (R136). -/
theorem holdSecond_timeouts (s : State) {n : Nat} (hn : n = (HeadIx.all.filter fun i => (s.head i).any Head.holdEnding).length) :
    s.holdSecond.counter .holdTimeouts =
      if n = 0 then s.counter .holdTimeouts else min (s.counter .holdTimeouts + n) 65535 := by
  have hending (i : HeadIx) : (decide (s.phaseOf i = some .hold) && (s.head i).any Head.holdEnding) =
      (s.head i).any Head.holdEnding := by
    cases he : (s.head i).any Head.holdEnding
    · exact Bool.and_false _
    · rw [decide_eq_true (holdEnding_phase he)]
      rfl
  have hcounts := forHeads_count (holdStep_local s) (c := .holdTimeouts)
    (p := fun t i => decide (s.phaseOf i = some .hold) && (t.head i).any Head.holdEnding)
    (fun t u i _ hsame => by rw [head_of_sameAt hsame])
    (fun i t => by
      unfold State.counter
      rw [holdStep_counters]
      split
      · exact State.counter_bump_self t .holdTimeouts
      · rfl) s
  simp only [hending] at hcounts
  rw [hn, holdSecond_eq]
  exact hcounts

/-! ### The durations of the notices (R130, R132) -/

/-- A notice after a second event: one without duration stays, one at its last second ends (R130). -/
def Notice.counted (n : Notice) : Option Notice :=
  match n.duration with
  | some d => if d ≤ 1 then none else some { n with duration := some (d - 1) }
  | none => some n

/-- The slot holds a notice that ends at the second event now counted. -/
def State.SlotEnding (s : State) (slot : HeadIx) : Prop :=
  ∃ n d, s.notices.get slot = some n ∧ n.duration = some d ∧ d ≤ 1

/-- Nothing but notices, heads, compositions and buffers changes. -/
def State.NoticesOnly (s t : State) : Prop :=
  t = { s with notices := t.notices, heads := t.heads, comps := t.comps, buffers := t.buffers }

theorem State.NoticesOnly.trans {a b c : State} (h : a.NoticesOnly b) (g : b.NoticesOnly c) : a.NoticesOnly c := by
  unfold State.NoticesOnly at *
  rw [g, h]

/-- An index that nothing ends is left. -/
theorem endedAt_refl {ends : HeadIx → Prop} (s : State) (i : HeadIx) (h : ∀ slot, ¬ ends slot) : EndedAt ends s s i :=
  ⟨fun _ slot _ _ hends => absurd hends (h slot), fun _ => ⟨rfl, rfl, rfl⟩⟩

theorem countNotice_ending {slot : HeadIx} {s : State} (h : s.SlotEnding slot) :
    s.countNotice slot = s.emptyNotice slot ∧ (s.notices.get slot).bind Notice.counted = none := by
  obtain ⟨n, d, hn, hd, hshort⟩ := h
  constructor
  · simp only [State.countNotice, hn, hd, if_pos hshort]
  · simp only [hn, Option.bind_some, Notice.counted, hd, if_pos hshort]

theorem countNotice_notEnding {slot : HeadIx} {s : State} (h : ¬ s.SlotEnding slot) : s.countNotice slot =
    { s with notices := s.notices.set slot ((s.notices.get slot).bind Notice.counted) } := by
  have hkept {o : Option Notice} (ho : s.notices.get slot = o) : s = { s with notices := s.notices.set slot o } := by
    rw [← ho, Bank8.set_get]
  unfold State.countNotice
  cases hs : s.notices.get slot with
  | none => exact hkept hs
  | some n =>
    cases hd : n.duration with
    | none =>
      simp only [Option.bind_some, Notice.counted, hd]
      exact hkept hs
    | some d =>
      have hlong : ¬ d ≤ 1 := fun hshort => h ⟨n, d, hs, hd, hshort⟩
      simp only [Option.bind_some, Notice.counted, hd, if_neg hlong]

/-- A slot counted: its notice goes on, or the slot empties (R130, R132, R142). -/
theorem countNotice_spec (slot : HeadIx) (s : State) :
    s.NoticesOnly (s.countNotice slot) ∧
    (s.countNotice slot).notices = s.notices.set slot ((s.notices.get slot).bind Notice.counted) ∧
    ∀ i, EndedAt (fun x => x = slot ∧ s.SlotEnding x) s (s.countNotice slot) i := by
  by_cases hends : s.SlotEnding slot
  · obtain ⟨hempty, hnone⟩ := countNotice_ending hends
    obtain ⟨honly, hat⟩ := emptyNotice_spec s slot
    rw [hempty, hnone]
    refine ⟨?_, (congrArg State.notices honly).trans rfl, fun i => (hat i).congr fun x => ?_⟩
    · unfold State.NoticesOnly
      rw [honly]
    · exact ⟨fun hx => ⟨hx, hx ▸ hends⟩, fun hx => hx.1⟩
  · rw [countNotice_notEnding hends]
    exact ⟨rfl, rfl, fun i => ⟨fun _ x _ _ hx => absurd (hx.1 ▸ hx.2) hends, fun _ => ⟨rfl, rfl, rfl⟩⟩⟩

/-- Slots counted one after another, each once. -/
theorem foldl_countNotice (l : List HeadIx) : ∀ s : State, l.Nodup →
    s.NoticesOnly (l.foldl (fun s slot => s.countNotice slot) s) ∧
    (∀ x, (l.foldl (fun s slot => s.countNotice slot) s).notices.get x =
      if x ∈ l then (s.notices.get x).bind Notice.counted else s.notices.get x) ∧
    ∀ i, EndedAt (fun x => x ∈ l ∧ s.SlotEnding x) s (l.foldl (fun s slot => s.countNotice slot) s) i := by
  induction l with
  | nil =>
    exact fun s _ => ⟨rfl, fun _ => rfl, fun i => endedAt_refl s i fun x hx => List.not_mem_nil hx.1⟩
  | cons a l ih =>
    intro s hn
    obtain ⟨ha, hl⟩ := List.nodup_cons.1 hn
    obtain ⟨hfirst, hnotices, hended⟩ := countNotice_spec a s
    obtain ⟨hrest, hgets, hends⟩ := ih (s.countNotice a) hl
    have hother {x : HeadIx} (hx : x ≠ a) : (s.countNotice a).notices.get x = s.notices.get x := by
      rw [hnotices, Bank8.get_set_ne _ _ hx]
    have hdwell : (s.countNotice a).mgmt.settings.dwell = s.mgmt.settings.dwell :=
      (congrArg (fun t : State => t.mgmt.settings.dwell) hfirst).trans rfl
    have hcount : (s.countNotice a).entryCount = s.entryCount := (congrArg State.entryCount hfirst).trans rfl
    refine ⟨hfirst.trans hrest, fun x => ?_, fun i => ((hended i).trans (hends i) hdwell hcount).congr fun x => ?_⟩
    · rw [List.foldl_cons, hgets]
      by_cases hx : x = a
      · subst hx
        rw [if_neg ha, if_pos (List.mem_cons_self ..), hnotices, Bank8.get_set_self]
      · simp only [hother hx, List.mem_cons, hx, false_or]
    · have hsame (hx : x ∈ l) : (s.countNotice a).SlotEnding x ↔ s.SlotEnding x := by
        unfold State.SlotEnding
        rw [hother fun e => ha (e ▸ hx)]
      rw [List.mem_cons, or_and_right]
      exact or_congr_right (and_congr_right hsame)

/-- Every timed notice counts, and the overlays of those that end end (R130, R132, R142). -/
theorem noticeSecond_spec (s : State) : s.NoticesOnly s.noticeSecond ∧
    (∀ x, s.noticeSecond.notices.get x = (s.notices.get x).bind Notice.counted) ∧
    ∀ i, EndedAt s.SlotEnding s s.noticeSecond i := by
  obtain ⟨honly, hgets, hends⟩ := foldl_countNotice HeadIx.all s HeadIx.nodup_all
  exact ⟨honly, fun x => (hgets x).trans (if_pos (HeadIx.mem_all x)),
    fun i => (hends i).congr fun x => and_iff_right (HeadIx.mem_all x)⟩

/-- Settles O38: the three counts while frozen, and each of them while not. -/
theorem pageCountsRun : Obligations.PageCountsRun := by
  refine ⟨fun s hrun hfrozen => ⟨?_, ?_, ?_⟩, fun s count hrun hfrozen hcount => ?dwell,
    fun dwell limit n h p hm hphase => ⟨fun hlong => ?_, fun hend hpages => ?_, fun hend hpages hnone => ?_,
      fun hend hpages hmembers hlimit => ?_⟩, fun s hrun hfrozen => ?hold, fun s hrun hfrozen => ?notices⟩
  · exact frozen_leaves (count := State.dwellSecond) rfl hrun hfrozen
  · exact frozen_leaves (count := State.holdSecond) rfl hrun hfrozen
  · exact frozen_leaves (count := State.noticeSecond) rfl hrun hfrozen
  case dwell =>
    subst hcount
    refine ⟨s.dwelledHeads, dwelledHeads_get s, ?_⟩
    rw [← dwellSecond_eq]
    exact unfrozen_leaves (count := State.dwellSecond) rfl hrun hfrozen
  · exact (countDwell_dwell hm hphase).trans (if_neg (Nat.not_le.2 hlong))
  · exact (countDwell_dwell hm hphase).trans ((if_pos hend).trans (dwellExpires_onePage hm hpages))
  · exact (countDwell_dwell hm hphase).trans ((if_pos hend).trans (dwellExpires_turns hm hpages hnone))
  · exact (countDwell_dwell hm hphase).trans ((if_pos hend).trans (dwellExpires_holds hm hpages hmembers hlimit))
  case hold =>
    refine ⟨s.holdSecond.heads, s.holdSecond, fun i => ⟨fun h p hi hm hphase hlong => ?_, ?ends, fun hdwell => ?_⟩,
      fun c hc => holdSecond_counter s hc, fun n hn => holdSecond_timeouts s hn, holdSecond_frame s,
      unfrozen_leaves (count := State.holdSecond) rfl hrun hfrozen⟩
    · rw [holdSecond_entry, if_pos ((phaseOf_iff s i .hold).2 ⟨h, p, hi, hm, hphase⟩), mapHead_some hi,
        countHold_goesOn hm hphase hlong]
    case ends =>
      rintro h p p' hi hm hphase hshort rfl
      rw [holdSecond_entry, if_pos ((phaseOf_iff s i .hold).2 ⟨h, p, hi, hm, hphase⟩), mapHead_some hi,
        countHold_ends hm hphase hshort]
    · have hnot : s.phaseOf i ≠ some .hold := by
        rw [ne_eq, phaseOf_iff]
        rintro ⟨h, p, hi, hm, hphase⟩
        rw [hdwell h p hi hm] at hphase
        cases hphase
      rw [holdSecond_entry, if_neg hnot]
  case notices =>
    obtain ⟨honly, hgets, hends⟩ := noticeSecond_spec s
    refine ⟨s.noticeSecond, fun i => (hgets i).trans ?_, honly, fun i hlong => (hends i).kept ?_,
      fun i h slot n d hi hslot hn hd hshort => ?_, unfrozen_leaves (count := State.noticeSecond) rfl hrun hfrozen⟩
    · cases s.notices.get i <;> rfl
    · rintro h slot hi hslot ⟨n, d, hn, hd, hshort⟩
      have := hlong h slot n d hi hslot hn hd
      omega
    · obtain ⟨⟨hcomp, hbuffers⟩, hentry⟩ := (hends i).ended h slot hi hslot ⟨n, d, hn, hd, hshort⟩
      exact ⟨hentry, hcomp, hbuffers⟩

end Sys2Proof.Machine
end

section
/-! PROOFS. Clearing and drawing a field leaves every pixel outside its clip (R150, R154). -/

namespace Sys2Proof.Machine

/-- A single lit pixel of a buffer. -/
theorem pixelBit_getLsbD (n m : Nat) : (1#8192 <<< n).getLsbD m = decide (m < 8192 ∧ m = n) := by
  rw [BitVec.getLsbD_shiftLeft, BitVec.getLsbD_one, Bool.eq_iff_iff]
  simp only [Bool.and_eq_true, decide_eq_true_eq, Bool.not_eq_true', decide_eq_false_iff_not]
  omega

section Outside

variable {c : Clip} {x y : Nat} (hx : x < 256) (hright : c.x1 ≤ 256) (hout : ¬ (c.x0 ≤ x ∧ x < c.x1 ∧ c.y0 ≤ y ∧ y < c.y1))
include hx hright hout

/-- A pixel painted inside the clip is none outside it, for the clip lies within the 256 columns of a row (R158). -/
theorem light_outside (px : Pixels) (u v : Int) : (c.light px u v).getLsbD (256 * y + x) = px.getLsbD (256 * y + x) := by
  unfold Clip.light
  split
  · next hin =>
    have hother : ¬ (256 * y + x < 8192 ∧ 256 * y + x = 256 * v.toNat + u.toNat) := by omega
    rw [BitVec.getLsbD_or, pixelBit_getLsbD, decide_eq_false hother, Bool.or_false]
  · rfl

theorem paintRow_outside (v : Int) (row : List Bool) : ∀ (u : Int) (px : Pixels),
    (c.paintRow v u px row).getLsbD (256 * y + x) = px.getLsbD (256 * y + x) := by
  induction row with
  | nil => exact fun _ _ => rfl
  | cons lit row ih =>
    intro u px
    refine (ih (u + 1) _).trans ?_
    split
    · exact light_outside hx hright hout px u v
    · rfl

theorem paintRows_outside (u : Int) (rows : List (List Bool)) : ∀ (b : Int) (px : Pixels),
    (c.paintRows u b px rows).getLsbD (256 * y + x) = px.getLsbD (256 * y + x) := by
  induction rows with
  | nil => exact fun _ _ => rfl
  | cons row rows ih =>
    intro b px
    refine (ih (b + 1) _).trans ?_
    split
    · exact paintRow_outside hx hright hout _ row u px
    · rfl

theorem paintText_outside (f : Fonts) (font gap : Nat) (codes : List Nat) : ∀ (u : Int) (px : Pixels),
    (c.paintText f font gap u px codes).getLsbD (256 * y + x) = px.getLsbD (256 * y + x) := by
  induction codes with
  | nil => exact fun _ _ => rfl
  | cons code codes ih => exact fun u px => (ih _ _).trans (paintRows_outside hx hright hout u _ _ px)

/-- A drawing is one text, or the copies of a ticker's text, or nothing (R150, R154). -/
theorem draw_outside (f : Fonts) (font width : Nat) (px : Pixels) (d : Drawing) :
    (c.draw f font width px d).getLsbD (256 * y + x) = px.getLsbD (256 * y + x) := by
  cases d with
  | nothing => rfl
  | text codes gap x0 => exact paintText_outside hx hright hout f font gap codes _ px
  | ticker codes loop offset =>
    exact List.foldlRecOn (tickerStarts width _ loop offset) _
      (motive := fun q : Pixels => q.getLsbD (256 * y + x) = px.getLsbD (256 * y + x)) rfl
      fun q hq u _ => (paintText_outside hx hright hout f font _ codes _ q).trans hq

theorem clear_outside (hy : y < 32) (px : Pixels) : (c.clear px).getLsbD (256 * y + x) = px.getLsbD (256 * y + x) := by
  have hstored : 256 * y + x < 8192 := by omega
  unfold Clip.clear
  rw [BitVec.getLsbD_and, BitVec.getLsbD_not, rectMask_pixel hx hy hright, decide_eq_false hout, decide_eq_true hstored]
  exact Bool.and_true _

end Outside

/-- Settles O42: the painters outside the clip, and the two minima of a field's rectangle. -/
theorem paintingStaysInItsRectangle : Obligations.PaintingStaysInItsRectangle := by
  refine ⟨fun c f font width px d x y hx hy hright hout => ?_, ?_⟩
  · exact (draw_outside hx hright hout f font width _ d).trans (clear_outside hx hright hout hy px)
  · rintro x y w h hw hh _ rfl
    exact ⟨min_le_right _ _, min_le_left _ _, min_le_right _ _, min_le_left _ _, rfl, rfl⟩

end Sys2Proof.Machine
end

section
/-! PROOFS. The display side of the part: which heads are DEFINED, which have a composition in flight, the states of their
buffers, and the Panel Link. The feed port, the stores and Management leave it, and so do the records and pixels of the heads;
a property of it is kept by every command that the operations on it keep it under. -/

namespace Sys2Proof.Machine

/-- What a state holds of its display side, with the straps that give the part's role. -/
structure Display where
  straps   : Straps
  defined  : HeadIx → Bool
  inFlight : HeadIx → Bool
  backs    : HeadIx → BackState
  fronts   : HeadIx → FrontState
  link     : Link

/-- The display side of a state. -/
def State.display (s : State) : Display where
  straps := s.straps
  defined i := (s.head i).isSome
  inFlight i := (s.comps.get i).isSome
  backs i := (s.buffers.get i).backState
  fronts i := (s.buffers.get i).frontState
  link := s.link

/-! ### Counters and events -/

theorem bumpAll_display (l : List Ctr) : ∀ s : State, (s.bumpAll l).display = s.display := by
  induction l with
  | nil => exact fun _ => rfl
  | cons c l ih => exact fun s => ih (s.bump c)

theorem raiseAll_display (l : List Event) : ∀ s : State, (s.raiseAll l).display = s.display := by
  induction l with
  | nil => exact fun _ => rfl
  | cons e l ih => exact fun s => ih (s.raise e)

theorem tally_display (s : State) (l : List (Ctr × Nat)) : (s.tally l).display = s.display :=
  (congrArg State.display (tally_frame l s)).trans rfl

/-! ### Records, pixels and snapshots of the heads -/

/-- The record of a DEFINED head replaced by another. -/
theorem setHead_display {s : State} {i : HeadIx} {h : Head} (hi : s.head i = some h) (x : Head) :
    (s.setHead i (some x)).display = s.display := by
  have hdefined : (fun j => ((s.setHead i (some x)).head j).isSome) = fun j => (s.head j).isSome := by
    funext j
    by_cases hj : j = i
    · rw [hj, State.setHead_head_self, hi]
      rfl
    · rw [State.setHead_head_ne s _ hj]
  exact congrArg (fun d => { s.display with defined := d }) hdefined

theorem onHead_display (s : State) (i : HeadIx) (f : Head → Head) : (s.onHead i f).display = s.display := by
  unfold State.onHead
  split
  · next hi => exact setHead_display hi _
  · rfl

/-- What stands beside a head's record: its overlay number and its Blank flag (R131, R133). -/
theorem nextOverlayNumber_display (s : State) (i : HeadIx) : (s.nextOverlayNumber i).display = s.display := by
  have hdefined : (fun j => ((s.nextOverlayNumber i).head j).isSome) = fun j => (s.head j).isSome := by
    funext j
    unfold State.nextOverlayNumber State.head
    rw [Bank8.get_set]
    split
    · next hj => rw [hj]; rfl
    · rfl
  exact congrArg (fun d => { s.display with defined := d }) hdefined

theorem setBlank_display (s : State) (mask : Byte) (on : Bool) : (s.setBlank mask on).display = s.display := by
  have hdefined : (fun j => ((s.setBlank mask on).head j).isSome) = fun j => (s.head j).isSome := by
    funext j
    unfold State.setBlank State.head
    rw [Bank8.get_mapIx]
    split <;> rfl
  exact congrArg (fun d => { s.display with defined := d }) hdefined

theorem setBack_display (s : State) (i : HeadIx) (px : Pixels) : (s.setBack i px).display = s.display := by
  have hstates : ∀ j, ((s.setBack i px).buffers.get j).backState = (s.buffers.get j).backState ∧
      ((s.setBack i px).buffers.get j).frontState = (s.buffers.get j).frontState := by
    intro j
    unfold State.setBack
    rw [State.setBuffers_buffers, Bank8.get_set]
    split
    · next hj => rw [hj]; exact ⟨rfl, rfl⟩
    · exact ⟨rfl, rfl⟩
  exact congrArg₂ (fun b f => { s.display with backs := b, fronts := f }) (funext fun j => (hstates j).1)
    (funext fun j => (hstates j).2)

/-- A composition in flight replaced by another. -/
theorem setComp_display {s : State} {i : HeadIx} {c : Composition} (hi : s.comps.get i = some c) (d : Composition) :
    (s.setComp i (some d)).display = s.display := by
  have hflight : (fun j => ((s.setComp i (some d)).comps.get j).isSome) = fun j => (s.comps.get j).isSome := by
    funext j
    rw [State.setComp_comps, Bank8.get_set]
    split
    · next hj => rw [hj, hi]; rfl
    · rfl
  exact congrArg (fun f => { s.display with inFlight := f }) hflight

/-- A field painted: its head's record, its back's pixels and counters (R141, R157). -/
theorem paintField_display {s : State} {i : HeadIx} {h : Head} (hi : s.head i = some h) (snap : Snapshot) (idx : Nat)
    (r : FieldRecord) : (s.paintField i h snap idx r).display = s.display := by
  unfold State.paintField
  dsimp only
  split
  · exact setHead_display hi _
  · exact (tally_display _ _).trans ((setBack_display _ i _).trans (setHead_display hi _))

theorem paintOverlay_display {s : State} {i : HeadIx} {h : Head} (hi : s.head i = some h) (slot : HeadIx) (number : Nat) :
    (s.paintOverlay i h slot number).display = s.display := by
  unfold State.paintOverlay
  dsimp only
  split
  · exact setHead_display hi _
  · exact (tally_display _ _).trans ((setBack_display _ i _).trans (setHead_display hi _))

/-- The composition in flight is none of what painting touches. -/
theorem paintField_comps (s : State) (i : HeadIx) (h : Head) (snap : Snapshot) (idx : Nat) (r : FieldRecord) :
    (s.paintField i h snap idx r).comps = s.comps := by
  unfold State.paintField
  dsimp only
  split
  · rfl
  · exact (congrArg State.comps (tally_frame _ _)).trans rfl

/-! ### Layout and Page Control: pages, holds and fields (R123 to R128) -/

/-- An operation for each head leaves the display side when it does at each. -/
theorem forHeads_display {f : HeadIx → State → State} (hf : ∀ i s, (f i s).display = s.display) (s : State) :
    (s.forHeads f).display = s.display :=
  forHeads_keeps (P := fun t => t.display = s.display) (fun i t h => (hf i t).trans h) rfl

theorem putField_display (s : State) (p : List Byte) : (s.putField p).1.display = s.display := by
  unfold State.putField
  split
  · rfl
  · split
    · rfl
    · next hi => exact setHead_display hi _

theorem dropField_display (s : State) (p : List Byte) : (s.dropField p).1.display = s.display := by
  unfold State.dropField
  split
  · rfl
  · split
    · rfl
    · split
      · rfl
      · next hi =>
        split
        · rfl
        · exact setHead_display hi _

theorem advancePages_display (s : State) (mask : Byte) : (s.advancePages mask).1.display = s.display := by
  unfold State.advancePages
  split
  · refine forHeads_display (fun i t => ?_) s
    split
    · exact onHead_display t i _
    · rfl
  · rfl

theorem countHoldOf_display (s : State) (i : HeadIx) : (s.countHoldOf i).display = s.display := by
  unfold State.countHoldOf
  split
  · next hi =>
    dsimp only
    split <;> exact setHead_display hi _
  · rfl

theorem dwellSecond_display (s : State) : s.dwellSecond.display = s.display := by
  refine forHeads_display (fun i t => ?_) s
  split
  · exact onHead_display t i _
  · rfl

theorem holdSecond_display (s : State) : s.holdSecond.display = s.display := by
  refine forHeads_display (fun i t => ?_) s
  split
  · exact countHoldOf_display t i
  · rfl

theorem pageSecond_display (s : State) : s.pageSecond.display = s.display := by
  refine forHeads_display (fun i t => ?_) s
  split
  · exact onHead_display t i _
  · split
    · exact countHoldOf_display t i
    · rfl

/-! ### The stores and Management -/

theorem takeBoard_display (s : State) (r : BoardResult) : (s.takeBoard r).1.display = s.display :=
  (raiseAll_display _ _).trans (bumpAll_display _ _)

theorem takeNames_display (s : State) (r : NameResult) : (s.takeNames r).1.display = s.display := bumpAll_display _ _

theorem timeFrame_display (s : State) (p : List Byte) : (s.timeFrame p).1.display = s.display := by
  unfold State.timeFrame
  split
  · rfl
  · dsimp only
    split <;> rfl

theorem freezeSecond_display (s : State) : s.freezeSecond.display = s.display := by
  unfold State.freezeSecond
  split
  · split <;> rfl
  · rfl

theorem unfreeze_display (s : State) : s.unfreeze.1.display = s.display := by
  unfold State.unfreeze
  split <;> rfl

theorem fill_display (l : List (Option Byte)) : ∀ s : State, (s.fill l).2.display = s.display := by
  induction l with
  | nil => exact fun _ => rfl
  | cons b l ih =>
    intro s
    cases b with
    | none => exact ih s.takeFreeByte.2
    | some b => exact ih s

theorem counterRead_display (s : State) (x : Header) : (s.counterRead x).1.display = s.display := by
  unfold State.counterRead
  split
  · dsimp only
    split <;> rfl
  · rfl

theorem readRequest_display (s : State) (a : ReadAnswer) : (s.readRequest a).1.display = s.display := fill_display _ _

theorem assignAddress_display (s : State) (x : Header) : (s.assignAddress x).1.display = s.display := by
  unfold State.assignAddress
  split
  · rfl
  · split
    · split <;> rfl
    · rfl

/-! ### The feed port -/

theorem forward_display (s : State) (body : List Byte) (h : Header) : (s.forward body h).display = s.display := by
  rcases forward_cases s body h with e | e | e <;> rw [e] <;> rfl

theorem offerReply_display (s : State) (tag : Byte) (r : Reply) : (s.offerReply tag r).display = s.display := by
  rcases offerReply_cases s tag r with ⟨_, e⟩ | ⟨_, e⟩ <;> rw [e] <;> rfl

theorem offerOpt_display (s : State) (tag : Byte) (r : Option Reply) : (s.offerOpt tag r).display = s.display := by
  cases r with
  | none => rfl
  | some r => exact offerReply_display s tag r

theorem unknownKind_display (s : State) (body : List Byte) (h : Header) : (s.unknownKind body h).display = s.display := by
  have hsent := forward_display (s.bump .unknownKind) body h
  unfold State.unknownKind
  dsimp only
  split
  · exact (offerReply_display _ _ _).trans hsent
  · exact hsent

theorem rxIdle_display (s : State) : s.rxIdle.display = s.display := by
  unfold State.rxIdle
  split <;> rfl

theorem rxSync_display (s : State) : s.rxSync.display = s.display := by
  unfold State.rxSync
  split <;> rfl

theorem rxData_display (s : State) (b : Byte) : (s.rxData b).display = s.display := by
  unfold State.rxData
  split
  · rfl
  · rfl
  · split <;> rfl

theorem rxBody_display (s : State) (body : List Byte) : (body.foldl State.rxData s).display = s.display :=
  List.foldlRecOn body State.rxData (motive := fun t => t.display = s.display) rfl
    fun t h b _ => (rxData_display t b).trans h

theorem rxInvalid_display (s : State) : s.rxInvalid.display = s.display := by
  unfold State.rxInvalid
  split <;> rfl

theorem forwardSent_display (s : State) : s.forwardSent.display = s.display := by
  unfold State.forwardSent
  split <;> rfl

theorem gapEnd_display (s : State) : s.gapEnd.display = s.display := by
  unfold State.gapEnd
  split <;> rfl

/-! ### Every command -/

/-- The head frame that awaits an answer is the one in transmission (R168). -/
theorem awaiting_sending {s : State} {f : HeadFrame} (h : s.awaiting = some f) : s.link.sending = some f := by
  unfold State.awaiting at h
  split at h
  · next hs =>
    split at h <;> cases h
    exact hs
  · cases h

/-- A request of a fixed length keeps what its action keeps. -/
theorem request_keeps {P : State → Prop} {s : State} (hs : P s) (x : Header) (n : Nat) {act : State → State × OutcomeCode}
    (hact : P (act s).1) : P (s.request x n act).1 := by
  unfold State.request
  split
  · exact hact
  · exact hs

/-- A property of the display side that each operation on it keeps. -/
structure DisplayInvariant (P : State → Prop) : Prop where
  /-- Nothing beside the display side matters to it. -/
  same {s t : State} : P s → t.display = s.display → P t
  define {s : State} (i : HeadIx) (h : Head) : P s → P (s.setHead i (some h))
  replace {s : State} (i : HeadIx) (x : Option Head) : P s → P (s.headReplaced i x)
  redefined {s : State} (i : HeadIx) : P s → P (s.headRedefined i)
  leaveRound {s : State} (i : HeadIx) : P s → P (s.leaveRound i)
  abandon {s : State} (i : HeadIx) : P s → P (s.abandon i)
  start {s : State} {i : HeadIx} {h : Head} (c : Composition) : s.head i = some h →
    P s → P ((s.setBuffers i ((s.buffers.get i).composing h)).setComp i (some c))
  complete {s : State} (i : HeadIx) : P s → P (s.completeComp i)
  round {s : State} : P s → P s.frameRound
  period {s : State} (n : Nat) : P s → P { s with link := { s.link with period := n } }
  timeBase {s : State} (b : TimeBase) : P s → P (s.setTimeBase b)
  phase {s : State} {f : HeadFrame} (x : FramePhase) (out : List Sym) : s.link.sending = some f →
    P s → P ((s.setSending (some { f with phase := x })).setPlo out)
  endFrame {s : State} {f : HeadFrame} (e : FrameEnd) : s.link.sending = some f → P s → P (s.endFrame f e)
  second {s : State} : P s → P s.linkSecond
  brightness {s : State} (p : List Byte) : P s → P (s.putBrightness p).1
  asserted {s : State} : P s → P (s.setLreq true).lreqSeen
  released {s : State} : P s → P (s.setLreq false).lreqGone
  activity {s : State} : P s → P s.seeActivity
  granted {s : State} : P s → P s.lgntSeen
  window {s : State} : P s → P s.windowExpires
  take {s : State} : P s → P s.takeLinkRequest.1
  give {s : State} : P s → P s.giveLinkRequest.1
  restart {s : State} : P s → P s.restart

namespace DisplayInvariant

variable {P : State → Prop} (inv : DisplayInvariant P)
include inv

/-! ### Overlays, notices and heads (R119 to R121, R129 to R132) -/

theorem takeHead {s : State} (hs : P s) {i : HeadIx} {h : Head} (hi : s.head i = some h) (slot : HeadIx) :
    P (s.takeHead i slot h) := by
  have htaken := inv.same hs ((nextOverlayNumber_display _ i).trans (setHead_display hi (h.startOverlay slot)))
  unfold State.takeHead
  dsimp only
  split
  · exact inv.abandon i htaken
  · split
    · exact htaken
    · exact inv.same htaken rfl

theorem releaseHead {s : State} (hs : P s) (slot i : HeadIx) : P (s.releaseHead slot i) := by
  unfold State.releaseHead
  split
  · next hi =>
    split
    · exact inv.abandon i (inv.same hs (setHead_display hi _))
    · exact hs
  · exact hs

theorem emptyNotice {s : State} (hs : P s) (slot : HeadIx) : P (s.emptyNotice slot) :=
  forHeads_keeps (P := P) (fun i _ ht => inv.releaseHead ht slot i) (inv.same hs rfl)

theorem noticeOnHead {s : State} (hs : P s) (slot : HeadIx) (n : Notice) (i : HeadIx) : P (s.noticeOnHead slot n i) := by
  unfold State.noticeOnHead
  split
  · next hi =>
    split
    · exact inv.takeHead hs hi slot
    · exact inv.releaseHead hs slot i
  · exact hs

theorem noticeFrame {s : State} (hs : P s) (p : List Byte) : P (s.noticeFrame p).1 := by
  unfold State.noticeFrame
  split
  · unfold State.appendNotice
    split
    · exact hs
    · split
      · exact hs
      · split
        · exact hs
        · exact inv.same hs rfl
  · unfold State.putNotice
    split
    · exact hs
    · next d _ => exact forHeads_keeps (P := P) (fun i _ ht => inv.noticeOnHead ht d.slot d.notice i) (inv.same hs rfl)

theorem clearNotice {s : State} (hs : P s) (p : List Byte) : P (s.clearNotice p).1 := by
  unfold State.clearNotice
  split
  · exact hs
  · split
    · exact hs
    · split
      · exact hs
      · exact inv.emptyNotice hs _

theorem putHead {s : State} (hs : P s) (p : List Byte) : P (s.putHead p).1 := by
  cases hp : HeadData.ofPayload p with
  | none =>
    rw [putHead_malformed hp]
    exact hs
  | some d =>
    obtain ⟨i, d⟩ := d
    rw [putHead_eq hp]
    refine inv.redefined i ?_
    cases hi : s.head i with
    | none =>
      rw [defineHead_undefined hi]
      exact inv.define i _ hs
    | some h =>
      unfold State.defineHead
      rw [hi]
      dsimp only
      split
      · exact inv.define i _ hs
      · rw [headReplaced_eq]
        exact inv.replace i _ hs

theorem dropHead {s : State} (hs : P s) (p : List Byte) : P (s.dropHead p).1 := by
  unfold State.dropHead
  split
  · exact hs
  · split
    · exact hs
    · next i _ =>
      split
      · exact hs
      · rw [headReplaced_eq]
        exact inv.leaveRound i (inv.redefined i (inv.replace i none hs))

theorem countNotice {s : State} (hs : P s) (slot : HeadIx) : P (s.countNotice slot) := by
  unfold State.countNotice
  split
  · split
    · split
      · exact inv.emptyNotice hs slot
      · exact inv.same hs rfl
    · exact hs
  · exact hs

theorem noticeSecond {s : State} (hs : P s) : P s.noticeSecond :=
  forHeads_keeps (P := P) (fun i _ ht => inv.countNotice ht i) hs

theorem layoutSecond {s : State} (hs : P s) : P s.layoutSecond := by
  unfold State.layoutSecond
  split
  · exact hs
  · exact inv.noticeSecond (inv.same hs (pageSecond_display s))

/-! ### Compositions and frame events (R139 to R141, R171) -/

theorem startComp {s : State} (hs : P s) {i : HeadIx} {h : Head} (hi : s.head i = some h) : P (s.startComp i h) := by
  have hstarted : ∀ c, P (((s.setHead i (some (h.checkPage s.entryCount))).setBuffers i
      ((s.buffers.get i).composing (h.checkPage s.entryCount))).setComp i (some c)) := fun c =>
    inv.start (s := s.setHead i _) c (State.setHead_head_self s i _) (inv.same hs (setHead_display hi _))
  unfold State.startComp
  dsimp only
  split
  · refine inv.complete i (inv.same (hstarted _) (paintOverlay_display ?_ _ _))
    exact State.setHead_head_self s i _
  · split
    · exact inv.complete i (hstarted _)
    · exact hstarted _

theorem composeHead {s : State} (hs : P s) (i : HeadIx) : P (s.composeHead i) := by
  unfold State.composeHead
  split
  · next hi =>
    split
    · exact inv.same hs rfl
    · exact inv.startComp hs hi
  · exact hs

theorem frameCompose {s : State} (hs : P s) : P s.frameCompose := by
  unfold State.frameCompose
  split
  · exact hs
  · exact forHeads_keeps (P := P) (fun i _ ht => inv.composeHead ht i)
      (inv.same hs (forHeads_display (fun i t => onHead_display t i _) s))

theorem frameEvent {s : State} (hs : P s) : P s.frameEvent := by
  have hread := inv.period s.mgmt.settings.framePeriod hs
  unfold State.frameEvent
  dsimp only
  split
  · split
    · exact inv.round (inv.frameCompose (inv.same hread rfl))
    · exact inv.frameCompose (inv.round (inv.same hread rfl))
  · exact inv.round (inv.frameCompose hread)

theorem frameTimer {s : State} (hs : P s) : P s.frameTimer := by
  unfold State.frameTimer
  split
  · exact inv.frameEvent hs
  · exact hs

theorem fsyncEdge {s : State} (hs : P s) : P s.fsyncEdge := by
  unfold State.fsyncEdge
  split
  · exact hs
  all_goals exact inv.frameEvent (inv.timeBase _ hs)

theorem fsyncWatch {s : State} (hs : P s) : P s.fsyncWatch := by
  unfold State.fsyncWatch
  split
  · exact hs
  · exact hs
  · exact inv.timeBase _ hs
  · exact inv.frameEvent (inv.timeBase _ hs)

theorem completeIfLast {s : State} (hs : P s) (i : HeadIx) (painted : Nat) : P (s.completeIfLast i painted) := by
  unfold State.completeIfLast
  split
  · split
    · exact inv.complete i hs
    · exact hs
  · exact hs

theorem paintNext {s : State} (hs : P s) (i : HeadIx) : P (s.paintNext i) := by
  unfold State.paintNext
  split
  · next c h hc hi =>
    split
    · exact inv.complete i (inv.same hs (paintOverlay_display hi _ _))
    · split
      · next idx f _ =>
        have hheld : (s.paintField i h c.snapshot idx f.record).comps.get i = some c := by
          rw [paintField_comps]
          exact hc
        exact inv.completeIfLast (inv.same hs ((setComp_display hheld _).trans (paintField_display hi _ _ _))) i idx
      · exact inv.complete i hs
  · exact hs

/-! ### A head frame in transmission (R166 to R168) -/

theorem testHold {s : State} (hs : P s) {f : HeadFrame} (hf : s.link.sending = some f) (y : Nat) (holdn : Bool) :
    P (s.testHold f y holdn) := by
  unfold State.testHold
  split
  · exact inv.phase _ _ hf hs
  · exact inv.phase _ _ hf hs

theorem headerDone {s : State} (hs : P s) (holdn : Bool) : P (s.headerDone holdn) := by
  unfold State.headerDone
  split
  · next hf =>
    split
    · exact inv.testHold hs hf _ _
    all_goals exact hs
  · exact hs

theorem rowDone {s : State} (hs : P s) (holdn : Bool) : P (s.rowDone holdn) := by
  unfold State.rowDone
  split
  · next hf =>
    split
    · split
      · exact inv.testHold hs hf _ _
      · exact inv.phase _ _ hf hs
    all_goals exact hs
  · exact hs

theorem holdReleased {s : State} (hs : P s) : P s.holdReleased := by
  unfold State.holdReleased
  split
  · next hf =>
    split
    · exact inv.phase _ _ hf hs
    all_goals exact hs
  · exact hs

theorem holdExpires {s : State} (hs : P s) : P s.holdExpires := by
  unfold State.holdExpires
  split
  · next hf =>
    split
    · exact inv.endFrame _ hf hs
    all_goals exact hs
  · exact hs

theorem ackTimesOut {s : State} (hs : P s) : P s.ackTimesOut := by
  unfold State.ackTimesOut
  split
  · next hf => exact inv.endFrame _ (awaiting_sending hf) hs
  · exact hs

theorem takeAck {s : State} (hs : P s) (head ambient : Byte) : P (s.takeAck head ambient) := by
  unfold State.takeAck
  split
  · next hf =>
    split
    · exact inv.endFrame _ (awaiting_sending hf) hs
    · exact inv.same hs rfl
  · exact inv.same hs rfl

theorem takeNak {s : State} (hs : P s) (head code : Byte) : P (s.takeNak head code) := by
  unfold State.takeNak
  split
  · next hf _ =>
    split
    · exact inv.endFrame _ (awaiting_sending hf) hs
    · exact inv.same hs rfl
  · exact inv.same hs rfl

theorem takeAnswer {s : State} (hs : P s) (a : Option Answer) : P (s.takeAnswer a) := by
  unfold State.takeAnswer
  split
  · exact inv.takeAck hs _ _
  · exact inv.takeNak hs _ _
  · exact inv.same hs rfl

theorem takeGroups {s : State} (hs : P s) (groups : List (BitVec 5)) : P (s.takeGroups groups) := by
  unfold State.takeGroups
  refine List.foldlRecOn _ State.takeAnswer (motive := P) ?_ fun t ht a _ => inv.takeAnswer ht a
  split
  · exact inv.activity hs
  · exact hs

/-! ### Second events (R75) -/

theorem share {s : State} (hs : P s) (expiry : Option Nat) (x : Share) : P (Share.act expiry s x) := by
  cases x with
  | departures => exact inv.same hs rfl
  | builds => exact inv.same hs rfl
  | layout => exact inv.layoutSecond hs
  | link => exact inv.second hs
  | freeze => exact inv.same hs (freezeSecond_display s)

theorem secondEvent {s : State} (hs : P s) (expiry : Option Nat) : P (s.secondEvent expiry) := by
  have hshares : ∀ (l : List Share) {t : State}, P t → P (l.foldl (Share.act expiry) t) := fun l _ ht =>
    List.foldlRecOn l _ (motive := P) ht fun _ hu x _ => inv.share hu expiry x
  unfold State.secondEvent
  dsimp only
  split
  · exact hshares _ (inv.same hs rfl)
  · exact hshares _ hs

theorem advanceClock {s : State} (hs : P s) : P s.advanceClock :=
  inv.secondEvent (s := s.setClock s.clock.advance) (inv.same hs rfl) _

theorem internalTick {s : State} (hs : P s) : P s.internalTick := by
  unfold State.internalTick
  split
  · exact inv.advanceClock hs
  · exact hs

theorem secpEdge {s : State} (hs : P s) (micros : Nat) : P (s.secpEdge micros) := by
  have haccepted : P (s.setClock (s.clock.acceptEdge micros)) := inv.same hs rfl
  unfold State.secpEdge
  split
  · exact hs
  · dsimp only
    split
    · exact inv.advanceClock haccepted
    · exact haccepted

theorem watchExpires {s : State} (hs : P s) : P s.watchExpires := by
  unfold State.watchExpires
  split
  · exact inv.advanceClock (inv.advanceClock (inv.same hs rfl))
  · exact hs

theorem scheduledTick {s : State} (hs : P s) : P s.scheduledTick := by
  unfold State.scheduledTick
  split
  · exact inv.advanceClock (inv.same hs rfl)
  · exact hs

/-! ### Frames and requests (R10 to R12) -/

theorem own {s : State} (hs : P s) (p : List Byte) (k : Kind) : P (s.own p k).1 := by
  cases k
  case departurePut | departureAmend | departureRemove | stops | stopAmend => exact inv.same hs (takeBoard_display s _)
  case namePut | nameDrop | namesClear => exact inv.same hs (takeNames_display s _)
  case fontDefine | glyphPut => exact inv.same hs rfl
  case noticePut => exact inv.noticeFrame hs p
  case noticeClear => exact inv.clearNotice hs p
  case timeSet => exact inv.same hs (timeFrame_display s p)
  case headDefine => exact inv.putHead hs p
  case headDrop => exact inv.dropHead hs p
  case fieldPut => exact inv.same hs (putField_display s p)
  case fieldDrop => exact inv.same hs (dropField_display s p)
  case brightnessTablePut => exact inv.brightness p hs
  all_goals exact hs

/-- Of the settings only Sync Source acts on the display side, by the frame time base (R171, R188). -/
theorem setting {s : State} (hs : P s) (n v : Nat) : P (s.applySetting n v).1 := by
  unfold State.applySetting
  split
  case h_3 =>
    unfold State.setOwnPlatform
    split
    · exact hs
    · exact inv.same hs rfl
  case h_4 =>
    unfold State.setDayStart
    split
    · exact hs
    · exact inv.same hs rfl
  case h_15 =>
    unfold State.setSyncSource
    dsimp only
    generalize (if v = 0 then SyncSource.internal else .fsync) = source
    split
    · exact hs
    · cases source with
      | internal => exact inv.same (inv.timeBase .internal hs) rfl
      | fsync => exact inv.same (inv.timeBase .acquiring hs) rfl
  case h_18 => exact hs
  all_goals exact inv.same hs rfl

theorem configure {s : State} (hs : P s) (p : List Byte) : P (s.configure p).1 := by
  unfold State.configure
  split
  · exact hs
  · next l _ =>
    exact List.foldlRecOn l _ (motive := fun r : State × Bool => P r.1) hs fun r hr x _ => inv.setting hr x.1 x.2

theorem restartRequest {s : State} (hs : P s) (x : Header) : P (s.restartRequest x).1 := by
  unfold State.restartRequest
  split
  · exact hs
  · split
    · exact inv.same hs rfl
    · exact inv.restart hs

theorem manage {s : State} (hs : P s) (x : Header) (k : Kind) : P (s.manage x k).1 := by
  cases k
  case statusQuery => exact inv.same hs (fill_display _ s)
  case counterRead => exact inv.same hs (counterRead_display s x)
  case eventClear => exact request_keeps hs x 1 (inv.same hs rfl)
  case eventEnable => exact request_keeps hs x 1 (inv.same hs rfl)
  case configure => exact inv.configure hs _
  case freeze => exact request_keeps hs x 0 (inv.same hs rfl)
  case unfreeze => exact request_keeps hs x 0 (inv.same hs (unfreeze_display s))
  case advance => exact request_keeps hs x 1 (inv.same hs (advancePages_display s _))
  case blank => exact request_keeps hs x 1 (inv.same hs (setBlank_display s _ _))
  case unblank => exact request_keeps hs x 1 (inv.same hs (setBlank_display s _ _))
  case takeLink => exact request_keeps hs x 0 (inv.take hs)
  case giveLink => exact request_keeps hs x 0 (inv.give hs)
  case readBack => exact inv.same hs (readRequest_display s _)
  case readNext => exact inv.same hs (readRequest_display s _)
  case addressAssign => exact inv.same hs (assignAddress_display s x)
  case restart => exact inv.restartRequest hs x
  all_goals exact hs

theorem forward {s : State} (hs : P s) (body : List Byte) (x : Header) : P (s.forward body x) :=
  inv.same hs (forward_display s body x)

theorem handData {s : State} (hs : P s) (k : Kind) (x : Header) (reply : Bool) : P (s.handData k x reply) := by
  have howned := inv.own (inv.same (t := s.bump .framesActedOn) hs rfl) x.payload k
  unfold State.handData
  dsimp only
  split
  · exact inv.same howned (offerReply_display _ _ _)
  · exact howned

theorem handManagement {s : State} (hs : P s) (k : Kind) (x : Header) : P (s.handManagement k x) := by
  unfold State.handManagement
  split
  · exact inv.same hs rfl
  · exact inv.same (inv.manage (inv.same (t := s.bump .framesActedOn) hs rfl) x k) (offerOpt_display _ _ _)

theorem disposeData {s : State} (hs : P s) (k : Kind) (body : List Byte) (x : Header) : P (s.disposeData k body x) := by
  unfold State.disposeData
  split
  · exact inv.handData hs _ _ _
  · split
    · exact inv.forward (inv.handData hs _ _ _) body x
    · exact inv.forward hs body x

theorem disposeManagement {s : State} (hs : P s) (k : Kind) (body : List Byte) (x : Header) :
    P (s.disposeManagement k body x) := by
  unfold State.disposeManagement
  split
  · exact inv.handManagement hs _ _
  · split
    · split
      · exact inv.forward (inv.handManagement hs _ _) body x
      · exact inv.forward hs body x
    · split
      · exact inv.forward (s := s.bump .unknownKind) (inv.same hs rfl) body x
      · exact inv.forward hs body x

theorem dispose {s : State} (hs : P s) (body : List Byte) (x : Header) : P (s.dispose body x) := by
  unfold State.dispose
  split
  · exact inv.forward hs body x
  · split
    · exact inv.same hs (unknownKind_display s body x)
    · split
      · exact inv.disposeData hs _ _ _
      · exact inv.disposeManagement hs _ _ _

theorem arrive {s : State} (hs : P s) (body : List Byte) : P (s.arrive body) := by
  have hcounted : ∀ c, P (s.bump c) := fun _ => inv.same hs rfl
  unfold State.arrive
  split
  · exact hcounted _
  · split
    · exact inv.same hs rfl
    · split
      · exact hcounted _
      · split
        · exact inv.dispose (hcounted _) _ _
        · exact hcounted _

theorem rxEnd {s : State} (hs : P s) : P s.rxEnd := by
  unfold State.rxEnd
  split
  · exact hs
  · exact hs
  · exact inv.arrive (inv.same (t := s.setRx .wait []) hs rfl) _

theorem receive {s : State} (hs : P s) (body : List Byte) : P (s.receive body) :=
  inv.rxEnd (inv.same hs ((rxBody_display _ body).trans (rxSync_display s)))

theorem replySent {s : State} (hs : P s) : P s.replySent := by
  unfold State.replySent
  split
  · dsimp only
    split
    · exact inv.restart (inv.same hs rfl)
    · exact inv.same hs rfl
  all_goals exact hs

/-! ### A command of the running part -/

/-- A command taken while the part runs keeps the property when its effect does. -/
theorem live {s t : State} {effect : State → State} (hrun : s.inReset = false) (e : Machine.live s effect = .next t)
    (heffect : P (effect s)) : P t := by
  rw [live_running effect hrun] at e
  cases e
  exact inv.same heffect rfl

/-- What is paused while frozen keeps the property when it does so unpaused (R134). -/
theorem unlessFrozen {s t : State} {f : State → State} (hrun : s.inReset = false) (hs : P s)
    (e : Machine.live s (fun s => if s.mgmt.frozen then s else f s) = .next t) (hf : P (f s)) : P t := by
  refine inv.live hrun e ?_
  split
  · exact hs
  · exact hf

/-- While the part runs, every command but HARD_RESET keeps a property of the display side that each operation on it keeps. -/
theorem exec {c : Instr} {s t : State} (hrun : s.inReset = false) (hc : c ≠ .hardReset) (hs : P s)
    (e : Machine.exec c s = .next t) : P t := by
  have beside {effect : State → State} (e : Machine.live s effect = .next t)
      (heffect : (effect s).display = s.display) : P t := inv.live hrun e (inv.same hs heffect)
  cases hframe : c.frame with
  | some kf =>
    rw [exec_frame hframe] at e
    exact inv.live hrun e (inv.receive hs _)
  | none =>
    cases c
    case hardReset => exact absurd rfl hc
    case hardResetEnd straps =>
      cases e
      rw [if_neg (hrun ▸ Bool.false_ne_true)]
      exact hs
    case idleMarker => exact beside e (rxIdle_display s)
    case syncMarker => exact beside e (rxSync_display s)
    case dataByte b => exact beside (effect := fun s => s.rxData b) e (rxData_display s b)
    case invalidCharacter => exact beside e (rxInvalid_display s)
    case frameArrival => exact inv.live hrun e (inv.rxEnd hs)
    case idleGapEnd => exact beside e (gapEnd_display s)
    case forwardedFrameSent => exact beside e (forwardSent_display s)
    case replySent => exact inv.live hrun e (inv.replySent hs)
    case internalTick => exact inv.live hrun e (inv.internalTick hs)
    case secpRisingEdge micros => exact inv.live (effect := fun s => s.secpEdge micros) hrun e (inv.secpEdge hs micros)
    case clockWatchExpiry => exact inv.live hrun e (inv.watchExpires hs)
    case scheduledInstantTick => exact inv.live hrun e (inv.scheduledTick hs)
    case lingerExpiry => exact inv.live hrun e (inv.same hs rfl)
    case buildTimeout => exact inv.live hrun e (inv.same hs rfl)
    case dwellExpiry => exact inv.unlessFrozen hrun hs e (inv.same hs (dwellSecond_display s))
    case holdTimeout => exact inv.unlessFrozen hrun hs e (inv.same hs (holdSecond_display s))
    case noticeExpiry => exact inv.unlessFrozen hrun hs e (inv.noticeSecond hs)
    case freezeTimeout => exact beside e (freezeSecond_display s)
    case frameTimerExpiry => exact inv.live hrun e (inv.frameTimer hs)
    case fsyncRisingEdge => exact inv.live hrun e (inv.fsyncEdge hs)
    case fsyncWatchExpiry => exact inv.live hrun e (inv.fsyncWatch hs)
    case fieldPaint i => exact inv.live (effect := fun s => s.paintNext i) hrun e (inv.paintNext hs i)
    case rowSent holdn => exact inv.live (effect := fun s => s.rowDone holdn) hrun e (inv.rowDone hs holdn)
    case holdnRelease => exact inv.live hrun e (inv.holdReleased hs)
    case holdLimitExpiry => exact inv.live hrun e (inv.holdExpires hs)
    case ackReceived head ambient =>
      exact inv.live (effect := fun s => s.seeActivity.takeAck head ambient) hrun e
        (inv.takeAck (inv.activity hs) head ambient)
    case nakReceived head code =>
      exact inv.live (effect := fun s => s.seeActivity.takeNak head code) hrun e
        (inv.takeNak (inv.activity hs) head code)
    case ackTimeout => exact inv.live hrun e (inv.ackTimesOut hs)
    case answerNotWellFormed groups => exact inv.live (effect := fun s => s.takeGroups groups) hrun e (inv.takeGroups hs groups)
    case lreqAsserted => exact inv.live (s := s.setLreq true) hrun e (inv.asserted hs)
    case lreqReleased => exact inv.live (s := s.setLreq false) hrun e (inv.released hs)
    case lgntAsserted => exact inv.live hrun e (inv.granted hs)
    case activity => exact inv.live hrun e (inv.activity hs)
    case grantWaitExpiry => exact inv.live hrun e (inv.window hs)
    case headerSent holdn => exact inv.live (effect := fun s => s.headerDone holdn) hrun e (inv.headerDone hs holdn)
    all_goals cases hframe

end DisplayInvariant

/-! ### A command in reset -/

/-- What a command leaves of a part in reset: the hold again, the end of the reset, or a level of LREQ (R20, R193; log 10). -/
theorem exec_inReset {c : Instr} {s t : State} (hr : s.inReset = true) (e : exec c s = .next t) :
    t = s ∨ t = s.hold.clearFeedCounters ∨ (∃ straps, t = s.endReset straps) ∨ ∃ level, t = s.setLreq level := by
  by_cases hhold : c = .hardReset
  · subst hhold
    cases e
    exact Or.inr (Or.inl rfl)
  · by_cases hend : ∃ straps, c = .hardResetEnd straps
    · obtain ⟨straps, rfl⟩ := hend
      cases e
      exact Or.inr (Or.inr (Or.inl ⟨straps, if_pos hr⟩))
    · by_cases hlow : c = .lreqAsserted
      · subst hlow
        cases (live_held (s := s.setLreq true) State.lreqSeen hr).symm.trans e
        exact Or.inr (Or.inr (Or.inr ⟨true, rfl⟩))
      · by_cases hhigh : c = .lreqReleased
        · subst hhigh
          cases (live_held (s := s.setLreq false) State.lreqGone hr).symm.trans e
          exact Or.inr (Or.inr (Or.inr ⟨false, rfl⟩))
        · cases (exec_held hr hhold (not_exists.1 hend) hlow hhigh).symm.trans e
          exact Or.inl rfl

end Sys2Proof.Machine
end

section
/-! PROOFS. Every step keeps compositions on DEFINED heads with a COMPOSING back, and leaves no swap undone (R139, R158, R159). -/

namespace Sys2Proof.Machine

/-! ### What the two properties say of a head index -/

/-- A head index: DEFINED, a composition in flight, the states of its buffers, and whether the swap rule finds it sendable and a
head frame to it in transmission. -/
structure Shown where
  defined  : Bool
  inFlight : Bool
  back     : BackState
  front    : FrontState
  sendable : Bool
  sending  : Bool

/-- What a state shows of a head index. -/
def State.shown (s : State) (i : HeadIx) : Shown :=
  ⟨(s.head i).isSome, (s.comps.get i).isSome, (s.buffers.get i).backState, (s.buffers.get i).frontState, s.sendable i,
    s.sendingTo i⟩

/-- A composition is in flight only on a DEFINED head, and its back is COMPOSING (R139, R158). -/
def Shown.Composes (x : Shown) : Prop := x.inFlight = true → x.defined = true ∧ x.back = .composing

/-- The swap rule would exchange the buffers (R159). -/
def Shown.SwapDue (x : Shown) : Prop :=
  x.back = .complete ∧ (x.front = .sent ∨ x.sendable = false) ∧ x.sending = false

/-- The composition and the swap of a head index are as a running part leaves them. -/
structure Shown.Settled (x : Shown) : Prop where
  composes : x.Composes
  swapped  : ¬ x.SwapDue

/-- Every head index. -/
def State.Settled (s : State) : Prop := ∀ i, (s.shown i).Settled

theorem settled_iff (s : State) : s.Settled ↔ s.CompositionsSound ∧ ∀ i, ¬ (s.shown i).SwapDue :=
  ⟨fun h => ⟨fun i => (h i).composes, fun i => (h i).swapped⟩, fun h i => ⟨h.1 i, h.2 i⟩⟩

/-- An index without a composition and with an IDLE back. -/
theorem Shown.settled_of_idle {x : Shown} (hflight : x.inFlight = false) (hback : x.back = .idle) : x.Settled := by
  refine ⟨fun h => ?_, fun ⟨hcomplete, _⟩ => ?_⟩
  · cases hflight.symm.trans h
  · cases hback.symm.trans hcomplete

/-- A head that becomes sendable, or to which a head frame begins, has no more swap due (R159). -/
theorem Shown.Settled.link {x : Shown} (h : x.Settled) {sendable sending : Bool}
    (hsendable : x.sendable = true → sendable = true) (hsending : x.sending = true → sending = true) :
    ({ x with sendable := sendable, sending := sending } : Shown).Settled := by
  refine ⟨h.composes, fun ⟨hback, hfront, hnone⟩ => h.swapped ⟨hback, hfront.imp_right fun hno => ?_, ?_⟩⟩
  · exact Bool.eq_false_iff.2 fun hx => Bool.false_ne_true (hno.symm.trans (hsendable hx))
  · exact Bool.eq_false_iff.2 fun hx => Bool.false_ne_true (hnone.symm.trans (hsending hx))

/-! ### Rules for the updates of a state -/

theorem shown_of_display {s t : State} (e : t.display = s.display) (i : HeadIx) : t.shown i = s.shown i := by
  have hdefined : (t.head i).isSome = (s.head i).isSome := congrFun (congrArg Display.defined e) i
  have hflight : (t.comps.get i).isSome = (s.comps.get i).isSome := congrFun (congrArg Display.inFlight e) i
  have hback : (t.buffers.get i).backState = (s.buffers.get i).backState := congrFun (congrArg Display.backs e) i
  have hfront : (t.buffers.get i).frontState = (s.buffers.get i).frontState := congrFun (congrArg Display.fronts e) i
  have hlink : t.link = s.link := congrArg Display.link e
  unfold State.shown State.sendable State.ownsLink State.sendingTo
  rw [hdefined, hflight, hback, hfront, hlink]

theorem shown_congr {s t : State} {i : HeadIx} (h : s.SameAt t i) (hsendable : t.sendable i = s.sendable i)
    (hsending : t.sendingTo i = s.sendingTo i) : t.shown i = s.shown i := by
  obtain ⟨hhead, hcomp, hbuffers⟩ := h
  unfold State.shown State.head
  rw [hhead, hcomp, hbuffers, hsendable, hsending]

theorem shown_of_sameAt {s t : State} {i : HeadIx} (h : s.SameAt t i) (hlink : t.link = s.link) : t.shown i = s.shown i := by
  refine shown_congr h ?_ ?_
  · unfold State.sendable State.ownsLink
    rw [hlink]
  · unfold State.sendingTo
    rw [hlink]

/-- A head frame in transmission that is changed stays one to its head. -/
theorem sendingTo_map {s t : State} {g : HeadFrame → HeadFrame} (hg : ∀ f, (g f).head = f.head)
    (hl : t.link.sending = s.link.sending.map g) (i : HeadIx) : t.sendingTo i = s.sendingTo i := by
  unfold State.sendingTo
  rw [hl]
  cases s.link.sending with
  | none => rfl
  | some f => exact congrArg (fun x => decide (x = i)) (hg f)

theorem clearedFor_head (i : HeadIx) (f : HeadFrame) : (f.clearedFor i).head = f.head := by
  unfold HeadFrame.clearedFor
  split <;> rfl

theorem voidFor_head (i : HeadIx) (f : HeadFrame) : (f.voidFor i).head = f.head := by
  unfold HeadFrame.voidFor
  split <;> rfl

section Updates

variable {s : State} (h : s.Settled)
include h

/-- An operation at one index leaves the others. -/
theorem settled_at {t : State} {i : HeadIx} (hi : (t.shown i).Settled) (hother : ∀ j, j ≠ i → t.shown j = s.shown j) :
    t.Settled := by
  intro j
  by_cases hj : j = i
  · rw [hj]
    exact hi
  · rw [hother j hj]
    exact h j

/-- A change of the Panel Link that takes neither the link, nor a head's presence, nor a head frame in transmission away. -/
theorem settled_link {l : Link} (howns : s.ownsLink = true → ({ s with link := l } : State).ownsLink = true)
    (habsent : ∀ i, (l.heads.get i).state = .absent → (s.link.heads.get i).state = .absent)
    (hsending : ∀ i, s.sendingTo i = true → ({ s with link := l } : State).sendingTo i = true) :
    ({ s with link := l } : State).Settled := by
  refine fun i => (h i).link (fun hs => ?_) (hsending i)
  obtain ⟨ho, hp⟩ := (Bool.and_eq_true _ _).mp hs
  exact (Bool.and_eq_true _ _).mpr ⟨howns ho, decide_eq_true fun e => of_decide_eq_true hp (habsent i e)⟩

/-- A change of the Panel Link beside ownership, the heads' states and the head frame in transmission. -/
theorem settled_linkBeside {l : Link} (howner : l.owner = s.link.owner) (hheads : l.heads = s.link.heads)
    (hsending : l.sending = s.link.sending) : ({ s with link := l } : State).Settled := by
  refine settled_link h (fun ho => ?_) (fun i hi => hheads ▸ hi) fun i hi => ?_
  · unfold State.ownsLink at ho ⊢
    rwa [howner]
  · unfold State.sendingTo at hi ⊢
    rwa [hsending]

/-! ### Heads (R119 to R121, R142) -/

theorem setHead_some_settled (i : HeadIx) (x : Head) : (s.setHead i (some x)).Settled := by
  refine settled_at h (i := i) ⟨fun hf => ⟨?_, ((h i).composes hf).2⟩, (h i).swapped⟩ fun j hj => ?_
  · show ((s.setHead i (some x)).head i).isSome = true
    rw [State.setHead_head_self]
    rfl
  · exact shown_of_sameAt ((setHead_local s i _).2 j hj) rfl

theorem abandon_settled (i : HeadIx) : (s.abandon i).Settled := by
  rcases abandon_cases s i with ⟨_, e⟩ | e <;> rw [e]
  · exact h
  · refine settled_at h (i := i) (Shown.settled_of_idle ?_ ?_) fun j hj => ?_
    · exact congrArg Option.isSome (Bank8.get_set_self _ _ _)
    · exact congrArg Buffers.backState (Bank8.get_set_self _ _ _)
    · exact shown_of_sameAt ⟨rfl, Bank8.get_set_ne _ _ hj, Bank8.get_set_ne _ _ hj⟩ rfl

theorem headReplaced_settled (i : HeadIx) (x : Option Head) : (s.headReplaced i x).Settled := by
  refine settled_at h (i := i) (Shown.settled_of_idle ?_ ?_) fun j hj => ?_
  · exact congrArg Option.isSome (Bank8.get_set_self _ _ _)
  · refine (congrArg Buffers.backState (Bank8.get_set_self _ _ _)).trans ?_
    split <;> rfl
  · refine shown_congr ⟨?_, ?_, ?_⟩ rfl (sendingTo_map (clearedFor_head i) rfl j)
    all_goals exact Bank8.get_set_ne _ _ hj

theorem headRedefined_settled (i : HeadIx) : (s.headRedefined i).Settled := by
  refine settled_link h (fun ho => ho) (fun j hj => ?_) fun j hj => (sendingTo_map (voidFor_head i) rfl j).trans hj
  dsimp only at hj
  rw [Bank8.get_set] at hj
  split at hj
  · cases hj
  · exact hj

/-! ### Compositions (R139 to R141) -/

theorem start_settled {i : HeadIx} {x : Head} (hi : s.head i = some x) (c : Composition) :
    ((s.setBuffers i ((s.buffers.get i).composing x)).setComp i (some c)).Settled := by
  have hback : ((s.buffers.set i ((s.buffers.get i).composing x)).get i).backState = .composing :=
    congrArg Buffers.backState (Bank8.get_set_self _ _ _)
  refine settled_at h (i := i) ⟨fun _ => ⟨congrArg Option.isSome hi, hback⟩, fun ⟨hcomplete, _⟩ => ?_⟩ fun j hj => ?_
  · cases hback.symm.trans hcomplete
  · exact shown_of_sameAt ⟨rfl, Bank8.get_set_ne _ _ hj, Bank8.get_set_ne _ _ hj⟩ rfl

end Updates

/-! ### The swap rule (R159) -/

theorem swapIfReady_local : LocalToHead fun i s => s.swapIfReady i := by
  intro i s
  rcases swapIfReady_cases s i with e | e <;> dsimp only <;> rw [e]
  · exact ⟨rfl, fun _ _ => ⟨rfl, rfl, rfl⟩⟩
  · exact ⟨rfl, fun _ hj => ⟨rfl, rfl, Bank8.get_set_ne _ _ hj⟩⟩

/-- The swap rule settles an index whose composition is sound. -/
theorem swapIfReady_self {s : State} {i : HeadIx} (hi : (s.shown i).Composes) : ((s.swapIfReady i).shown i).Settled := by
  unfold State.swapIfReady
  split
  · next hdue =>
    refine Shown.settled_of_idle (Bool.eq_false_iff.2 fun hflight => ?_)
      (congrArg Buffers.backState (Bank8.get_set_self _ _ _))
    cases hdue.1.symm.trans (hi hflight).2
  · next hdue => exact ⟨hi, hdue⟩

/-- The swap rule applied at one index, when the others are as in a settled state. -/
theorem swapIfReady_settled {s u : State} (h : s.Settled) {i : HeadIx} (hi : (u.shown i).Composes)
    (hother : ∀ j, j ≠ i → u.shown j = s.shown j) : (u.swapIfReady i).Settled := by
  obtain ⟨honly, hlocal⟩ := swapIfReady_local i u
  exact settled_at h (swapIfReady_self hi) fun j hj =>
    (shown_of_sameAt (hlocal j hj) honly.link).trans (hother j hj)

theorem completeComp_settled {s : State} (h : s.Settled) (i : HeadIx) : (s.completeComp i).Settled := by
  refine swapIfReady_settled h (fun hflight => ?_) fun j hj => ?_
  · have hnone : ((s.comps.set i none).get i).isSome = false := congrArg Option.isSome (Bank8.get_set_self _ _ _)
    cases hnone.symm.trans hflight
  · exact shown_of_sameAt ⟨rfl, Bank8.get_set_ne _ _ hj, Bank8.get_set_ne _ _ hj⟩ rfl

/-- The swap rule at every head settles them all. -/
theorem forHeads_swapIfReady_settled {s : State} (h : ∀ i, (s.shown i).Composes) :
    (s.forHeads fun i s => s.swapIfReady i).Settled := by
  obtain ⟨honly, hat⟩ := forHeads_local swapIfReady_local s
  intro i
  obtain ⟨u, hu, hsame, hi⟩ := hat i
  have hbefore : u.shown i = s.shown i := shown_of_sameAt hsame hu.link
  have hafter : (s.forHeads fun i s => s.swapIfReady i).shown i = (u.swapIfReady i).shown i := by
    refine shown_of_sameAt hi (honly.link.trans ?_)
    rw [(swapIfReady_local i u).1.link, hu.link]
  rw [hafter]
  exact swapIfReady_self (hbefore ▸ h i)

/-! ### Parts of the link's operations -/

/-- A second event leaves a head's state (R170, R175). -/
theorem onSecond_state (t : List Nat) (hysteresis : Nat) (x : Head) (l : LinkHead) :
    (l.onSecond t hysteresis x).state = l.state := by
  unfold LinkHead.onSecond
  dsimp only
  split
  · split <;> rfl
  · split <;> rfl

/-- The end of a head frame leaves the back's state (R160). -/
theorem afterFrame_backState (b : Buffers) (clear : Bool) : (b.afterFrame clear).backState = b.backState := by
  unfold Buffers.afterFrame
  split <;> rfl

/-! ### Ownership (R177 to R179) -/

theorem loseLink_settled {s : State} (h : s.Settled) (o : Ownership) : (s.loseLink o).Settled :=
  forHeads_swapIfReady_settled fun i => (h i).composes

section Link

variable {s : State} (h : s.Settled)
include h

theorem bump_settled (c : Ctr) : (s.bump c).Settled := h

theorem takeLink_settled : s.takeLink.Settled := settled_link h (fun _ => rfl) (fun _ hi => hi) fun _ hi => hi

theorem lreqSeen_settled : s.lreqSeen.Settled := by
  unfold State.lreqSeen
  split
  · split
    · exact settled_link h (fun _ => rfl) (fun _ hi => hi) fun _ hi => hi
    · exact loseLink_settled h _
  · exact h

theorem lreqGone_settled : s.lreqGone.Settled := by
  unfold State.lreqGone
  split
  · split
    · exact settled_link h (fun _ => rfl) (fun _ hi => hi) fun _ hi => hi
    · exact takeLink_settled h
    all_goals exact h
  · exact h

theorem seeActivity_settled : s.seeActivity.Settled := by
  unfold State.seeActivity
  split
  · exact settled_linkBeside h rfl rfl rfl
  · exact h

theorem lgntSeen_settled : s.lgntSeen.Settled := by
  unfold State.lgntSeen
  split
  · exact takeLink_settled h
  · exact h

theorem windowExpires_settled : s.windowExpires.Settled := by
  unfold State.windowExpires
  split
  · split
    · exact settled_linkBeside h rfl rfl rfl
    · exact bump_settled (takeLink_settled h) _
  · exact h

/-- An IDLE Standby that waits for the link owned it neither before nor after (R178). -/
theorem takeLinkRequest_settled : s.takeLinkRequest.1.Settled := by
  unfold State.takeLinkRequest
  split
  · exact h
  · split
    · next hidle =>
      refine settled_link h (fun ho => ?_) (fun _ hi => hi) fun _ hi => hi
      unfold State.ownsLink at ho
      rw [hidle] at ho
      cases ho
    all_goals exact h

theorem giveLinkRequest_settled : s.giveLinkRequest.1.Settled := by
  unfold State.giveLinkRequest
  split
  · exact h
  · split
    · split
      · exact settled_linkBeside h rfl rfl rfl
      · dsimp only
        exact loseLink_settled h _
    · next hwaiting =>
      refine settled_link h (fun ho => ?_) (fun _ hi => hi) fun _ hi => hi
      unfold State.ownsLink at ho
      rw [hwaiting] at ho
      cases ho
    all_goals exact h

/-! ### Rounds and head frames (R166 to R173) -/

/-- A head frame begins while none is in transmission. -/
theorem beginFrame_settled (hnone : s.link.sending = none) (i : HeadIx) (x : Head) : (s.beginFrame i x).Settled := by
  have hbegun : ∀ n f out, (((s.setLinkHead i { s.link.heads.get i with frameNumber := n, probeDue := false }).setSending
      (some f)).setPlo out).Settled := by
    intro n f out
    refine settled_link h (fun ho => ho) (fun j hj => ?_) fun j hj => ?_
    · dsimp only [State.setSending, State.setLinkHead] at hj
      rw [Bank8.get_set] at hj
      split at hj
      · next hji => rw [hji]; exact hj
      · exact hj
    · unfold State.sendingTo at hj
      rw [hnone] at hj
      cases hj
  unfold State.beginFrame
  dsimp only
  split <;> exact hbegun _ _ _

theorem nextOfRound_settled (hnone : s.link.sending = none) (l : List HeadIx) : (s.nextOfRound l).Settled := by
  induction l with
  | nil => exact settled_linkBeside h rfl rfl rfl
  | cons i l ih =>
    unfold State.nextOfRound
    split
    · exact beginFrame_settled (s := { s with link := { s.link with round := some l } })
        (settled_linkBeside h rfl rfl rfl) hnone i _
    · exact ih

theorem frameRound_settled : s.frameRound.Settled := by
  have hended : s.endRound.Settled := by
    rw [endRound_spec]
    exact settled_linkBeside h rfl rfl rfl
  unfold State.frameRound State.beginRound
  dsimp only
  split
  · split
    · exact settled_linkBeside hended rfl rfl rfl
    · next hnone => exact nextOfRound_settled hended hnone _
  · exact h

theorem afterFrame_settled (hnone : s.link.sending = none) : s.afterFrame.Settled := by
  unfold State.afterFrame
  split
  · exact loseLink_settled h _
  · split
    · exact loseLink_settled h _
    · unfold State.continueRound
      split
      · exact nextOfRound_settled h hnone _
      · exact settled_linkBeside h rfl rfl rfl

/-- A head frame in transmission goes on to the same head. -/
theorem phase_settled {f : HeadFrame} (hf : s.link.sending = some f) (x : FramePhase) (out : List Sym) :
    ((s.setSending (some { f with phase := x })).setPlo out).Settled := by
  refine settled_link h (fun ho => ho) (fun _ hi => hi) fun i hi => ?_
  unfold State.sendingTo at hi
  rw [hf] at hi
  exact hi

theorem linkSecond_settled : s.linkSecond.Settled := by
  refine settled_link h (fun ho => ho) (fun i hi => ?_) fun _ hi => hi
  dsimp only at hi
  rw [Bank8.get_mapIx] at hi
  split at hi
  · rwa [onSecond_state] at hi
  · exact hi

theorem putBrightness_settled (p : List Byte) : (s.putBrightness p).1.Settled := by
  unfold State.putBrightness
  split
  · exact h
  · exact settled_linkBeside h rfl rfl rfl

/-- No head frame is in transmission any more: the swap rule is applied to the head of the last one, and no other had it in
transmission (R159, R168). -/
theorem frameGone_settled {f : HeadFrame} (hf : s.link.sending = some f) {heads : Bank8 LinkHead}
    (hheads : ∀ j, j ≠ f.head → heads.get j = s.link.heads.get j) (counters : Vector Nat 40) :
    ((State.setBuffers { s with counters := counters, link := { s.link with heads := heads, sending := none } } f.head
      ((s.buffers.get f.head).afterFrame f.clearFront)).swapIfReady f.head).Settled := by
  refine swapIfReady_settled h (fun hflight => ?_) fun j hj => ?_
  · obtain ⟨hdefined, hback⟩ := (h f.head).composes hflight
    refine ⟨hdefined, (congrArg Buffers.backState (Bank8.get_set_self _ _ _)).trans ?_⟩
    exact (afterFrame_backState _ _).trans hback
  · refine shown_congr ⟨rfl, rfl, Bank8.get_set_ne _ _ hj⟩ ?_ ?_
    · show (s.ownsLink && decide ((heads.get j).state ≠ .absent)) = s.sendable j
      rw [hheads j hj]
      rfl
    · unfold State.sendingTo
      rw [hf]
      exact (decide_eq_false (Ne.symm hj)).symm

theorem endFrame_settled {f : HeadFrame} (hf : s.link.sending = some f) (e : FrameEnd) : (s.endFrame f e).Settled := by
  have hcounted : s.bumpOpt e.counter = { s with counters := (s.bumpOpt e.counter).counters } := by cases e <;> rfl
  unfold State.endFrame
  rw [hcounted]
  generalize (s.bumpOpt e.counter).counters = counters
  dsimp only
  split
  · have hgone := frameGone_settled h hf (heads := s.link.heads) (fun _ _ => rfl) counters
    exact afterFrame_settled hgone (congrArg Link.sending (swapIfReady_local f.head _).1.link)
  · have hgone := frameGone_settled h hf (heads := s.link.heads.set f.head ((s.link.heads.get f.head).after e))
      (fun _ hj => Bank8.get_set_ne _ _ hj) counters
    exact afterFrame_settled hgone (congrArg Link.sending (swapIfReady_local f.head _).1.link)

end Link

/-! ### Every step -/

/-- After a Restart no composition is in flight and every back is IDLE (R164, R182). -/
theorem restart_settled (s : State) : s.restart.Settled := by
  refine fun i => Shown.settled_of_idle (congrArg Option.isSome (Bank8.get_fill _ i)) ?_
  refine (congrArg Buffers.backState (Bank8.get_mapIx _ s.buffers i)).trans ?_
  unfold Buffers.restarted
  split <;> rfl

theorem settled_invariant : DisplayInvariant State.Settled where
  same h e i := shown_of_display e i ▸ h i
  define i x h := setHead_some_settled h i x
  replace i x h := headReplaced_settled h i x
  redefined i h := headRedefined_settled h i
  leaveRound _ h := settled_linkBeside h rfl rfl rfl
  abandon i h := abandon_settled h i
  start c hi h := start_settled h hi c
  complete i h := completeComp_settled h i
  round h := frameRound_settled h
  period _ h := settled_linkBeside h rfl rfl rfl
  timeBase _ h := settled_linkBeside h rfl rfl rfl
  phase x out hf h := phase_settled h hf x out
  endFrame e hf h := endFrame_settled h hf e
  second h := linkSecond_settled h
  brightness p h := putBrightness_settled h p
  asserted {s} h := lreqSeen_settled (s := s.setLreq true) (settled_linkBeside h rfl rfl rfl)
  released {s} h := lreqGone_settled (s := s.setLreq false) (settled_linkBeside h rfl rfl rfl)
  activity h := seeActivity_settled h
  granted h := lgntSeen_settled h
  window h := windowExpires_settled h
  take h := takeLinkRequest_settled h
  give h := giveLinkRequest_settled h
  restart {s} _ := restart_settled s

/-- Compositions are sound, and outside reset no swap is left undone (R20, R159). -/
def State.SettledUnlessReset (s : State) : Prop := s.CompositionsSound ∧ s.SwapsDone

theorem settledUnlessReset_running {s : State} (h : s.Settled) : s.SettledUnlessReset := by
  obtain ⟨hcomposes, hswapped⟩ := (settled_iff s).1 h
  exact ⟨hcomposes, fun _ => hswapped⟩

/-- The hold of a reset keeps the compositions, and speaks of no swap (R20). -/
theorem hold_settledUnlessReset {s : State} (h : s.SettledUnlessReset) : s.hold.clearFeedCounters.SettledUnlessReset :=
  ⟨h.1, nofun⟩

/-- At the end of a hard reset no composition is in flight and every back is IDLE (R163). -/
theorem endReset_settled (s : State) (straps : Straps) : (s.endReset straps).Settled := fun i =>
  Shown.settled_of_idle (congrArg Option.isSome (Bank8.get_fill _ i)) (congrArg Buffers.backState (Bank8.get_fill _ i))

theorem exec_settledUnlessReset (c : Instr) (s t : State) (h : s.SettledUnlessReset) (e : exec c s = .next t) :
    t.SettledUnlessReset := by
  cases hr : s.inReset with
  | true =>
    rcases exec_inReset hr e with rfl | rfl | ⟨straps, rfl⟩ | ⟨level, rfl⟩
    · exact h
    · exact hold_settledUnlessReset h
    · exact settledUnlessReset_running (endReset_settled s straps)
    · exact ⟨h.1, fun hrun => absurd (hr.symm.trans hrun) (by decide)⟩
  | false =>
    by_cases hhold : c = .hardReset
    · subst hhold
      cases e
      exact hold_settledUnlessReset h
    · exact settledUnlessReset_running (settled_invariant.exec hr hhold ((settled_iff s).2 ⟨h.1, h.2 hr⟩) e)

/-- Settles O57: each operation on heads, compositions, buffers and the link settles the head indices that it acts on, and the
other operations leave what the two properties speak of. -/
theorem swapsAreNeverLeft : Obligations.SwapsAreNeverLeft := fun _ _ h e =>
  step_keeps (P := State.SettledUnlessReset) (fun _ _ hs => hs) exec_settledUnlessReset h e

end Sys2Proof.Machine
end

section
/-! PROOFS. The Panel Link's operations, each by what it leaves: the thresholds raised, a head index after a second event and after the
end of a head frame, and the link lost (R169, R170, R174 to R179). -/

namespace Sys2Proof.Machine

/-! ### The thresholds (R176) -/

theorem raiseFrom_length (l : List Nat) : ∀ floor, (raiseFrom floor l).length = l.length := by
  induction l with
  | nil => exact fun _ => rfl
  | cons v l ih => exact fun floor => congrArg Nat.succ (ih _)

theorem le_of_mem_raiseFrom {x : Nat} (l : List Nat) : ∀ {floor}, x ∈ raiseFrom floor l → floor ≤ x := by
  induction l with
  | nil => exact fun h => absurd h List.not_mem_nil
  | cons v l ih =>
    intro floor h
    rcases List.mem_cons.1 h with rfl | h
    · exact Nat.le_max_left _ _
    · exact (Nat.le_max_left _ _).trans (ih h)

theorem raiseFrom_pairwise (l : List Nat) : ∀ floor, (raiseFrom floor l).Pairwise (fun a b => a ≤ b) := by
  induction l with
  | nil => exact fun _ => List.Pairwise.nil
  | cons v l ih => exact fun floor => List.pairwise_cons.2 ⟨fun _ h => le_of_mem_raiseFrom l h, ih _⟩

theorem putBrightness_malformed (s : State) {p : List Byte} (h : p.length ≠ 15) : s.putBrightness p = (s, .malformed) :=
  if_pos h

/-- The table is replaced whole by the values carried, each raised to the one before it. -/
theorem putBrightness_formed (s : State) {p : List Byte} (h : p.length = 15) : s.putBrightness p =
    ({ s with link := { s.link with thresholds := raiseFrom 0 (p.map BitVec.toNat) } },
      doneOr (decide (raiseFrom 0 (p.map BitVec.toNat) ≠ p.map BitVec.toNat))) := if_neg (not_not_intro h)

/-! ### A head index at a second event (R170, R175) -/

/-- A head index after the brightness step (R175), its probe-due mark not yet set. -/
def LinkHead.stepped (t : List Nat) (hysteresis : Nat) (h : Head) (l : LinkHead) : LinkHead :=
  match h.brightness, l.ambient with
  | .auto, some a => { l with autoLevel := stepLevel t hysteresis l.autoLevel a }
  | _, _ => l

section OnSecond

variable (t : List Nat) (hysteresis : Nat) {h : Head} {l : LinkHead}

theorem stepped_auto {a : Nat} (hauto : h.brightness = .auto) (ha : l.ambient = some a) :
    l.stepped t hysteresis h = { l with autoLevel := stepLevel t hysteresis l.autoLevel a } := by
  unfold LinkHead.stepped
  rw [hauto, ha]

theorem stepped_kept (hnot : h.brightness ≠ .auto ∨ l.ambient = none) : l.stepped t hysteresis h = l := by
  unfold LinkHead.stepped
  split
  · next hauto ha =>
    rcases hnot with hn | hn
    · exact absurd hauto hn
    · cases ha.symm.trans hn
  · rfl

variable (h l)

theorem stepped_frame : l.stepped t hysteresis h = { l with autoLevel := (l.stepped t hysteresis h).autoLevel } := by
  unfold LinkHead.stepped
  split <;> rfl

/-- The level steps, and a head that is ABSENT becomes due for a probe. -/
theorem onSecond_eq : l.onSecond t hysteresis h =
    { l with
      autoLevel := (l.stepped t hysteresis h).autoLevel
      probeDue := if l.state = .absent then true else l.probeDue } := by
  have e : l.onSecond t hysteresis h = if (l.stepped t hysteresis h).state = .absent then
      { l.stepped t hysteresis h with probeDue := true } else l.stepped t hysteresis h := rfl
  rw [e, stepped_frame]
  dsimp only
  split <;> rfl

end OnSecond

theorem stepLevel_le {level : Nat} (t : List Nat) (hysteresis ambient : Nat) (h : level ≤ 15) :
    stepLevel t hysteresis level ambient ≤ 15 := by
  unfold stepLevel
  split
  · omega
  · split <;> omega

/-- A head index after the second event, by whether its head is DEFINED. -/
theorem linkSecond_defined {s : State} {i : HeadIx} {h : Head} (hi : s.head i = some h) : s.linkSecond.link.heads.get i =
    (s.link.heads.get i).onSecond s.link.thresholds s.mgmt.settings.hysteresis h := by
  unfold State.linkSecond
  rw [Bank8.get_mapIx, hi]

theorem linkSecond_undefined {s : State} {i : HeadIx} (hi : s.head i = none) :
    s.linkSecond.link.heads.get i = s.link.heads.get i := by
  unfold State.linkSecond
  rw [Bank8.get_mapIx, hi]

/-! ### The link lost, and the end of a head frame (R168, R172, R177, R179) -/

/-- The swap rule at every head leaves the link as it was given up. -/
theorem loseLink_link (s : State) (o : Ownership) :
    (s.loseLink o).link = { s.link with owner := o, giveWaiting := false, round := none, plo := [] } :=
  (forHeads_local swapIfReady_local _).1.link

theorem State.LinkOnly.straps {s t : State} (h : s.LinkOnly t) : t.straps = s.straps := (congrArg State.straps h).trans rfl

theorem ownsLink_iff (s : State) : s.ownsLink = true ↔ s.link.owner = .owning ∨ s.link.owner = .releasing := by
  unfold State.ownsLink
  cases s.link.owner <;> simp

theorem afterFrame_releasing {s : State} (h : s.link.owner = .releasing) : s.afterFrame = s.loseLink .granted := if_pos h

theorem afterFrame_giving {s : State} (h : s.link.owner ≠ .releasing) (hgive : s.link.giveWaiting = true) :
    s.afterFrame = s.loseLink .idle := (if_neg h).trans (if_pos hgive)

theorem afterFrame_keeping {s : State} (h : s.link.owner ≠ .releasing) (hgive : s.link.giveWaiting = false) :
    s.afterFrame = s.continueRound := (if_neg h).trans (if_neg (hgive ▸ Bool.false_ne_true))

/-- The link at the end of a head frame, before the ownership or the round goes on (R168, R169). -/
def Link.frameEnded (k : Link) (f : HeadFrame) (e : FrameEnd) : Link :=
  { k with
    sending := none
    heads := k.heads.set f.head (if f.void then k.heads.get f.head else (k.heads.get f.head).after e) }

/-- The swap rule for buffers to which no head frame is in transmission (R159). -/
def Buffers.swappedIfReady (b : Buffers) (sendable : Bool) : Buffers :=
  if b.backState = .complete ∧ (b.frontState = .sent ∨ sendable = false) then b.swapped else b

/-- The end of a head frame, before the ownership or the round goes on (R159, R160, R168, R169, R180). -/
def State.frameEnded (s : State) (f : HeadFrame) (e : FrameEnd) : State :=
  { s with
    link := s.link.frameEnded f e
    counters := (s.bumpOpt e.counter).counters
    buffers := s.buffers.set f.head (((s.buffers.get f.head).afterFrame f.clearFront).swappedIfReady
      (({ s with link := s.link.frameEnded f e } : State).sendable f.head)) }

theorem endFrame_eq (s : State) (f : HeadFrame) (e : FrameEnd) : s.endFrame f e = (s.frameEnded f e).afterFrame :=
  endFrame_spec s f e _ _ rfl rfl

/-- A composition that completes leaves the link. -/
theorem completeComp_link (s : State) (i : HeadIx) : (s.completeComp i).link = s.link := by
  unfold State.completeComp
  rw [(swapIfReady_frame _ i).1]
  rfl

/-- The next head frame of a round changes nothing of the ownership. -/
theorem nextOfRound_ownership (l : List HeadIx) (s : State) : (s.nextOfRound l).link.owner = s.link.owner ∧
    (s.nextOfRound l).link.giveWaiting = s.link.giveWaiting := by
  induction l with
  | nil => exact ⟨rfl, rfl⟩
  | cons i l ih =>
    unfold State.nextOfRound
    split
    · rw [beginFrame_spec s i _ l _ rfl]
      exact ⟨rfl, rfl⟩
    · exact ih

end Sys2Proof.Machine
end

section
/-! PROOFS. Every step keeps the ownership state one of the role's, sends no head frame without the link, and keeps the head states
and the thresholds in their ranges (R169, R170, R174, R177 to R179). -/

namespace Sys2Proof.Machine

/-! ### A head index in its ranges (R169, R170, R174) -/

theorem initial_sound : LinkHead.initial.Sound := by decide

theorem LinkHead.Sound.begun {l : LinkHead} (h : l.Sound) (n : Nat) :
    ({ l with frameNumber := (n + 1) % 16, probeDue := false } : LinkHead).Sound := by
  obtain ⟨hmisses, hlevel, _, _, habsent⟩ := h
  exact ⟨hmisses, hlevel, Nat.le_of_lt_succ (Nat.mod_lt _ (by decide)), nofun, habsent⟩

theorem LinkHead.Sound.redefined {l : LinkHead} (h : l.Sound) : l.redefined.Sound := by
  obtain ⟨_, hlevel, _, _, _⟩ := h
  exact ⟨Nat.zero_le _, hlevel, Nat.zero_le _, nofun, nofun⟩

/-- A head that is not ABSENT has its probe-due mark clear, and only the third miss makes it ABSENT. -/
theorem LinkHead.Sound.miss {l : LinkHead} (h : l.Sound) : l.miss.Sound := by
  obtain ⟨hmisses, hlevel, hnumber, hprobe, habsent⟩ := h
  have unmarked (hne : l.state ≠ .absent) : ¬ l.probeDue = true := fun hp => hne (hprobe hp)
  have silenced (hne : l.state ≠ .absent) : ({ l with state := .silent, misses := 1 } : LinkHead).Sound :=
    ⟨(by decide : 1 ≤ 3), hlevel, hnumber, fun hp => absurd hp (unmarked hne), nofun⟩
  unfold LinkHead.miss
  split
  case h_1 | h_2 | h_3 =>
    next hstate => exact silenced (hstate ▸ nofun)
  case h_4 =>
    next hstate =>
      split
      · exact ⟨Nat.le_refl 3, hlevel, hnumber, fun _ => rfl, fun _ => rfl⟩
      · refine ⟨?_, hlevel, hnumber, hprobe, fun ha => ?_⟩
        · dsimp only
          omega
        · cases hstate.symm.trans ha
  case h_5 => exact ⟨Nat.le_refl 3, hlevel, hnumber, hprobe, fun _ => rfl⟩

theorem LinkHead.Sound.after {l : LinkHead} (h : l.Sound) (e : FrameEnd) : (l.after e).Sound := by
  obtain ⟨_, hlevel, hnumber, _, _⟩ := id h
  cases e
  case ack | nak => exact ⟨Nat.zero_le _, hlevel, hnumber, nofun, nofun⟩
  case timeout | holdAbort => exact h.miss

theorem LinkHead.Sound.onSecond {l : LinkHead} (h : l.Sound) (t : List Nat) (hysteresis : Nat) (x : Head) :
    (l.onSecond t hysteresis x).Sound := by
  obtain ⟨hmisses, hlevel, hnumber, hprobe, habsent⟩ := h
  have hstepped : (l.stepped t hysteresis x).autoLevel ≤ 15 := by
    unfold LinkHead.stepped
    split
    · exact stepLevel_le t hysteresis _ hlevel
    · exact hlevel
  rw [onSecond_eq]
  refine ⟨hmisses, hstepped, hnumber, fun hp => ?_, habsent⟩
  dsimp only at hp ⊢
  split at hp
  · assumption
  · exact hprobe hp

/-! ### The head states and the thresholds -/

theorem linkSound_of_eq {s t : State} (hheads : t.link.heads = s.link.heads) (hthresholds : t.link.thresholds = s.link.thresholds)
    (h : s.LinkSound) : t.LinkSound := by
  unfold State.LinkSound
  rw [hheads, hthresholds]
  exact h

/-- What an index holds replaced by what is in range. -/
theorem setLinkHead_linkSound {s : State} (h : s.LinkSound) (i : HeadIx) {l : LinkHead} (hl : l.Sound) :
    (s.setLinkHead i l).LinkSound := by
  refine ⟨fun j => ?_, h.2⟩
  show ((s.link.heads.set i l).get j).Sound
  rw [Bank8.get_set]
  split
  · exact hl
  · exact h.1 j

section LinkSound

variable {s : State} (h : s.LinkSound)
include h

theorem loseLink_linkSound (o : Ownership) : (s.loseLink o).LinkSound := by
  refine linkSound_of_eq ?_ ?_ h <;> rw [loseLink_link]

theorem beginFrame_linkSound (i : HeadIx) (x : Head) (rest : List HeadIx) :
    (({ s with link := { s.link with round := some rest } } : State).beginFrame i x).LinkSound := by
  rw [beginFrame_spec s i x rest _ rfl]
  exact setLinkHead_linkSound h i ((h.1 i).begun _)

theorem nextOfRound_linkSound (l : List HeadIx) : (s.nextOfRound l).LinkSound := by
  induction l with
  | nil => exact h
  | cons i l ih =>
    unfold State.nextOfRound
    split
    · exact beginFrame_linkSound h i _ l
    · exact ih

theorem frameRound_linkSound : s.frameRound.LinkSound := by
  have hended : s.endRound.LinkSound := by
    rw [endRound_spec]
    exact h
  unfold State.frameRound State.beginRound
  dsimp only
  split
  · split
    · exact hended
    · exact nextOfRound_linkSound hended _
  · exact h

theorem afterFrame_linkSound : s.afterFrame.LinkSound := by
  unfold State.afterFrame State.continueRound
  split
  · exact loseLink_linkSound h _
  · split
    · exact loseLink_linkSound h _
    · split
      · exact nextOfRound_linkSound h _
      · exact h

theorem endFrame_linkSound (f : HeadFrame) (e : FrameEnd) : (s.endFrame f e).LinkSound := by
  have hanswered : (if f.void then s.link.heads.get f.head else (s.link.heads.get f.head).after e).Sound := by
    split
    · exact h.1 f.head
    · exact (h.1 f.head).after e
  rw [endFrame_eq]
  exact afterFrame_linkSound (setLinkHead_linkSound h f.head hanswered)

theorem headRedefined_linkSound (i : HeadIx) : (s.headRedefined i).LinkSound :=
  setLinkHead_linkSound h i (h.1 i).redefined

theorem linkSecond_linkSound : s.linkSecond.LinkSound := by
  refine ⟨fun i => ?_, h.2⟩
  cases hi : s.head i with
  | none => exact linkSecond_undefined hi ▸ h.1 i
  | some x => exact linkSecond_defined hi ▸ (h.1 i).onSecond _ _ x

theorem putBrightness_linkSound (p : List Byte) : (s.putBrightness p).1.LinkSound := by
  by_cases hp : p.length = 15
  · rw [putBrightness_formed s hp]
    exact ⟨h.1, (raiseFrom_length _ 0).trans ((List.length_map _).trans hp), raiseFrom_pairwise _ 0⟩
  · rw [putBrightness_malformed s hp]
    exact h

theorem lreqSeen_linkSound : s.lreqSeen.LinkSound := by
  unfold State.lreqSeen
  split
  · split
    · exact h
    · exact loseLink_linkSound h _
  · exact h

theorem lreqGone_linkSound : s.lreqGone.LinkSound := by
  unfold State.lreqGone
  split
  · split <;> exact h
  · exact h

theorem seeActivity_linkSound : s.seeActivity.LinkSound := by
  unfold State.seeActivity
  split <;> exact h

theorem lgntSeen_linkSound : s.lgntSeen.LinkSound := by
  unfold State.lgntSeen
  split <;> exact h

theorem windowExpires_linkSound : s.windowExpires.LinkSound := by
  unfold State.windowExpires
  split
  · split <;> exact h
  · exact h

theorem takeLinkRequest_linkSound : s.takeLinkRequest.1.LinkSound := by
  unfold State.takeLinkRequest
  split
  · exact h
  · split <;> exact h

theorem giveLinkRequest_linkSound : s.giveLinkRequest.1.LinkSound := by
  unfold State.giveLinkRequest
  split
  · exact h
  · split
    · split
      · exact h
      · dsimp only
        exact loseLink_linkSound h _
    all_goals exact h

end LinkSound

/-- A Restart and a hard reset leave the values of R181. -/
theorem linkSound_initial {s : State} (hheads : s.link.heads = Bank8.fill .initial)
    (hthresholds : s.link.thresholds = defaultThresholds) : s.LinkSound := by
  unfold State.LinkSound
  rw [hheads, hthresholds]
  refine ⟨fun i => ?_, by decide, by decide⟩
  rw [Bank8.get_fill]
  exact initial_sound

theorem linkSound_invariant : DisplayInvariant State.LinkSound where
  same h e := linkSound_of_eq (congrArg (fun d => d.link.heads) e) (congrArg (fun d => d.link.thresholds) e) h
  define _ _ h := h
  replace _ _ h := h
  redefined i h := headRedefined_linkSound h i
  leaveRound _ h := h
  abandon {s} i h := linkSound_of_eq (by rw [(abandon_at s i).1.link]) (by rw [(abandon_at s i).1.link]) h
  start _ _ h := h
  complete {s} i h := linkSound_of_eq (by rw [completeComp_link]) (by rw [completeComp_link]) h
  round h := frameRound_linkSound h
  period _ h := h
  timeBase _ h := h
  phase _ _ _ h := h
  endFrame e _ h := endFrame_linkSound h _ e
  second h := linkSecond_linkSound h
  brightness p h := putBrightness_linkSound h p
  asserted {s} h := lreqSeen_linkSound (s := s.setLreq true) h
  released {s} h := lreqGone_linkSound (s := s.setLreq false) h
  activity h := seeActivity_linkSound h
  granted h := lgntSeen_linkSound h
  window h := windowExpires_linkSound h
  take h := takeLinkRequest_linkSound h
  give h := giveLinkRequest_linkSound h
  restart _ := linkSound_initial rfl rfl

/-! ### The ownership state (R177 to R179) -/

theorem primary_of_releasing {r : Role} (h : roleOwns r .releasing = true) : r = .primary := by
  cases r
  · rfl
  · cases h

theorem roleOwns_owning (r : Role) : roleOwns r .owning = true := by cases r <;> rfl

theorem ownsLink_congr {s t : State} (h : t.link.owner = s.link.owner) : t.ownsLink = s.ownsLink := by
  unfold State.ownsLink
  rw [h]

/-- The ownership stays, and a head frame begins only at a part that owns the link. -/
theorem ownershipSound_of_owner {s t : State} (h : s.OwnershipSound) (hstraps : t.straps = s.straps)
    (howner : t.link.owner = s.link.owner) (hgive : t.link.giveWaiting = s.link.giveWaiting)
    (hsending : t.link.sending.isSome = true → s.ownsLink = true) : t.OwnershipSound := by
  obtain ⟨hrole, hwaits, _⟩ := h
  refine ⟨?_, ?_, fun hs => ?_⟩
  · rw [hstraps, howner]
    exact hrole
  · rw [hstraps, hgive]
    exact hwaits
  · rw [ownsLink_congr howner]
    exact hsending hs

/-- Nothing but ownership, role, waiting Give Link and head frame in transmission matters. -/
theorem ownershipSound_of_eq {s t : State} (hstraps : t.straps = s.straps) (hlink : t.link = s.link)
    (h : s.OwnershipSound) : t.OwnershipSound :=
  ownershipSound_of_owner h hstraps (by rw [hlink]) (by rw [hlink]) (hlink ▸ h.2.2)

/-- The link is lost with no head frame in transmission. -/
theorem loseLink_ownershipSound {s : State} {o : Ownership} (hrole : roleOwns s.straps.role o = true)
    (hnone : s.link.sending = none) : (s.loseLink o).OwnershipSound := by
  unfold State.OwnershipSound
  rw [loseLink_link, (loseLink_linkOnly s o).straps, hnone]
  exact ⟨hrole, nofun, nofun⟩

theorem takeLink_ownershipSound (s : State) : s.takeLink.OwnershipSound := ⟨roleOwns_owning _, nofun, fun _ => rfl⟩

section OwnershipSound

variable {s : State} (h : s.OwnershipSound)
include h

/-- A head frame that goes on, or ends, is one of a part that owns the link. -/
theorem owns_of_sending {f : HeadFrame} (hf : s.link.sending = some f) : s.ownsLink = true := h.2.2 (hf ▸ rfl)

theorem nextOfRound_ownershipSound (howns : s.ownsLink = true) (l : List HeadIx) : (s.nextOfRound l).OwnershipSound := by
  obtain ⟨howner, hgive⟩ := nextOfRound_ownership l s
  exact ownershipSound_of_owner h (nextOfRound_linkOnly l s).straps howner hgive fun _ => howns

theorem frameRound_ownershipSound : s.frameRound.OwnershipSound := by
  have hended : s.endRound.OwnershipSound := by
    rw [endRound_spec]
    exact h
  unfold State.frameRound
  split
  · next hruns =>
    have howns : s.endRound.ownsLink = true := by
      have howner := (Bool.and_eq_true _ _).mp hruns
      rw [endRound_spec, ownsLink_iff]
      exact Or.inl (of_decide_eq_true howner.1)
    unfold State.beginRound
    dsimp only
    split
    · exact hended
    · exact nextOfRound_ownershipSound hended howns _
  · exact h

theorem afterFrame_ownershipSound (hnone : s.link.sending = none) (howns : s.ownsLink = true) :
    s.afterFrame.OwnershipSound := by
  obtain ⟨hrole, hwaits, _⟩ := id h
  by_cases hreleasing : s.link.owner = .releasing
  · rw [afterFrame_releasing hreleasing]
    refine loseLink_ownershipSound ?_ hnone
    rw [hreleasing] at hrole
    rw [primary_of_releasing hrole]
    rfl
  · cases hgive : s.link.giveWaiting with
    | true =>
      rw [afterFrame_giving hreleasing hgive]
      refine loseLink_ownershipSound ?_ hnone
      rw [hwaits hgive]
      rfl
    | false =>
      rw [afterFrame_keeping hreleasing hgive]
      unfold State.continueRound
      split
      · exact nextOfRound_ownershipSound h howns _
      · exact h

theorem endFrame_ownershipSound {f : HeadFrame} (hf : s.link.sending = some f) (e : FrameEnd) :
    (s.endFrame f e).OwnershipSound := by
  have hended : (s.frameEnded f e).OwnershipSound := ownershipSound_of_owner h rfl rfl rfl nofun
  have howns : s.ownsLink = true := owns_of_sending h hf
  rw [endFrame_eq]
  exact afterFrame_ownershipSound hended rfl howns

/-- LREQ asserted at a Primary: RELEASING while a head frame is in transmission, and GRANTED otherwise (R177). -/
theorem lreqSeen_ownershipSound : s.lreqSeen.OwnershipSound := by
  unfold State.lreqSeen
  split
  · next hprimary =>
    split
    · refine ⟨?_, h.2.1, fun _ => rfl⟩
      dsimp only
      rw [hprimary.1]
      rfl
    · next hnone =>
      refine loseLink_ownershipSound ?_ hnone
      rw [hprimary.1]
      rfl
  · exact h

theorem lreqGone_ownershipSound : s.lreqGone.OwnershipSound := by
  unfold State.lreqGone
  split
  · split
    · exact ⟨roleOwns_owning _, h.2.1, fun _ => rfl⟩
    · exact takeLink_ownershipSound s
    all_goals exact h
  · exact h

theorem seeActivity_ownershipSound : s.seeActivity.OwnershipSound := by
  unfold State.seeActivity
  split <;> exact h

theorem lgntSeen_ownershipSound : s.lgntSeen.OwnershipSound := by
  unfold State.lgntSeen
  split
  · exact takeLink_ownershipSound s
  · exact h

theorem windowExpires_ownershipSound : s.windowExpires.OwnershipSound := by
  unfold State.windowExpires
  split
  · split
    · exact h
    · exact takeLink_ownershipSound s
  · exact h

theorem takeLinkRequest_ownershipSound : s.takeLinkRequest.1.OwnershipSound := by
  unfold State.takeLinkRequest
  split
  · exact h
  · next hstandby =>
    split
    · next hidle =>
      have howns : ¬ s.ownsLink = true := by
        rw [ownsLink_iff, hidle]
        decide
      refine ⟨?_, h.2.1, fun hs => absurd (h.2.2 hs) howns⟩
      dsimp only
      rw [hstandby]
      rfl
    all_goals exact h

theorem giveLinkRequest_ownershipSound : s.giveLinkRequest.1.OwnershipSound := by
  unfold State.giveLinkRequest
  split
  · exact h
  · next hstandby =>
    have hidle : roleOwns s.straps.role .idle = true := by
      rw [hstandby]
      rfl
    split
    · split
      · exact ⟨h.1, fun _ => hstandby, h.2.2⟩
      · next hnone =>
        dsimp only
        exact loseLink_ownershipSound hidle hnone
    · next hwaiting =>
      have howns : ¬ s.ownsLink = true := by
        rw [ownsLink_iff, hwaiting]
        decide
      exact ⟨hidle, h.2.1, fun hs => absurd (h.2.2 hs) howns⟩
    all_goals exact h

/-- A head frame in transmission stays in transmission, however it is marked. -/
theorem mapSending_ownershipSound (g : HeadFrame → HeadFrame) :
    ({ s with link := { s.link with sending := s.link.sending.map g } } : State).OwnershipSound :=
  ownershipSound_of_owner h rfl rfl rfl fun hs => h.2.2 (Option.isSome_map.symm.trans hs)

end OwnershipSound

theorem ownershipSound_invariant : DisplayInvariant State.OwnershipSound where
  same h e := ownershipSound_of_eq (congrArg Display.straps e) (congrArg Display.link e) h
  define _ _ h := h
  replace i _ h := mapSending_ownershipSound h (HeadFrame.clearedFor i)
  redefined i h := mapSending_ownershipSound h (HeadFrame.voidFor i)
  leaveRound _ h := h
  abandon {s} i h := ownershipSound_of_eq (congrArg Stores.straps (abandon_stores s i)) (abandon_at s i).1.link h
  start _ _ h := h
  complete {s} i h := ownershipSound_of_eq (congrArg Stores.straps (completeComp_stores s i)) (completeComp_link s i) h
  round h := frameRound_ownershipSound h
  period _ h := h
  timeBase _ h := h
  phase _ _ hf h := ownershipSound_of_owner h rfl rfl rfl fun _ => owns_of_sending h hf
  endFrame e hf h := endFrame_ownershipSound h hf e
  second h := h
  brightness {s} p h := by
    unfold State.putBrightness
    split <;> exact h
  asserted {s} h := lreqSeen_ownershipSound (s := s.setLreq true) h
  released {s} h := lreqGone_ownershipSound (s := s.setLreq false) h
  activity h := seeActivity_ownershipSound h
  granted h := lgntSeen_ownershipSound h
  window h := windowExpires_ownershipSound h
  take h := takeLinkRequest_ownershipSound h
  give h := giveLinkRequest_ownershipSound h
  restart h := mapSending_ownershipSound h _

/-! ### Every step -/

/-- A hard reset cuts a head frame off, and its end sets the ownership state by the role (R181, R193). -/
theorem hold_ownershipSound {s : State} (h : s.OwnershipSound) : s.hold.clearFeedCounters.OwnershipSound :=
  ⟨h.1, h.2.1, nofun⟩

theorem endReset_ownershipSound (s : State) (straps : Straps) : (s.endReset straps).OwnershipSound := by
  refine ⟨?_, nofun, nofun⟩
  show roleOwns straps.role (Link.afterReset straps.role s.link.lreqIn).owner = true
  cases straps.role
  · cases s.link.lreqIn <;> rfl
  · rfl

/-- A property of the display side that every operation keeps, the resets among them, is kept by every command. -/
theorem DisplayInvariant.exec_keeps {P : State → Prop} (inv : DisplayInvariant P)
    (hhold : ∀ {s : State}, P s → P s.hold.clearFeedCounters) (hend : ∀ (s : State) (straps : Straps), P (s.endReset straps))
    (hlreq : ∀ {s : State} (level : Bool), P s → P (s.setLreq level)) (c : Instr) (s t : State) (h : P s)
    (e : Machine.exec c s = .next t) : P t := by
  cases hr : s.inReset with
  | true =>
    rcases exec_inReset hr e with rfl | rfl | ⟨straps, rfl⟩ | ⟨level, rfl⟩
    · exact h
    · exact hhold h
    · exact hend s straps
    · exact hlreq level h
  | false =>
    by_cases hc : c = .hardReset
    · subst hc
      cases e
      exact hhold h
    · exact inv.exec hr hc h e

/-- Settles O58: each operation on the link keeps the ownership state one of the role's and the head states in their ranges, and
the other operations leave the link. -/
theorem ownershipAndLinkStaySound : Obligations.OwnershipAndLinkStaySound := fun _ _ ⟨hown, hlink⟩ e =>
  ⟨step_keeps (P := State.OwnershipSound) (fun _ _ h => h)
      (ownershipSound_invariant.exec_keeps hold_ownershipSound endReset_ownershipSound fun _ h => h) hown e,
    step_keeps (P := State.LinkSound) (fun _ _ h => h)
      (linkSound_invariant.exec_keeps (fun h => h) (fun _ _ => linkSound_initial rfl rfl) fun _ h => h) hlink e⟩

end Sys2Proof.Machine
end

section
/-! PROOFS. The frame time base (R171; log 13), and a head frame in transmission: its header, its rows and EOF, and the hold waits
before its rows (R166 to R168). -/

namespace Sys2Proof.Machine

/-! ### The frame time base (R171) -/

section TimeBase

variable {s : State}

theorem frameTimer_running (h : s.link.timeBase ≠ .synced) : s.frameTimer = s.frameEvent := if_pos (decide_eq_true h)

theorem frameTimer_stopped (h : s.link.timeBase = .synced) : s.frameTimer = s :=
  if_neg fun hruns => absurd h (of_decide_eq_true hruns)

theorem fsyncEdge_internal (h : s.link.timeBase = .internal) : s.fsyncEdge = s := by
  unfold State.fsyncEdge
  rw [h]

theorem fsyncEdge_fsync (h : s.link.timeBase ≠ .internal) : s.fsyncEdge = (s.setTimeBase .synced).frameEvent := by
  unfold State.fsyncEdge
  split
  · next hinternal => exact absurd hinternal h
  all_goals rfl

theorem fsyncWatch_stopped (h : s.link.timeBase = .internal ∨ s.link.timeBase = .lost) : s.fsyncWatch = s := by
  unfold State.fsyncWatch
  rcases h with h | h <;> rw [h]

theorem fsyncWatch_acquiring (h : s.link.timeBase = .acquiring) : s.fsyncWatch = s.setTimeBase .lost := by
  unfold State.fsyncWatch
  rw [h]

theorem fsyncWatch_synced (h : s.link.timeBase = .synced) : s.fsyncWatch = (s.setTimeBase .lost).frameEvent := by
  unfold State.fsyncWatch
  rw [h]

end TimeBase

/-- Settles O39: the three events by the state of the frame time base. -/
theorem frameTimeBaseFollowsItsTable : Obligations.FrameTimeBaseFollowsItsTable := fun _ hrun =>
  ⟨fun h => leaves_of_live _ rfl hrun (frameTimer_running h), fun h => leaves_of_live _ rfl hrun (frameTimer_stopped h),
    fun h => ⟨leaves_of_live _ rfl hrun (fsyncEdge_internal h), leaves_of_live _ rfl hrun (fsyncWatch_stopped (.inl h))⟩,
    fun h => leaves_of_live _ rfl hrun (fsyncEdge_fsync h), fun h => leaves_of_live _ rfl hrun (fsyncWatch_acquiring h),
    fun h => leaves_of_live _ rfl hrun (fsyncWatch_synced h),
    fun h => leaves_of_live _ rfl hrun (fsyncWatch_stopped (.inr h))⟩

/-! ### A head frame in transmission (R166 to R168) -/

section Phase

variable {s : State} {x : HeadFrame} (hx : s.link.sending = some x)
include hx

theorem headerDone_header (hphase : x.phase = .header) (holdn : Bool) : s.headerDone holdn = s.testHold x 0 holdn := by
  unfold State.headerDone
  rw [hx]
  dsimp only
  rw [hphase]

/-- A row sent before the last: HOLDN is tested for the next. -/
theorem rowDone_next {y : Nat} (hphase : x.phase = .row y) (hmore : y + 1 < x.height) (holdn : Bool) :
    s.rowDone holdn = s.testHold x (y + 1) holdn := by
  unfold State.rowDone
  rw [hx]
  dsimp only
  rw [hphase]
  exact if_pos hmore

/-- The last row sent: EOF, and the answer is awaited with the Ack Timeout of that moment. -/
theorem rowDone_last {y : Nat} (hphase : x.phase = .row y) (hlast : x.height ≤ y + 1) (holdn : Bool) :
    s.rowDone holdn = (s.setSending (some { x with phase := .answer s.mgmt.settings.ackTimeout })).setPlo [.eof] := by
  unfold State.rowDone
  rw [hx]
  dsimp only
  rw [hphase]
  exact if_neg (Nat.not_lt.2 hlast)

theorem holdReleased_waiting {y : Nat} (hphase : x.phase = .holdWait y) : s.holdReleased = s.sendRow x y := by
  unfold State.holdReleased
  rw [hx]
  dsimp only
  rw [hphase]

theorem holdExpires_waiting {y : Nat} (hphase : x.phase = .holdWait y) : s.holdExpires = s.endFrame x .holdAbort := by
  unfold State.holdExpires
  rw [hx]
  dsimp only
  rw [hphase]

end Phase

/-- Settles O43: HEADER_SENT, ROW_SENT and HOLDN_RELEASE by the phase of the head frame in transmission. -/
theorem headFrameGoesOut : Obligations.HeadFrameGoesOut := fun s x hrun hx =>
  have header (holdn : Bool) (hphase : x.phase = .header) : Leaves (.headerSent holdn) s (s.testHold x 0 holdn) :=
    leaves_of_live (fun s => s.headerDone holdn) rfl hrun (headerDone_header hx hphase holdn)
  have next (holdn : Bool) {y : Nat} (hphase : x.phase = .row y) (hmore : y + 1 < x.height) :
      Leaves (.rowSent holdn) s (s.testHold x (y + 1) holdn) :=
    leaves_of_live (fun s => s.rowDone holdn) rfl hrun (rowDone_next hx hphase hmore holdn)
  ⟨fun hphase => ⟨header false hphase, header true hphase⟩,
    fun _ hphase hmore => ⟨next false hphase hmore, next true hphase hmore⟩,
    fun _ holdn hphase hlast => leaves_of_live (fun s => s.rowDone holdn) rfl hrun (rowDone_last hx hphase hlast holdn),
    fun _ hphase => leaves_of_live _ rfl hrun (holdReleased_waiting hx hphase)⟩

end Sys2Proof.Machine
end

section
/-! PROOFS. The Brightness Table (R176), and the Panel Link's share of a second event (R170, R175). -/

namespace Sys2Proof.Machine

/-! ### The values taken (R176) -/

/-- Each value but the first is raised to the one before it, as taken. -/
theorem raiseFrom_getD_succ (l : List Nat) : ∀ floor k, k + 1 < l.length →
    (raiseFrom floor l).getD (k + 1) 0 = max ((raiseFrom floor l).getD k 0) (l.getD (k + 1) 0) := by
  induction l with
  | nil => exact fun _ _ hk => absurd hk (Nat.not_lt_zero _)
  | cons v l ih =>
    intro floor k hk
    cases k with
    | zero =>
      cases l with
      | nil => exact absurd hk (Nat.lt_irrefl 1)
      | cons w l => rfl
    | succ k => exact ih _ k (Nat.lt_of_succ_lt_succ hk)

theorem raiseFrom_zero_head (l : List Nat) : (raiseFrom 0 l).getD 0 0 = l.getD 0 0 := by
  cases l with
  | nil => rfl
  | cons v l => exact Nat.zero_max v

theorem getD_map_toNat (p : List Byte) (k : Nat) : (p.map BitVec.toNat).getD k 0 = u8 p k := by
  unfold u8
  rw [List.getD_eq_getElem?_getD, List.getD_eq_getElem?_getD, List.getElem?_map]
  cases p[k]? <;> rfl

/-- A Brightness Table Put completes with the table it leaves. -/
theorem brightnessTablePut_completes {f : FeedFrame} {s : State} (h : s.TakesData f) (hlen : f.payload.length = 15) :
    Completes (.brightnessTablePut f) f .brightnessTablePut s
      { s with link := { s.link with thresholds := raiseFrom 0 (f.payload.map BitVec.toNat) } }
      (if raiseFrom 0 (f.payload.map BitVec.toNat) = f.payload.map BitVec.toNat then .done else .adjusted) := by
  have hop : BesidePort fun s : State =>
      { s with link := { s.link with thresholds := raiseFrom 0 (f.payload.map BitVec.toNat) } } :=
    BesidePort.of_comm fun _ _ _ => rfl
  refine hop.completes rfl rfl h ((putBrightness_formed s.arrived hlen).trans (congrArg (Prod.mk _) ?_))
  exact doneOr_eq_ite (by simp)

/-! ### A second event (R170, R175) -/

section Step

variable {t : List Nat} {hysteresis level ambient : Nat}

theorem stepLevel_up (hlevel : level < 15) (hreach : threshold t (level + 1) ≤ ambient) :
    stepLevel t hysteresis level ambient = level + 1 := if_pos ⟨hlevel, hreach⟩

theorem stepLevel_down (hlevel : 0 < level) (hup : level < 15 → ambient < threshold t (level + 1))
    (hbelow : ambient + hysteresis < threshold t level) : stepLevel t hysteresis level ambient = level - 1 :=
  (if_neg fun h => Nat.not_le.2 (hup h.1) h.2).trans (if_pos ⟨hlevel, hbelow⟩)

theorem stepLevel_hold (hup : level < 15 → ambient < threshold t (level + 1))
    (hdown : 0 < level → threshold t level ≤ ambient + hysteresis) : stepLevel t hysteresis level ambient = level :=
  (if_neg fun h => Nat.not_le.2 (hup h.1) h.2).trans (if_neg fun h => Nat.not_lt.2 (hdown h.1) h.2)

end Step

/-- Settles O46: the table taken value by value; at a second event the rows of R175 at a DEFINED head, and its probe-due mark. -/
theorem brightnessTableNeverDecreases : Obligations.BrightnessTableNeverDecreases := by
  refine ⟨fun f s htakes => ⟨fun hlen => ?malformed, fun hlen => ?formed⟩, fun s t ht => ?second⟩
  case malformed => exact dataFrame_refused rfl rfl htakes (putBrightness_malformed s.arrived hlen)
  case formed =>
    have hcount : (f.payload.map BitVec.toNat).length = 15 := (List.length_map _).trans hlen
    refine ⟨raiseFrom 0 (f.payload.map BitVec.toNat), (raiseFrom_length _ 0).trans hcount, ?_, fun k hk => ?_,
      brightnessTablePut_completes htakes hlen⟩
    · rw [raiseFrom_zero_head, getD_map_toNat]
    · rw [raiseFrom_getD_succ _ 0 k (by omega), getD_map_toNat]
  case second =>
    subst ht
    refine ⟨rfl, fun i hi => linkSecond_undefined hi, ?_⟩
    rintro i h l l' threshold hi rfl rfl hthreshold
    obtain rfl : threshold = Machine.threshold s.link.thresholds := funext hthreshold
    rw [linkSecond_defined hi, onSecond_eq]
    refine ⟨rfl, fun habsent => if_pos habsent, fun hpresent => if_neg hpresent, fun hnot => ?_, fun a hauto ha => ?_⟩
    · rw [stepped_kept _ _ hnot]
    · rw [stepped_auto _ _ hauto ha]
      exact ⟨stepLevel_up, stepLevel_down, stepLevel_hold⟩

end Sys2Proof.Machine
end

section
/-! PROOFS. The Panel Link changes hands: the link lost, at the end of a head frame too, LREQ and LGNT, the Grant Wait window, Take
Link and Give Link (R177 to R179, R159). -/

namespace Sys2Proof.Machine

/-! ### The link lost (R159, R177, R179) -/

theorem loseLink_driving {s : State} {o : Ownership} (ho : o = .granted ∨ o = .idle) : (s.loseLink o).driving = false := by
  have howns : (s.loseLink o).ownsLink = false := by
    unfold State.ownsLink
    rw [loseLink_link]
    rcases ho with rfl | rfl <;> rfl
  unfold State.driving
  rw [howns, Bool.and_false]

theorem State.LinkOnly.inReset {s t : State} (h : s.LinkOnly t) : t.inReset = s.inReset := (congrArg State.inReset h).trans rfl

/-- A Primary that is GRANTED asserts LGNT. -/
theorem loseLink_lgntOut {s : State} (hrun : s.inReset = false) (hprimary : s.straps.role = .primary) :
    (s.loseLink .granted).lgntOut = true := by
  have honly := loseLink_linkOnly s .granted
  unfold State.lgntOut
  rw [honly.inReset, honly.straps, loseLink_link, hrun, hprimary]
  rfl

/-! ### The end of a head frame (R177, R179) -/

theorem endFrame_releasing {s : State} (h : s.link.owner = .releasing) (x : HeadFrame) (e : FrameEnd) :
    s.endFrame x e = (s.frameEnded x e).loseLink .granted :=
  (endFrame_eq s x e).trans (afterFrame_releasing h)

theorem endFrame_giving {s : State} (h : s.link.owner ≠ .releasing) (hgive : s.link.giveWaiting = true) (x : HeadFrame)
    (e : FrameEnd) : s.endFrame x e = (s.frameEnded x e).loseLink .idle :=
  (endFrame_eq s x e).trans (afterFrame_giving h hgive)

/-- A part that is to give the link up at the end of its head frame does so. -/
theorem endFrame_losing {s : State} (h : s.link.owner = .releasing ∨ s.link.giveWaiting = true) (x : HeadFrame) (e : FrameEnd) :
    ∃ o, (o = .granted ∨ o = .idle) ∧ s.endFrame x e = (s.frameEnded x e).loseLink o := by
  by_cases hreleasing : s.link.owner = .releasing
  · exact ⟨.granted, .inl rfl, endFrame_releasing hreleasing x e⟩
  · exact ⟨.idle, .inr rfl, endFrame_giving hreleasing (h.resolve_left hreleasing) x e⟩

/-! ### LREQ at a Primary (R177) -/

theorem leaves_lreqAsserted {s u : State} (hrun : s.inReset = false) (hu : (s.setLreq true).lreqSeen = u) :
    Leaves .lreqAsserted s u :=
  (live_running (s := s.setLreq true) State.lreqSeen hrun).trans (by rw [hu])

theorem leaves_lreqReleased {s u : State} (hrun : s.inReset = false) (hu : (s.setLreq false).lreqGone = u) :
    Leaves .lreqReleased s u :=
  (live_running (s := s.setLreq false) State.lreqGone hrun).trans (by rw [hu])

section Primary

variable {s : State} (hprimary : s.straps.role = .primary)
include hprimary

theorem lreqSeen_free (howner : s.link.owner = .owning) (hnone : s.link.sending = none) :
    s.lreqSeen = s.loseLink .granted := by
  unfold State.lreqSeen
  rw [if_pos ⟨hprimary, howner⟩, hnone]

theorem lreqSeen_sending {x : HeadFrame} (howner : s.link.owner = .owning) (hx : s.link.sending = some x) :
    s.lreqSeen = { s with link := { s.link with owner := .releasing, round := none } } := by
  unfold State.lreqSeen
  rw [if_pos ⟨hprimary, howner⟩, hx]

theorem lreqGone_releasing (howner : s.link.owner = .releasing) :
    s.lreqGone = { s with link := { s.link with owner := .owning } } := by
  unfold State.lreqGone
  rw [if_pos hprimary, howner]

theorem lreqGone_granted (howner : s.link.owner = .granted) : s.lreqGone = s.takeLink := by
  unfold State.lreqGone
  rw [if_pos hprimary, howner]

end Primary

/-! ### A WAITING Standby (R178) -/

theorem windowExpires_active {s : State} (h : s.link.owner = .waiting) (hmark : s.link.windowMark = true) : s.windowExpires =
    { s with link := { s.link with windowMark := false, linkWait := min (s.link.linkWait + 1) 255 } } :=
  (if_pos h).trans (if_pos hmark)

theorem windowExpires_silent {s : State} (h : s.link.owner = .waiting) (hmark : s.link.windowMark = false) :
    s.windowExpires = s.takeLink.bump .forcedTakes :=
  (if_pos h).trans (if_neg (hmark ▸ Bool.false_ne_true))

/-! ### Take Link and Give Link (R178, R179) -/

theorem takeLinkRequest_primary {s : State} (h : s.straps.role = .primary) : s.takeLinkRequest = (s, .notNow) := by
  unfold State.takeLinkRequest
  rw [h]

theorem giveLinkRequest_primary {s : State} (h : s.straps.role = .primary) : s.giveLinkRequest = (s, .notNow) := by
  unfold State.giveLinkRequest
  rw [h]

section Standby

variable {s : State} (hstandby : s.straps.role = .standby)
include hstandby

theorem takeLinkRequest_idle (howner : s.link.owner = .idle) : s.takeLinkRequest =
    ({ s with link := { s.link with owner := .waiting, windowMark := false, linkWait := 0 } }, .done) := by
  unfold State.takeLinkRequest
  rw [hstandby, howner]

theorem takeLinkRequest_held (howner : s.link.owner = .waiting ∨ s.link.owner = .owning) :
    s.takeLinkRequest = (s, .done) := by
  unfold State.takeLinkRequest
  rw [hstandby]
  rcases howner with h | h <;> rw [h]

theorem giveLinkRequest_idle (howner : s.link.owner = .idle) : s.giveLinkRequest = (s, .notNow) := by
  unfold State.giveLinkRequest
  rw [hstandby, howner]

theorem giveLinkRequest_waiting (howner : s.link.owner = .waiting) : s.giveLinkRequest =
    ({ s with link := { s.link with owner := .idle, windowMark := false } }, .done) := by
  unfold State.giveLinkRequest
  rw [hstandby, howner]

theorem giveLinkRequest_free (howner : s.link.owner = .owning) (hnone : s.link.sending = none) :
    s.giveLinkRequest = (s.loseLink .idle, .done) := by
  unfold State.giveLinkRequest
  rw [hstandby, howner, hnone]

theorem giveLinkRequest_sending {x : HeadFrame} (howner : s.link.owner = .owning) (hx : s.link.sending = some x) :
    s.giveLinkRequest = ({ s with link := { s.link with giveWaiting := true, round := none } }, .done) := by
  unfold State.giveLinkRequest
  rw [hstandby, howner, hx]

end Standby

theorem swapIfReady_due {s : State} {i : HeadIx} (h : (s.shown i).SwapDue) :
    s.swapIfReady i = s.setBuffers i (s.buffers.get i).swapped := if_pos h

theorem swapIfReady_notDue {s : State} {i : HeadIx} (h : ¬ (s.shown i).SwapDue) : s.swapIfReady i = s := if_neg h

theorem besidePort_swapIfReady (i : HeadIx) : BesidePort fun s => s.swapIfReady i :=
  BesidePort.of_comm fun s f c => by
    by_cases h : (s.shown i).SwapDue
    · rw [swapIfReady_due h]
      exact swapIfReady_due (s := { s with feed := f, counters := c }) h
    · rw [swapIfReady_notDue h]
      exact swapIfReady_notDue (s := { s with feed := f, counters := c }) h

theorem besidePort_loseLink (o : Ownership) : BesidePort fun s => s.loseLink o :=
  (besidePort_forHeads besidePort_swapIfReady).comp
    (op := fun s => { s with link := { s.link with owner := o, giveWaiting := false, round := none, plo := [] } })
    (BesidePort.of_comm fun _ _ _ => rfl)

section Requests

variable {f : FeedFrame} {s : State} (htakes : s.TakesRequest f) (hp : f.payload = [])
  {op : State → State} {code : OutcomeCode} (hop : BesidePort op)
include htakes hp hop

/-- A request without operands, by what is done. -/
theorem bareRequest_answers {c : Instr} {k : Kind} {act : State → State × OutcomeCode} (hc : c.frame = some (k, f))
    (hk : k.isData = false) (hmanage : ∀ (t : State) (x : Header), t.manage x k = t.request x 0 act)
    (hact : act s.arrived = (op s.arrived, code)) : Answers c s (op s) (s.outcomeIf f k code) := by
  have hlen : (frameHeader k.code f).payload.length = 0 := congrArg List.length hp
  refine hop.answers hc hk htakes ?_
  rw [hmanage, request_formed _ hlen, hact]

theorem takeLink_answers (hact : s.arrived.takeLinkRequest = (op s.arrived, code)) :
    Answers (.takeLink f) s (op s) (s.outcomeIf f .takeLink code) :=
  bareRequest_answers htakes hp hop rfl rfl (fun _ _ => rfl) hact

theorem giveLink_answers (hact : s.arrived.giveLinkRequest = (op s.arrived, code)) :
    Answers (.giveLink f) s (op s) (s.outcomeIf f .giveLink code) :=
  bareRequest_answers htakes hp hop rfl rfl (fun _ _ => rfl) hact

end Requests

/-- Settles O45: the link lost, then each event and request by the ownership state. -/
theorem ownershipChangesHands : Obligations.OwnershipChangesHands := by
  refine ⟨fun s o ho hnone => ?lost, fun s t x e hx ht => ?ended, fun s hrun hprimary => ?lreq, fun s hrun hwaiting => ?waiting,
    fun s hrun hnot => ?other, fun f s htakes hp => ⟨fun hprimary => ?primary, fun hstandby => ?standby⟩⟩
  case lost =>
    obtain ⟨hlink, hframe, hbacks⟩ := loseLink_spec ho hnone
    exact ⟨hlink, hframe, loseLink_driving ho, fun hrun hprimary hgranted => hgranted ▸ loseLink_lgntOut hrun hprimary, hbacks⟩
  case ended =>
    subst ht
    refine ⟨fun hreleasing => ?_, fun hnot hgive => ?_, fun hlosing => ?_⟩
    · rw [endFrame_releasing hreleasing, loseLink_link]
      exact ⟨rfl, fun hrun hprimary => loseLink_lgntOut (s := s.frameEnded x e) hrun hprimary⟩
    · rw [endFrame_giving hnot hgive, loseLink_link]
    · obtain ⟨o, ho, hend⟩ := endFrame_losing hlosing x e
      obtain ⟨hlink, _, hbacks⟩ := loseLink_spec (s := s.frameEnded x e) ho rfl
      rw [hend, hlink]
      exact ⟨rfl, rfl, rfl, rfl, loseLink_driving ho, hbacks⟩
  case lreq =>
    exact ⟨fun howner hnone => leaves_lreqAsserted hrun (lreqSeen_free (s := s.setLreq true) hprimary howner hnone),
      fun x howner hx => leaves_lreqAsserted hrun (lreqSeen_sending (s := s.setLreq true) hprimary howner hx),
      fun howner => leaves_lreqReleased hrun (lreqGone_releasing (s := s.setLreq false) hprimary howner),
      fun howner => leaves_lreqReleased hrun (lreqGone_granted (s := s.setLreq false) hprimary howner)⟩
  case waiting =>
    exact ⟨leaves_of_live _ rfl hrun (if_pos hwaiting), leaves_of_live _ rfl hrun (if_pos hwaiting),
      fun hmark => leaves_of_live _ rfl hrun (windowExpires_active hwaiting hmark),
      fun hmark => leaves_of_live _ rfl hrun (windowExpires_silent hwaiting hmark)⟩
  case other =>
    exact ⟨leaves_of_live _ rfl hrun (if_neg hnot), leaves_of_live _ rfl hrun (if_neg hnot),
      leaves_of_live _ rfl hrun (if_neg hnot)⟩
  case primary =>
    exact ⟨takeLink_answers htakes hp besidePort_id (takeLinkRequest_primary (s := s.arrived) hprimary),
      giveLink_answers htakes hp besidePort_id (giveLinkRequest_primary (s := s.arrived) hprimary)⟩
  case standby =>
    refine ⟨fun howner => ⟨?takeIdle, ?giveIdle⟩, fun howner => ?takeHeld, fun howner => ?giveWaiting,
      fun howner hnone => ?giveFree, fun x howner hx => ?giveSending⟩
    case takeIdle =>
      exact takeLink_answers htakes hp (op := fun t => { t with link := { t.link with
        owner := .waiting, windowMark := false, linkWait := 0 } }) (BesidePort.of_comm fun _ _ _ => rfl)
        (takeLinkRequest_idle (s := s.arrived) hstandby howner)
    case giveIdle => exact giveLink_answers htakes hp besidePort_id (giveLinkRequest_idle (s := s.arrived) hstandby howner)
    case takeHeld => exact takeLink_answers htakes hp besidePort_id (takeLinkRequest_held (s := s.arrived) hstandby howner)
    case giveWaiting =>
      exact giveLink_answers htakes hp (op := fun t => { t with link := { t.link with owner := .idle, windowMark := false } })
        (BesidePort.of_comm fun _ _ _ => rfl) (giveLinkRequest_waiting (s := s.arrived) hstandby howner)
    case giveFree =>
      exact giveLink_answers htakes hp (op := fun t => t.loseLink .idle) (besidePort_loseLink .idle)
        (giveLinkRequest_free (s := s.arrived) hstandby howner hnone)
    case giveSending =>
      exact giveLink_answers htakes hp (op := fun t => { t with link := { t.link with giveWaiting := true, round := none } })
        (BesidePort.of_comm fun _ _ _ => rfl) (giveLinkRequest_sending (s := s.arrived) hstandby howner hx)

end Sys2Proof.Machine
end

section
/-! PROOFS. The end of a head frame and what follows it (R142, R159, R160, R166 to R169, R172, R180; log 35), and the answers of the
heads on the return pair (R165, R168, R202; log 40). -/

namespace Sys2Proof.Machine

/-! ### The head state table (R169) -/

section Miss

variable {l : LinkHead}

theorem miss_heard (h : l.state = .unknown ∨ l.state = .present ∨ l.state = .faulted) :
    l.miss = { l with state := .silent, misses := 1 } := by
  unfold LinkHead.miss
  rcases h with h | h | h <;> rw [h]

theorem miss_silent (h : l.state = .silent) : l.miss =
    if 3 ≤ l.misses + 1 then { l with state := .absent, misses := 3 } else { l with misses := l.misses + 1 } := by
  unfold LinkHead.miss
  rw [h]

theorem miss_absent (h : l.state = .absent) : l.miss = { l with misses := 3 } := by
  unfold LinkHead.miss
  rw [h]

variable (l)

/-- What a timeout or abandonment leaves of the head's state and miss count, row by row. -/
theorem miss_state_misses : l.miss.state = (match l.state with
      | .unknown | .present | .faulted => .silent
      | .silent => if 3 ≤ l.misses + 1 then .absent else .silent
      | .absent => .absent) ∧
    l.miss.misses = (match l.state with
      | .unknown | .present | .faulted => 1
      | .silent => if 3 ≤ l.misses + 1 then 3 else l.misses + 1
      | .absent => 3) := by
  cases hstate : l.state
  case unknown => exact miss_heard (.inl hstate) ▸ ⟨rfl, rfl⟩
  case present => exact miss_heard (.inr (.inl hstate)) ▸ ⟨rfl, rfl⟩
  case faulted => exact miss_heard (.inr (.inr hstate)) ▸ ⟨rfl, rfl⟩
  case silent =>
    rw [miss_silent hstate]
    dsimp only
    split
    · exact ⟨rfl, rfl⟩
    · exact ⟨hstate, rfl⟩
  case absent => exact miss_absent hstate ▸ ⟨hstate, rfl⟩

/-- Neither the ambient reading nor the fault code changes. -/
theorem miss_reading : l.miss.ambient = l.ambient ∧ l.miss.faultCode = l.faultCode := by
  unfold LinkHead.miss
  split
  case h_4 => split <;> exact ⟨rfl, rfl⟩
  all_goals exact ⟨rfl, rfl⟩

end Miss

/-! ### What follows the end of a head frame (R172) -/

/-- A counter that is counted or not. -/
theorem counter_bumpIf (s : State) (c : Ctr) (p : Prop) [Decidable p] : (if p then s.bump c else s).counter c =
    if p then min (s.counter c + 1) 65535 else s.counter c := by
  split
  · exact State.counter_bump_self s c
  · rfl

theorem counter_of_eq {s t : State} (h : t = { s with link := t.link, buffers := t.buffers }) (c : Ctr) :
    t.counter c = s.counter c := (congrArg (fun u : State => u.counter c) h).trans rfl

theorem loseLink_counter {s : State} {o : Ownership} (ho : o = .granted ∨ o = .idle) (hnone : s.link.sending = none)
    (c : Ctr) : (s.loseLink o).counter c = s.counter c := counter_of_eq (loseLink_spec ho hnone).2.1 c

theorem loseLink_heads (s : State) (o : Ownership) : (s.loseLink o).link.heads = s.link.heads := by rw [loseLink_link]

/-- Nothing of what a head's answers left changes, nor a counter but Frame Repeats. -/
theorem afterFrame_frame {s : State} (hnone : s.link.sending = none) (j : HeadIx) :
    (∃ n p, s.afterFrame.link.heads.get j = { s.link.heads.get j with frameNumber := n, probeDue := p }) ∧
    ∀ c, c ≠ .frameRepeats → s.afterFrame.counter c = s.counter c := by
  have hlost {o : Ownership} (ho : o = .granted ∨ o = .idle) :
      (∃ n p, (s.loseLink o).link.heads.get j = { s.link.heads.get j with frameNumber := n, probeDue := p }) ∧
      ∀ c, c ≠ .frameRepeats → (s.loseLink o).counter c = s.counter c :=
    ⟨⟨_, _, congrArg (fun b : Bank8 LinkHead => b.get j) (loseLink_heads s o)⟩, fun c _ => loseLink_counter ho hnone c⟩
  unfold State.afterFrame State.continueRound
  split
  · exact hlost (.inl rfl)
  · split
    · exact hlost (.inr rfl)
    · split
      · next r _ =>
        obtain ⟨hheads, _, hcounters⟩ := nextOfRound_frame r s j
        exact ⟨⟨_, _, hheads⟩, hcounters⟩
      · exact ⟨⟨_, _, rfl⟩, fun _ _ => rfl⟩

theorem continueRound_buffers (s : State) : s.continueRound.buffers = s.buffers := by
  unfold State.continueRound
  split
  · exact (nextOfRound_frame _ s 0).2.1
  · rfl

theorem continueRound_none {s : State} (h : s.link.round = none) : s.continueRound = s.setPlo [] := by
  unfold State.continueRound
  rw [h]

/-- Every head still to begin was dropped: the round is complete. -/
theorem continueRound_dropped {s : State} {r : List HeadIx} (h : s.link.round = some r) (hr : ∀ j ∈ r, s.head j = none) :
    s.continueRound = { s with link := { s.link with round := none, plo := [] } } := by
  unfold State.continueRound
  rw [h]
  dsimp only
  rw [← List.append_nil r, nextOfRound_dropped s r [] hr]
  rfl

/-- The next head still DEFINED is begun. -/
theorem continueRound_begins {s : State} {dropped rest : List HeadIx} {j : HeadIx} {h : Head}
    (hr : s.link.round = some (dropped ++ j :: rest)) (hdropped : ∀ i ∈ dropped, s.head i = none) (hj : s.head j = some h) :
    s.continueRound = { s with
      link := s.link.begun ((s.link.heads.get j).frameTo (s.heads.get j).blank j h) rest
      counters := (if (s.buffers.get j).frontState = .sent then s.bump .frameRepeats else s).counters } := by
  unfold State.continueRound
  rw [hr]
  dsimp only
  rw [nextOfRound_dropped s dropped _ hdropped]
  unfold State.nextOfRound
  rw [hj]
  exact beginFrame_spec s j h rest _ rfl

/-! ### The end of a head frame (R160, R168, R169, R180) -/

theorem endFrame_keeping {s : State} (howner : s.link.owner = .owning) (hgive : s.link.giveWaiting = false) (x : HeadFrame)
    (e : FrameEnd) : s.endFrame x e = (s.frameEnded x e).continueRound := by
  rw [endFrame_eq]
  refine afterFrame_keeping (fun h => ?_) hgive
  cases howner.symm.trans h

theorem frameEnded_head (s : State) (x : HeadFrame) (e : FrameEnd) : (s.frameEnded x e).link.heads.get x.head =
    if x.void then s.link.heads.get x.head else (s.link.heads.get x.head).after e := Bank8.get_set_self _ _ _

/-- What the table leaves of the head, but for the frame number and the probe-due mark of a head frame begun next. -/
theorem endFrame_head (s : State) (x : HeadFrame) (e : FrameEnd) : ∃ n p, (s.endFrame x e).link.heads.get x.head =
    { (if x.void then s.link.heads.get x.head else (s.link.heads.get x.head).after e) with
      frameNumber := n, probeDue := p } := by
  rw [endFrame_eq, ← frameEnded_head]
  exact (afterFrame_frame (s := s.frameEnded x e) rfl x.head).1

theorem endFrame_counter (s : State) (x : HeadFrame) (e : FrameEnd) {c : Ctr} (hc : c ≠ .frameRepeats) :
    (s.endFrame x e).counter c = (s.bumpOpt e.counter).counter c := by
  rw [endFrame_eq, (afterFrame_frame (s := s.frameEnded x e) rfl x.head).2 c hc]
  rfl

/-- No end of a head frame counts Frame Repeats. -/
theorem frameEnded_frameRepeats (s : State) (x : HeadFrame) (e : FrameEnd) :
    (s.frameEnded x e).counter .frameRepeats = s.counter .frameRepeats := by
  show (s.bumpOpt e.counter).counter .frameRepeats = _
  cases e
  case ack => rfl
  all_goals exact State.counter_bump_ne _ (by decide)

/-- At a part that goes on owning the link, a head is sendable unless it has become ABSENT (R159). -/
theorem frameEnded_sendable {s : State} (howner : s.link.owner = .owning) (x : HeadFrame) (e : FrameEnd) :
    ({ s with link := s.link.frameEnded x e } : State).sendable x.head =
      decide (((s.endFrame x e).link.heads.get x.head).state ≠ .absent) := by
  have howns : ({ s with link := s.link.frameEnded x e } : State).ownsLink = true := (ownsLink_iff _).2 (.inl howner)
  obtain ⟨n, p, hhead⟩ := endFrame_head s x e
  unfold State.sendable
  rw [howns, Bool.true_and, hhead, ← frameEnded_head]
  rfl

/-- The buffers of the head, and of the others, when the part goes on owning the link. -/
theorem endFrame_buffers {s : State} (howner : s.link.owner = .owning) (hgive : s.link.giveWaiting = false) (x : HeadFrame)
    (e : FrameEnd) : (s.endFrame x e).buffers = s.buffers.set x.head
      (((s.buffers.get x.head).afterFrame x.clearFront).swappedIfReady
        (decide (((s.endFrame x e).link.heads.get x.head).state ≠ .absent))) := by
  rw [← frameEnded_sendable howner, endFrame_keeping howner hgive, continueRound_buffers]
  rfl

section Buffers

variable {b : Buffers} {sendable : Bool}

theorem swappedIfReady_kept (h : b.backState ≠ .complete) : b.swappedIfReady sendable = b := if_neg fun hc => h hc.1

theorem afterFrame_sent_swapped (h : b.backState = .complete) :
    (b.afterFrame false).swappedIfReady sendable = ⟨b.back, b.front, .unsent, .idle⟩ := if_pos ⟨h, .inl rfl⟩

theorem afterFrame_cleared_swapped (h : b.backState = .complete) : (b.afterFrame true).swappedIfReady sendable =
    if sendable = false then ⟨b.back, 0, .unsent, .idle⟩ else { b with front := 0, frontState := .unsent } := by
  cases sendable
  · exact if_pos ⟨h, .inr rfl⟩
  · exact if_neg fun hc => hc.2.elim nofun nofun

end Buffers

/-! ### Answers (R168) -/

theorem awaiting_iff {s : State} {x : HeadFrame} :
    s.awaiting = some x ↔ s.link.sending = some x ∧ ∃ n, x.phase = .answer n := by
  unfold State.awaiting
  cases s.link.sending with
  | none => simp
  | some f =>
    dsimp only
    constructor
    · intro h
      split at h
      · next n hphase =>
        cases h
        exact ⟨rfl, n, hphase⟩
      all_goals cases h
    · rintro ⟨hf, n, hphase⟩
      cases hf
      rw [hphase]

theorem ackTimesOut_awaiting {s : State} {x : HeadFrame} (h : s.awaiting = some x) :
    s.ackTimesOut = s.endFrame x .timeout := by
  unfold State.ackTimesOut
  rw [h]

section Answers

variable {s : State} {x : HeadFrame} {hd : Byte}

theorem takeAck_awaited (h : s.awaiting = some x) (hhd : hd.toNat = x.head.val) (amb : Byte) :
    s.takeAck hd amb = s.endFrame x (.ack amb.toNat) := by
  unfold State.takeAck
  rw [h]
  exact if_pos hhd

theorem takeNak_awaited {code : Byte} {c : FaultCode} (h : s.awaiting = some x) (hhd : hd.toNat = x.head.val)
    (hcode : FaultCode.ofCode code.toNat = some c) : s.takeNak hd code = s.endFrame x (.nak c) := by
  unfold State.takeNak
  rw [h, hcode]
  exact if_pos hhd

/-- No head frame awaits an answer of the head named. -/
theorem takeAck_stray (h : ∀ x, s.awaiting = some x → hd.toNat ≠ x.head.val) (amb : Byte) :
    s.takeAck hd amb = s.bump .strayAnswers := by
  unfold State.takeAck
  split
  · next hx => exact if_neg (h _ hx)
  · rfl

theorem takeNak_stray (h : ∀ x, s.awaiting = some x → hd.toNat ≠ x.head.val) (code : Byte) :
    s.takeNak hd code = s.bump .strayAnswers := by
  unfold State.takeNak
  split
  · next hx _ => exact if_neg (h _ hx)
  · rfl

theorem takeNak_noCode {code : Byte} (hcode : FaultCode.ofCode code.toNat = none) :
    s.takeNak hd code = s.bump .strayAnswers := by
  unfold State.takeNak
  split
  · next hc => cases hcode.symm.trans hc
  · rfl

theorem seeActivity_sending (s : State) : s.seeActivity.link.sending = s.link.sending := by
  unfold State.seeActivity
  split <;> rfl

theorem seeActivity_kept (h : s.link.owner ≠ .waiting) : s.seeActivity = s := if_neg h

theorem awaiting_seeActivity (s : State) : s.seeActivity.awaiting = s.awaiting := by
  unfold State.awaiting
  rw [seeActivity_sending]

end Answers

/-! ### Runs of groups (R165, R202; log 40) -/

/-- A run that holds a symbol other than IDLE is activity. -/
theorem takeGroups_eq (s : State) (groups : List (BitVec 5)) : s.takeGroups groups =
    (answersIn none groups).foldl State.takeAnswer
      (if s.link.owner = .waiting ∧ (∃ g ∈ groups, ∃ x, Sym.ofGroup g = some x ∧ x ≠ .idle) then
        { s with link := { s.link with windowMark := true } } else s) := by
  have hany : groups.any (fun g => (Sym.ofGroup g).any (fun x => decide (x ≠ .idle))) = true ↔
      ∃ g ∈ groups, ∃ x, Sym.ofGroup g = some x ∧ x ≠ .idle := by
    simp only [List.any_eq_true, Option.any_eq_true, decide_eq_true_eq]
  unfold State.takeGroups State.seeActivity
  by_cases hactive : ∃ g ∈ groups, ∃ x, Sym.ofGroup g = some x ∧ x ≠ .idle
  · rw [if_pos (hany.2 hactive)]
    simp only [hactive, and_true]
  · rw [if_neg fun h => hactive (hany.1 h), if_neg fun h => hactive h.2]

/-- The symbol that begins an answer. -/
theorem answersIn_start (ack : Bool) (rest : List (BitVec 5)) :
    answersIn none ((if ack then Sym.ack else Sym.nak).group :: rest) = answersIn (some (ack, [])) rest := by
  cases ack <;> (rw [answersIn.eq_def]; rfl)

/-- The end of the run, or a group that is no data nibble, makes an answer of too few status bytes a broken one. -/
theorem answersIn_tooShort (ack : Bool) {ns : List (BitVec 4)} (h : ns.length < 4) :
    answersIn none (((if ack then Sym.ack else Sym.nak) :: ns.map .nibble).map Sym.group) = [none] ∧
    ∀ g rest, (∀ v, Sym.ofGroup g ≠ some (.nibble v)) →
      answersIn none (((if ack then Sym.ack else Sym.nak) :: ns.map .nibble).map Sym.group ++ g :: rest) =
        none :: answersIn none (g :: rest) := by
  have hread (rest : List (BitVec 5)) :
      answersIn none (((if ack then Sym.ack else Sym.nak) :: ns.map .nibble).map Sym.group ++ rest) =
        answersIn (some (ack, ns)) rest := by
    rw [List.map_cons, List.cons_append, answersIn_start, answersIn_short ack rest ns [] (by simpa using h)]
    rfl
  refine ⟨?_, fun g rest hg => ?_⟩
  · rw [← List.append_nil (List.map Sym.group _), hread, answersIn_end]
  · rw [hread, answersIn_break _ rest hg]

end Sys2Proof.Machine
end

section
/-! PROOFS. The statement on the ends of head frames: the head, its counter and its buffers, the head frame begun next, and the
answers (R142, R159, R160, R165 to R169, R172, R180, R202; logs 35, 40). -/

namespace Sys2Proof.Machine

theorem headByte_toNat (i : HeadIx) : (b8 i.val).toNat = i.val := b8_toNat (by omega)

/-! ### The commands of the return pair (R165, R168) -/

section Awaited

variable {s : State} {x : HeadFrame} {n : Nat} (hrun : s.inReset = false) (hnot : s.link.owner ≠ .waiting)
  (hx : s.link.sending = some x) (hphase : x.phase = .answer n)
include hrun hx hphase

theorem ackTimeout_ends : Leaves .ackTimeout s (s.endFrame x .timeout) :=
  leaves_of_live _ rfl hrun (ackTimesOut_awaiting (awaiting_iff.2 ⟨hx, n, hphase⟩))

include hnot

theorem ackReceived_ends (amb : Byte) :
    Leaves (.ackReceived (b8 x.head.val) amb) s (s.endFrame x (.ack amb.toNat)) := by
  refine leaves_of_live (fun s => s.seeActivity.takeAck (b8 x.head.val) amb) rfl hrun ?_
  rw [seeActivity_kept hnot, takeAck_awaited (awaiting_iff.2 ⟨hx, n, hphase⟩) (headByte_toNat x.head)]

theorem nakReceived_ends {code : Byte} {c : FaultCode} (hcode : FaultCode.ofCode code.toNat = some c) :
    Leaves (.nakReceived (b8 x.head.val) code) s (s.endFrame x (.nak c)) := by
  refine leaves_of_live (fun s => s.seeActivity.takeNak (b8 x.head.val) code) rfl hrun ?_
  rw [seeActivity_kept hnot, takeNak_awaited (awaiting_iff.2 ⟨hx, n, hphase⟩) (headByte_toNat x.head) hcode]

end Awaited

section Stray

variable {s : State} {hd : Byte} (hrun : s.inReset = false)
include hrun

theorem nakReceived_noCode {code : Byte} (hcode : FaultCode.ofCode code.toNat = none) :
    Leaves (.nakReceived hd code) s (s.seeActivity.bump .strayAnswers) :=
  leaves_of_live (fun s => s.seeActivity.takeNak hd code) rfl hrun (takeNak_noCode hcode)

variable (h : ∀ x n, s.link.sending = some x → x.phase = .answer n → hd.toNat ≠ x.head.val)
include h

theorem answer_stray (amb code : Byte) : Leaves (.ackReceived hd amb) s (s.seeActivity.bump .strayAnswers) ∧
    Leaves (.nakReceived hd code) s (s.seeActivity.bump .strayAnswers) := by
  have hother : ∀ x, s.seeActivity.awaiting = some x → hd.toNat ≠ x.head.val := by
    intro x hx
    rw [awaiting_seeActivity, awaiting_iff] at hx
    obtain ⟨hsending, n, hphase⟩ := hx
    exact h x n hsending hphase
  exact ⟨leaves_of_live (fun s => s.seeActivity.takeAck hd amb) rfl hrun (takeAck_stray hother amb),
    leaves_of_live (fun s => s.seeActivity.takeNak hd code) rfl hrun (takeNak_stray hother code)⟩

end Stray

/-- Settles O44: each end of a head frame by what it leaves of the head, its counter and its buffers; then the head frame begun next;
then the answers, one by one and in runs. -/
theorem answersEndHeadFrames : Obligations.AnswersEndHeadFrames := by
  refine ⟨?ends, ?follows, fun l => ⟨fun _ => rfl, fun _ => rfl, ?miss⟩, ?stray, ?groups, ?single,
    ⟨rfl, fun g rest => answersIn_skip rest⟩, fun hd x rest => ⟨answersIn_answer true hd x rest, answersIn_answer false hd x rest⟩,
    ?short⟩
  case ends =>
    rintro s x e b l t hrun hnot hx rfl rfl rfl
    obtain ⟨n, p, hhead⟩ := endFrame_head s x e
    have hvoid (hv : x.void = true) := hhead.trans (by rw [if_pos hv])
    have hlive (hv : x.void = false) := hhead.trans (by rw [if_neg (hv ▸ Bool.false_ne_true)])
    refine ⟨?ack, ?nak, ?timeout, ?hold, fun hv => ?_, fun hv => ?_, fun hv => ?_, fun hv => ?_, fun c hc => ?_,
      fun howner hgive => ?_⟩
    case ack =>
      rintro n amb hphase rfl
      exact ackReceived_ends hrun hnot hx hphase amb
    case nak =>
      rintro n code c hphase hcode rfl
      exact nakReceived_ends hrun hnot hx hphase hcode
    case timeout =>
      rintro n hphase rfl
      exact ackTimeout_ends hrun hx hphase
    case hold =>
      rintro y hphase rfl
      exact leaves_of_live _ rfl hrun (holdExpires_waiting hx hphase)
    · rw [hvoid hv]
      exact ⟨rfl, rfl⟩
    · rw [hlive hv]
      cases e
      case ack | nak => exact ⟨rfl, rfl, rfl⟩
      case timeout | holdAbort => exact ⟨(miss_state_misses _).1, miss_reading _⟩
    · rw [hvoid hv]
    · rw [hlive hv]
      cases e
      case ack | nak => rfl
      case timeout | holdAbort => exact (miss_state_misses _).2
    · rw [endFrame_counter s x e hc]
      cases e <;> rfl
    · rw [endFrame_buffers howner hgive, Bank8.get_set_self]
      refine ⟨fun hclear hback => ?_, fun hclear hback => ?_, fun hclear hback => ?_, fun hclear hback => ?_, fun j hj => ?_⟩
      · rw [hclear]
        exact swappedIfReady_kept hback
      · rw [hclear]
        exact afterFrame_sent_swapped hback
      · rw [hclear]
        exact swappedIfReady_kept hback
      · rw [hclear, afterFrame_cleared_swapped hback]
        simp only [decide_eq_false_iff_not, not_not]
      · exact Bank8.get_set_ne _ _ hj
  case follows =>
    rintro s x e t k hx rfl rfl
    refine ⟨endFrame_linkOnly s x e, fun howner hgive => ?_⟩
    have hkept := endFrame_keeping howner hgive x e
    have hcount := frameEnded_frameRepeats s x e
    refine ⟨fun hr => ?_, fun r hr hdropped => ?_, fun dropped j rest h hr hdropped hj => ?_⟩
    · rw [hkept, continueRound_none (s := s.frameEnded x e) hr]
      exact ⟨rfl, hcount⟩
    · rw [hkept, continueRound_dropped (s := s.frameEnded x e) hr hdropped]
      exact ⟨rfl, hcount⟩
    · rw [hkept, continueRound_begins (s := s.frameEnded x e) hr hdropped hj]
      rw [← hcount]
      exact ⟨rfl, counter_bumpIf _ _ _⟩
  case miss => rintro e (rfl | rfl) <;> rfl
  case stray =>
    rintro s u hd amb code hrun rfl
    exact ⟨fun h => answer_stray hrun h amb code, nakReceived_noCode hrun⟩
  case groups =>
    rintro s u groups hrun rfl
    exact leaves_of_live (fun s => s.takeGroups groups) rfl hrun (takeGroups_eq s groups)
  case single =>
    intro s hd x hrun hnot
    have hkept := seeActivity_kept hnot
    exact ⟨leaves_of_live (fun s => s.seeActivity.takeAck hd x) rfl hrun (congrArg (fun t => t.takeAck hd x) hkept),
      leaves_of_live (fun s => s.seeActivity.takeNak hd x) rfl hrun (congrArg (fun t => t.takeNak hd x) hkept), rfl⟩
  case short =>
    rintro start ns (rfl | rfl) hlen
    · exact answersIn_tooShort true hlen
    · exact answersIn_tooShort false hlen

end Sys2Proof.Machine
end

section
/-! PROOFS. Requests answered when what is done reaches the port's own settings, the events and their enables (R187), and Freeze with
its count (R189). -/

namespace Sys2Proof.Machine

/-! ### A request that reaches the port's settings (R183) -/

theorem State.SameButPort.address {t u : State} (h : t.SameButPort u) : t.feed.address = u.feed.address := by
  obtain ⟨_, _, _, haddress, _⟩ := h
  exact haddress

section Leaves

variable {c : Instr} {k : Kind} {f : FeedFrame} {s v : State} {r : Option Reply} (hc : c.frame = some (k, f))
  (hk : k.isData = false) (h : s.TakesRequest f) (hmanage : s.arrived.manage (frameHeader k.code f) k = (v, r))
include hc hk h hmanage

/-- What a request leaves, before its reply is read off the Reply Slot (R12). -/
theorem request_leaves : Leaves c s (v.offerOpt f.tag r) := (requestIsHandedOver c k f s (v, r) hc hk hmanage.symm).1 h

/-- A request is answered from the address its own action leaves (R14, R183). -/
theorem request_answersFrom {u : State} (hsame : v.SameButPort u) (hslot : v.feed.slot = none) :
    Answers c s u (r.map fun x => replyBody x.1 (b8 u.feed.address) f.tag x.2) := by
  refine ⟨_, request_leaves hc hk h hmanage, ?_⟩
  cases r with
  | none => exact ⟨hsame.matches, hslot⟩
  | some x =>
    refine ⟨((offerReply_sameButPort v _ _).trans hsame).matches, ?_⟩
    rw [← hsame.address]
    exact offerReply_slot hslot _ _

end Leaves

/-! ### Events and their enables (R187) -/

section Mask

variable {f : FeedFrame} {s : State} {mask : Byte} (htakes : s.TakesRequest f) (hp : f.payload = [mask])
include htakes hp

theorem eventClear_answers : Answers (.eventClear f) s
    { s with mgmt := { s.mgmt with pendingEvents := s.mgmt.pendingEvents &&& ~~~mask } } (s.outcomeIf f .eventClear .done) :=
  maskRequest_answers htakes hp (act := fun m t => t.clearEvents m)
    (op := fun t => { t with mgmt := { t.mgmt with pendingEvents := t.mgmt.pendingEvents &&& ~~~mask } })
    (BesidePort.of_comm fun _ _ _ => rfl) rfl rfl (fun _ _ => rfl) rfl

theorem eventEnable_answers : Answers (.eventEnable f) s { s with mgmt := { s.mgmt with enable := mask } }
    (s.outcomeIf f .eventEnable .done) :=
  maskRequest_answers htakes hp (act := fun m t => t.enableEvents m)
    (op := fun t => { t with mgmt := { t.mgmt with enable := mask } })
    (BesidePort.of_comm fun _ _ _ => rfl) rfl rfl (fun _ _ => rfl) rfl

end Mask

/-- Settles O48: the level events are taken again at the end of the Event Clear itself. -/
theorem eventsClearAndEnable : Obligations.EventsClearAndEnable := by
  intro f s mask htakes hp
  obtain ⟨t, hexec, ⟨hframe, _⟩, _⟩ := eventClear_answers htakes hp
  exact ⟨⟨t, hexec, (congrArg (fun x : State => x.mgmt.pendingEvents) hframe).trans rfl⟩, eventClear_answers htakes hp,
    eventEnable_answers htakes hp⟩

/-! ### Freeze (R189) -/

theorem unfreeze_frozen {s : State} (h : s.mgmt.frozen = true) : s.unfreeze = (s.thaw, .done) := if_pos h

theorem unfreeze_running {s : State} (h : s.mgmt.frozen = false) : s.unfreeze = (s, .notNow) :=
  if_neg (h ▸ Bool.false_ne_true)

section Requests

variable {f : FeedFrame} {s : State} (htakes : s.TakesRequest f) (hp : f.payload = [])
include htakes hp

theorem freeze_answers : Answers (.freeze f) s
    { s with mgmt := { s.mgmt with frozen := true, freezeRemaining := s.mgmt.settings.freezeTimeout } }
    (s.outcomeIf f .freeze .done) :=
  bareRequest_answers htakes hp (op := fun t => t.freeze.1) (act := State.freeze) (BesidePort.of_comm fun _ _ _ => rfl)
    rfl rfl (fun _ _ => rfl) rfl

theorem unfreeze_answers {op : State → State} {code : OutcomeCode} (hop : BesidePort op)
    (hact : s.arrived.unfreeze = (op s.arrived, code)) :
    Answers (.unfreeze f) s (op s) (s.outcomeIf f .unfreeze code) :=
  bareRequest_answers htakes hp hop rfl rfl (fun _ _ => rfl) hact

end Requests

section Count

variable {s : State}

theorem freezeSecond_running (h : s.mgmt.frozen = false) : s.freezeSecond = s := if_neg (h ▸ Bool.false_ne_true)

theorem freezeSecond_counts (h : s.mgmt.frozen = true) (hmore : 2 ≤ s.mgmt.freezeRemaining) :
    s.freezeSecond = { s with mgmt := { s.mgmt with freezeRemaining := s.mgmt.freezeRemaining - 1 } } :=
  (if_pos h).trans (if_neg (by omega))

theorem freezeSecond_ends (h : s.mgmt.frozen = true) (hlast : s.mgmt.freezeRemaining ≤ 1) :
    s.freezeSecond = s.thaw.raise .freezeExpired := (if_pos h).trans (if_pos hlast)

end Count

/-- Settles O49: the two requests, then the count by whether the part is frozen and the count ends. -/
theorem freezeIsCounted : Obligations.FreezeIsCounted := by
  refine ⟨fun f s htakes hp => ⟨freeze_answers htakes hp, fun hfrozen => ?thaws, fun hrunning => ?notNow⟩,
    fun s hrun => ⟨fun hrunning => ?idle, fun hfrozen hmore => ?counts, fun hfrozen hlast => ?ends⟩⟩
  case thaws =>
    exact unfreeze_answers htakes hp (op := State.thaw) (BesidePort.of_comm fun _ _ _ => rfl)
      (unfreeze_frozen (s := s.arrived) hfrozen)
  case notNow => exact unfreeze_answers htakes hp besidePort_id (unfreeze_running (s := s.arrived) hrunning)
  case idle => exact leaves_of_live _ rfl hrun (freezeSecond_running hrunning)
  case counts => exact leaves_of_live _ rfl hrun (freezeSecond_counts hfrozen hmore)
  case ends => exact leaves_of_live _ rfl hrun (freezeSecond_ends hfrozen hlast)

end Sys2Proof.Machine
end

section
/-! PROOFS. A Configure of one pair, and the Own Platform whose suffix code is unknown: the statement on Configure fails there (R188). -/

namespace Sys2Proof.Machine

/-! ### One pair (R188, R199) -/

theorem pairsOf_single {id : Byte} {v : Nat} (hid : 1 ≤ id.toNat ∧ id.toNat ≤ 17) (hv : v ≤ 65535) :
    pairsOf (id :: b16 v) = some [(id.toNat, v)] := by
  have hhigh : (b8 (v / 256)).toNat = v / 256 := b8_toNat (by omega)
  have hlow : (b8 v).toNat = v % 256 := BitVec.toNat_ofNat v 8
  have hvalue : (b8 (v / 256)).toNat * 256 + (b8 v).toNat = v := by omega
  simp only [b16, pairsOf, if_pos hid, hvalue]

theorem configure_single {id : Byte} {v : Nat} (s : State) (hid : 1 ≤ id.toNat ∧ id.toNat ≤ 17) (hv : v ≤ 65535) :
    s.configure (id :: b16 v) = ((s.applySetting id.toNat v).1, doneOr (s.applySetting id.toNat v).2) := by
  unfold State.configure
  rw [pairsOf_single hid hv]
  rfl

/-- A pair whose setting stands beside the port is answered by whether its value was clamped. -/
theorem configure_answers {c : Instr} {f : FeedFrame} {s : State} {id : Byte} {v : Nat} (hc : c.frame = some (.configure, f))
    (htakes : s.TakesRequest f) (hv : v ≤ 65535) (hid : 1 ≤ id.toNat ∧ id.toNat ≤ 17) (hp : f.payload = id :: b16 v)
    {op : State → State} (hop : BesidePort op) {clamped : Bool}
    (happly : ∀ t : State, t.applySetting id.toNat v = (op t, clamped)) :
    Answers c s (op s) (s.outcomeIf f .configure (doneOr clamped)) := by
  refine hop.answers hc rfl htakes ?_
  show ((s.arrived.configure f.payload).1, Header.answer _ (s.arrived.configure f.payload).2) = _
  rw [hp, configure_single s.arrived hid hv, happly]

/-! ### Own Platform (R36, R188) -/

/-- Every suffix code names a suffix: the codes above 4 name `Suffix.none`, as code 0 does. -/
theorem suffix_ofCode_isSome (n : Nat) : (Suffix.ofCode n).isSome = true := by
  unfold Suffix.ofCode
  split <;> rfl

/-- So an Own Platform counts as clamped for its number alone. -/
theorem ownPlatformClamped_iff (v : Nat) : ownPlatformClamped v = true ↔ ¬ (1 ≤ v / 256 ∧ v / 256 ≤ 99) := by
  have hsuffix : (Suffix.ofCode (v % 256)).isNone = false := by
    rw [← Option.not_isSome, suffix_ofCode_isSome]
    rfl
  unfold ownPlatformClamped
  rw [hsuffix, Bool.or_false, decide_eq_true_iff, ne_eq, clamp_eq_self_iff]

theorem besidePort_setOwnPlatform (p : Platform) : BesidePort fun s => s.setOwnPlatform p :=
  BesidePort.of_comm fun s f c => by
    unfold State.setOwnPlatform
    dsimp only
    split <;> rfl

/-- An Own Platform is answered DONE when its number is 1..99, whatever its suffix code. -/
theorem configureOwnPlatform_answers {f : FeedFrame} {s : State} {v : Nat} (htakes : s.TakesRequest f) (hv : v ≤ 65535)
    (hp : f.payload = 3 :: b16 v) : Answers (.configureOwnPlatform f) s (s.setOwnPlatform (ownPlatformOf v))
      (s.outcomeIf f .configure (if 1 ≤ v / 256 ∧ v / 256 ≤ 99 then .done else .adjusted)) := by
  rw [← doneOr_eq_ite (ownPlatformClamped_iff v)]
  exact configure_answers rfl htakes hv (by decide) hp (besidePort_setOwnPlatform _) fun _ => rfl

/-! ### The refuting state and frame -/

/-- The part after a reset, with drop address 7, in step between two frames. -/
def State.listening : State := { State.reset with feed := { State.reset.feed with rx := .wait, address := 7 } }

/-- A Configure with Want Outcome of one pair: Own Platform 1 with the unknown suffix code 5. -/
def unknownSuffixFrame : FeedFrame := ⟨63, [], 7, 254, 1, 9, 3 :: b16 0x0105⟩

theorem listening_takes : State.listening.TakesRequest unknownSuffixFrame :=
  ⟨⟨⟨rfl, rfl, rfl⟩, by decide, by decide, rfl⟩, ⟨rfl, by decide, by decide⟩, rfl⟩

/-- The outcomes of the frame differ in their reply. -/
theorem listening_outcomes_differ : State.listening.outcomeIf unknownSuffixFrame .configure .done ≠
    State.listening.outcomeIf unknownSuffixFrame .configure .adjusted := by decide

/-- Refutes O47: an Own Platform with an unknown suffix code is answered DONE, not ADJUSTED, since `Suffix.ofCode` reads every code
above 4 as a suffix (its last arm is `Suffix.none`, not the absent option). -/
theorem not_configureSetsItsSetting : ¬ Obligations.ConfigureSetsItsSetting := by
  intro h
  obtain ⟨_, _, hplatform, _⟩ :=
    h unknownSuffixFrame State.listening 0x0105 State.listening.setSettings listening_takes (by decide) fun _ => rfl
  obtain ⟨t, hexec, _, hadjusted⟩ := (hplatform ⟨1, .none⟩ .adjusted rfl (by decide) (by decide)).2 rfl
  obtain ⟨u, hexec', _, hdone⟩ := configureOwnPlatform_answers listening_takes (by decide) (v := 0x0105) rfl
  obtain rfl : t = u := Host.Outcome.next.inj (hexec.symm.trans hexec')
  exact listening_outcomes_differ (hdone.symm.trans hadjusted)

end Sys2Proof.Machine
end

section
/-! PROOFS. Free bytes of a reply, and the replies to a Status Query and a Counter Read (R184, R185, R200; logs 16, 19). -/

namespace Sys2Proof.Machine

/-! ### Filling a reply's content (logs 6, 19) -/

theorem fill_given (l : List Byte) (rest : List (Option Byte)) (s : State) :
    s.fill (given l ++ rest) = (l ++ (s.fill rest).1, (s.fill rest).2) := by
  induction l with
  | nil => rfl
  | cons b l ih => exact congrArg (fun r : List Byte × State => (b :: r.1, r.2)) ih

/-- Filling takes free values and nothing else. -/
theorem fill_frame (l : List (Option Byte)) : ∀ s : State, (s.fill l).2 = { s with freeCount := (s.fill l).2.freeCount } := by
  induction l with
  | nil => exact fun _ => rfl
  | cons b l ih =>
    intro s
    cases b with
    | none => exact ih s.takeFreeByte.2
    | some b => exact ih s

/-- A filled reply has every byte that the content gives. -/
theorem fill_fits (l : List (Option Byte)) : ∀ s : State, Fits (s.fill l).1 l := by
  induction l with
  | nil => exact fun _ => ⟨rfl, nofun⟩
  | cons b l ih =>
    intro s
    have hcons : ∀ (x : Byte) (t : State), (∀ y, b = some y → x = y) → Fits (x :: (t.fill l).1) (b :: l) := by
      intro x t hx
      obtain ⟨hlen, hbytes⟩ := ih t
      refine ⟨congrArg (· + 1) hlen, fun j y hj => ?_⟩
      cases j with
      | zero => exact congrArg some (hx y (Option.some.inj hj))
      | succ j => exact hbytes j y hj
    cases b with
    | none => exact hcons _ s.takeFreeByte.2 nofun
    | some b => exact hcons b s fun y hy => Option.some.inj hy

/-- States that are the same but for the port stay so when one takes free values. -/
theorem State.SameButPort.withFreeCount {t u : State} (h : t.SameButPort u) (n : Nat) :
    ({ t with freeCount := n } : State).SameButPort { u with freeCount := n } :=
  ⟨congrArg (fun x : State => { x with freeCount := n }) h.1, h.2⟩

theorem fill_sameButPort {t u : State} (h : t.SameButPort u) (l : List (Option Byte)) :
    (t.fill l).2.SameButPort { u with freeCount := (t.fill l).2.freeCount } := by
  have hfill := h.withFreeCount (t.fill l).2.freeCount
  rwa [← fill_frame] at hfill

theorem fill_feed (l : List (Option Byte)) (s : State) : (s.fill l).2.feed = s.feed :=
  (congrArg State.feed (fill_frame l s)).trans rfl

/-! ### A request answered with free bytes (R183) -/

/-- What a request leaves but for the free values it took is matched at the free values there are. -/
theorem matches_freeCount {t u : State} {n : Nat} (h : t.Matches { u with freeCount := n }) :
    t.Matches { u with freeCount := t.freeCount } := by
  have hcount : t.freeCount = n := (congrArg State.freeCount h.1).trans rfl
  rwa [hcount]

/-- A request whose reply fills a content with free bytes leaves what its action leaves but for the free values taken. -/
theorem filledRequest_answers {c : Instr} {k : Kind} {f : FeedFrame} {s : State} (hc : c.frame = some (k, f))
    (hk : k.isData = false) (h : s.TakesRequest f) {op : State → State} (hop : BesidePort op) {reply : Byte}
    {content : List (Option Byte)}
    (hmanage : s.arrived.manage (frameHeader k.code f) k =
      (((op s.arrived).fill content).2, some (reply, ((op s.arrived).fill content).1))) :
    ∃ t, exec c s = .next t ∧ t.Matches { op s with freeCount := t.freeCount } ∧ t.feed.slot =
      some (replyBody reply (b8 s.feed.address) f.tag ((op s.arrived).fill content).1) := by
  have hsame := fill_sameButPort (hop.same (arrived_sameButPort s)) content
  have hfeed : ((op s.arrived).fill content).2.feed = s.feed := (fill_feed _ _).trans (hop.feed s.arrived)
  obtain ⟨t, hexec, hmatches, hslot⟩ := request_answers hc hk h hmanage hsame hfeed
  exact ⟨t, hexec, matches_freeCount hmatches, hslot⟩

/-! ### The Status reply (R184, R200) -/

/-- The items of the status reply up to those of the heads. -/
def State.statusItems (s : State) : List Byte :=
  [0] ++ serialBytes s.serial ++
    [b8 s.feed.address, b8 s.feed.zone, b8 s.feed.group, if s.straps.role = .primary then 0 else 1,
      b8 s.clock.hours, b8 s.clock.minutes, b8 s.clock.seconds,
      flagByte [s.clock.valid, s.clock.lost, s.mgmt.frozen, s.syncLost, s.panelFault],
      b8 s.board.table.length, b8 s.board.free.length] ++ b16 s.names.table.length ++ HeadIx.all.flatMap s.headStatus

/-- After them come the events, the Freeze count and the ownership, and last the link wait, which has a value for a WAITING Standby
only (log 19). -/
theorem statusContent_done (s : State) : s.statusContent .done = given (s.statusItems ++
      [s.mgmt.pendingEvents, s.mgmt.enable, b8 s.mgmt.freezeRemaining, b8 s.link.owner.code]) ++
    [if s.link.owner = .waiting then some (b8 s.link.linkWait) else none] := by
  have hrole : roleByte s.straps.role = if s.straps.role = .primary then 0 else 1 := by
    cases s.straps.role <;> rfl
  unfold State.statusContent
  rw [hrole]
  rfl

theorem status_filled (s : State) : ∃ wait, (s.link.owner = .waiting → wait = b8 s.link.linkWait) ∧
    (s.fill (s.statusContent .done)).1 = s.statusItems ++
      [s.mgmt.pendingEvents, s.mgmt.enable, b8 s.mgmt.freezeRemaining, b8 s.link.owner.code, wait] := by
  rw [statusContent_done, fill_given]
  by_cases h : s.link.owner = .waiting
  · rw [if_pos h]
    exact ⟨_, fun _ => rfl, List.append_assoc _ _ _⟩
  · rw [if_neg h]
    exact ⟨_, fun hw => absurd hw h, List.append_assoc _ _ _⟩

/-! ### The Counter reply (R185, R200) -/

/-- A reply offered to an empty slot counts nothing (R14). -/
theorem offerReply_counters {s : State} (h : s.feed.slot = none) (tag : Byte) (r : Reply) :
    (s.offerReply tag r).counters = s.counters := by
  rcases offerReply_cases s tag r with ⟨_, e⟩ | ⟨hfull, _⟩
  · rw [e]
    rfl
  · rw [h] at hfull
    cases hfull

theorem counterRead_formed (s : State) {x : Header} {flags : Byte} (hp : x.payload = [flags]) : s.counterRead x =
    (if flags.getLsbD 0 then s.clearCounters else s, some (counterReplyKind, s.counterContent .done)) := by
  have hbyte : x.byte0 = flags := congrArg (fun p => p.getD 0 0) hp
  have hlen : x.payload.length = 1 := congrArg List.length hp
  unfold State.counterRead
  rw [hbyte, if_pos hlen]

theorem clearCounters_counter (s : State) (c : Ctr) : s.clearCounters.counter c = 0 := by
  simp [State.counter, State.clearCounters]

/-- Settles O50: the reply's content filled, and the counters as the arrival's own two counts leave them. -/
theorem statusAndCountersAreAnswered : Obligations.StatusAndCountersAreAnswered := by
  refine ⟨fun f s htakes hp => ?status, fun f s flags own htakes hp hown => ?counters⟩
  case status =>
    have hmanage : s.arrived.manage (frameHeader Kind.statusQuery.code f) .statusQuery =
        ((s.arrived.fill (s.arrived.statusContent .done)).2,
          some (statusReplyKind, (s.arrived.fill (s.arrived.statusContent .done)).1)) := by
      have hlen : (frameHeader Kind.statusQuery.code f).payload.length = 0 := congrArg List.length hp
      show s.arrived.statusQuery _ = _
      unfold State.statusQuery
      rw [if_pos hlen]
    obtain ⟨t, hexec, hmatches, hslot⟩ :=
      filledRequest_answers (c := .statusQuery f) rfl rfl htakes besidePort_id hmanage
    obtain ⟨wait, hwait, hfilled⟩ := status_filled s.arrived
    rw [hfilled] at hslot
    exact ⟨t, wait, hexec, hmatches, hwait, hslot⟩
  case counters =>
    subst hown
    have hmanage := counterRead_formed s.arrived (x := frameHeader Kind.counterRead.code f) hp
    refine ⟨fun hkeep => ?keep, fun hclear => ?clear⟩
    case keep =>
      rw [hkeep, if_neg Bool.false_ne_true] at hmanage
      exact request_answers (k := .counterRead) rfl rfl htakes hmanage (arrived_sameButPort s) rfl
    case clear =>
      rw [hclear, if_pos rfl] at hmanage
      have hsame : s.arrived.clearCounters.SameButPort { s with counters := Vector.replicate 40 0 } :=
        ⟨rfl, rfl, rfl, rfl, rfl, rfl, fun _ _ => rfl⟩
      refine ⟨request_answers (k := .counterRead) rfl rfl htakes hmanage hsame rfl, _,
        request_leaves (k := .counterRead) rfl rfl htakes hmanage, fun c => ?_⟩
      have hcounters := offerReply_counters (s := s.arrived.clearCounters) htakes.2.2 f.tag
        (counterReplyKind, s.arrived.counterContent .done)
      exact (congrArg (fun v : Vector Nat 40 => v[c.index]) hcounters).trans (clearCounters_counter s.arrived c)

end Sys2Proof.Machine
end

section
/-! PROOFS. Read Back and Read Next: the item found is answered and the read pointer moves to it; an item after a key has a greater
key, in the Departure Table the least such (R43, R44, R64, R98, R190; logs 19, 39). -/

namespace Sys2Proof.Machine

/-! ### An item found is answered (R190) -/

/-- A read that finds an item answers it after the outcome and the table, and the pointer moves to its key. -/
theorem foundItem_answers {c : Instr} {k : Kind} {f : FeedFrame} {s : State} {t : ReadTable} {item : ReadItem}
    (hc : c.frame = some (k, f)) (hk : k.isData = false) (h : s.TakesRequest f)
    (hmanage : s.arrived.manage (frameHeader k.code f) k = s.arrived.readRequest (.found t item)) :
    ∃ (u : State) (l : List Byte), exec c s = .next u ∧ Fits l item.2 ∧
      u.Matches { s with mgmt := { s.mgmt with readPtr := .pos t (some item.1) }, freeCount := u.freeCount } ∧
      u.feed.slot = some (replyBody readReplyKind (b8 s.feed.address) f.tag ([0, b8 t.code] ++ l)) := by
  obtain ⟨u, hexec, hmatches, hslot⟩ := filledRequest_answers hc hk h
    (op := fun v => { v with mgmt := { v.mgmt with readPtr := .pos t (some item.1) } })
    (BesidePort.of_comm fun _ _ _ => rfl) hmanage
  exact ⟨u, _, hexec, fill_fits item.2 _, hmatches, hslot⟩

theorem readTable_ofCode (t : ReadTable) : ReadTable.ofCode (b8 t.code).toNat = some t := by
  cases t <;> rfl

/-- A Read Back with a good key finds the item its key names, or the first item when it names the head of its table. -/
theorem readBack_found {s : State} {t : ReadTable} {k1 k2 k3 : Byte} {item : ReadItem}
    (hgood : badKey t k1.toNat k2.toNat k3.toNat = false)
    (hitem : headOfTable t k1.toNat k2.toNat = false ∧ s.itemAt t k1.toNat k2.toNat k3.toNat = some item ∨
      headOfTable t k1.toNat k2.toNat = true ∧ s.itemAfter t none = some item) :
    s.readBack [b8 t.code, k1, k2, k3] = .found t item := by
  have hread : s.readBack [b8 t.code, k1, k2, k3] =
      if headOfTable t k1.toNat k2.toNat then
        match s.itemAfter t none with
        | some i => .found t i
        | none => ⟨.notFound, some (b8 t.code), [], .pos t none⟩
      else
        match s.itemAt t k1.toNat k2.toNat k3.toNat with
        | some i => .found t i
        | none => ⟨.notFound, some (b8 t.code), [], s.mgmt.readPtr⟩ := by
    have hkey : badKey t (u8 [b8 t.code, k1, k2, k3] 1) (u8 [b8 t.code, k1, k2, k3] 2) (u8 [b8 t.code, k1, k2, k3] 3) =
        false := hgood
    have htable : ReadTable.ofCode (u8 [b8 t.code, k1, k2, k3] 0) = some t := readTable_ofCode t
    unfold State.readBack
    rw [if_neg (by simp), htable]
    dsimp only
    rw [hkey]
    rfl
  rw [hread]
  rcases hitem with ⟨hhead, hfound⟩ | ⟨hhead, hfound⟩
  · rw [hhead, hfound]
    rfl
  · rw [hhead, hfound]
    rfl

theorem readNext_found {s : State} {t : ReadTable} {key : Option (Nat × Nat)} {item : ReadItem}
    (hptr : s.mgmt.readPtr = .pos t key) (hitem : s.itemAfter t key = some item) : s.readNext [] = .found t item := by
  unfold State.readNext
  rw [if_neg (by simp), hptr]
  dsimp only
  rw [hitem]

/-! ### An item after a key has a greater key (R44, R64, R98, R115, R135) -/

theorem itemAbove_some {α : Type} {k : Nat × Nat} {l : List ((Nat × Nat) × α)} {p : (Nat × Nat) × α}
    (h : itemAbove (some k) l = some p) : p ∈ l ∧ keyLt k p.1 = true := by
  have hlt := List.find?_some h
  exact ⟨List.mem_of_find?_eq_some h, hlt⟩

theorem entryAfter_above {d : Nat} {t : List Entry} {k : Nat × Nat} {e : Entry} (h : entryAfter d t (some k) = some e) :
    keyLt k (e.key d) = true := by
  have hlt := List.find?_some h
  exact hlt

theorem nameAfter_above {t : List NameEntry} {code : Nat} {e : NameEntry} (h : nameAfter t (some code) = some e) :
    code < e.code := by
  have hlt := List.find?_some h
  exact of_decide_eq_true hlt

theorem keyLt_of_fst {a b : Nat × Nat} (h : a.1 < b.1) : keyLt a b = true := (keyLt_iff a b).2 (Or.inl h)

/-- A head's item is listed under its own key. -/
theorem headItems_key {s : State} {p : (Nat × Nat) × (HeadIx × Head)} (h : p ∈ s.headItems) : p.1 = (p.2.1.val, 0) := by
  obtain ⟨i, _, hi⟩ := List.mem_filterMap.1 h
  obtain ⟨x, _, rfl⟩ := Option.map_eq_some_iff.1 hi
  rfl

theorem entryAboveId_above {k : Nat} {t : List Entry} {x : Entry} (h : entryAboveId (some k) t = some x) : k < x.id := by
  induction t generalizing x with
  | nil => cases h
  | cons e rest ih =>
    unfold entryAboveId at h
    dsimp only at h
    split at h
    · next y hy =>
      split at h
      · next hless =>
        obtain rfl : e = x := Option.some.inj h
        exact of_decide_eq_true (Bool.and_eq_true_iff.1 hless).1
      · obtain rfl : y = x := Option.some.inj h
        exact ih hy
    · split at h
      · next habove =>
        obtain rfl : e = x := Option.some.inj h
        exact of_decide_eq_true habove
      · cases h

/-- The part after a part is the next part of the same list, or part 0 of a later service (R64). -/
theorem partAfter_above {t : List Entry} {k : Nat × Nat} {x : Entry × Nat} (h : partAfter t (some k) = some x) :
    keyLt k (x.1.id, x.2) = true := by
  have hlater : (entryAboveId (some k.1) t).map (fun e => (e, 0)) = some x → keyLt k (x.1.id, x.2) = true := by
    intro hx
    obtain ⟨e, he, rfl⟩ := Option.map_eq_some_iff.1 hx
    exact keyLt_of_fst (entryAboveId_above he)
  unfold partAfter at h
  dsimp only at h
  split at h
  · next e he =>
    split at h
    · obtain rfl : (e, k.2 + 1) = x := Option.some.inj h
      exact (keyLt_iff _ _).2 (Or.inr ⟨(findEntry_some he).2.symm, Nat.lt_succ_self _⟩)
    · exact hlater h
  · exact hlater h

theorem itemAfter_above {s : State} {t : ReadTable} {k : Nat × Nat} {item : ReadItem}
    (h : s.itemAfter t (some k) = some item) : keyLt k item.1 = true := by
  unfold State.itemAfter at h
  cases t
  case departure =>
    obtain ⟨e, he, rfl⟩ := Option.map_eq_some_iff.1 h
    exact entryAfter_above he
  case callingList =>
    obtain ⟨x, hx, rfl⟩ := Option.map_eq_some_iff.1 h
    exact partAfter_above hx
  case name =>
    obtain ⟨e, he, rfl⟩ := Option.map_eq_some_iff.1 h
    exact keyLt_of_fst (nameAfter_above he)
  case font =>
    dsimp only at h
    split at h
    · obtain rfl := Option.some.inj h
      exact keyLt_of_fst (Nat.lt_succ_self _)
    · cases h
  case head =>
    obtain ⟨p, hp, rfl⟩ := Option.map_eq_some_iff.1 h
    obtain ⟨hmem, hlt⟩ := itemAbove_some hp
    rwa [headItems_key hmem] at hlt
  case glyph | field | notice =>
    obtain ⟨p, hp, rfl⟩ := Option.map_eq_some_iff.1 h
    exact (itemAbove_some hp).2

/-! ### The departure after a key is the least (R44) -/

/-- The first of an ordered list to pass a test comes before every other that passes it. -/
theorem find?_first {α : Type} {R : α → α → Prop} {p : α → Bool} {l : List α} {e : α} (hl : l.Pairwise R)
    (h : l.find? p = some e) : ∀ x ∈ l, p x = true → x = e ∨ R e x := by
  obtain ⟨_, before, after, rfl, hbefore⟩ := List.find?_eq_some_iff_append.1 h
  obtain ⟨_, hfrom, _⟩ := List.pairwise_append.1 hl
  intro x hx hpx
  rcases List.mem_append.1 hx with hx | hx
  · have hfails := hbefore x hx
    rw [hpx] at hfails
    cases hfails
  · rcases List.mem_cons.1 hx with rfl | hx
    · exact Or.inl rfl
    · exact Or.inr (List.rel_of_pairwise_cons hfrom hx)

theorem departureAfter_least {s : State} {key : Option (Nat × Nat)} {item : ReadItem} (hs : s.BoardSound)
    (h : s.itemAfter .departure key = some item) :
    ∃ e ∈ s.board.table, item = (e.key s.mgmt.settings.dayStart, given (departureContent s.board.table e)) ∧
      ∀ x ∈ s.board.table, (∀ k ∈ key, keyLt k (x.key s.mgmt.settings.dayStart) = true) →
        x = e ∨ keyLt item.1 (x.key s.mgmt.settings.dayStart) = true := by
  obtain ⟨⟨hkeys, _, _⟩, _, _⟩ := hs
  obtain ⟨e, he, rfl⟩ := Option.map_eq_some_iff.1 h
  refine ⟨e, List.mem_of_find?_eq_some he, rfl, fun x hx hafter => find?_first hkeys he x hx ?_⟩
  cases key with
  | none => rfl
  | some k => exact hafter k rfl

/-- Settles O51: the two requests, and the order of the items after a key. -/
theorem readRequestsAnswerItems : Obligations.ReadRequestsAnswerItems := by
  refine ⟨fun f s t k1 k2 k3 item c htakes hp hc hgood hitem => ?back, fun f s t key item htakes hp hptr hitem => ?next,
    fun s t k item hitem => itemAfter_above hitem, fun s key item hs hitem => departureAfter_least hs hitem⟩
  case back =>
    have hframe : c.frame = some (.readBack, f) := by
      simp only [List.mem_cons, List.not_mem_nil, or_false, Prod.mk.injEq] at hc
      rcases hc with ⟨_, rfl⟩ | ⟨_, rfl⟩ | ⟨_, rfl⟩ | ⟨_, rfl⟩ | ⟨_, rfl⟩ | ⟨_, rfl⟩ | ⟨_, rfl⟩ | ⟨_, rfl⟩ <;> rfl
    refine foundItem_answers hframe rfl htakes ?_
    show s.arrived.readRequest (s.arrived.readBack f.payload) = _
    rw [hp, readBack_found (s := s.arrived) hgood hitem]
  case next =>
    refine foundItem_answers (c := .readNext f) rfl rfl htakes ?_
    show s.arrived.readRequest (s.arrived.readNext f.payload) = _
    rw [hp, readNext_found (s := s.arrived) hptr hitem]

end Sys2Proof.Machine
end

section
/-! PROOFS. Address Assign: the scan of the search area, and what it takes and answers (R191). -/

namespace Sys2Proof.Machine

/-! ### The scan finds the marker run and the serials -/

theorem scan_before {pattern before : List Byte} (h : (0xA5 : Byte) ∉ before) :
    before.foldl (Scan.next pattern) (.hunting 0) = .hunting 0 := by
  induction before with
  | nil => rfl
  | cons b rest ih =>
    have hhunt : Scan.next pattern (.hunting 0) b = .hunting 0 := if_neg (List.ne_of_not_mem_cons h).symm
    rw [List.foldl_cons, hhunt, ih (List.not_mem_of_not_mem_cons h)]

theorem scan_markers (pattern : List Byte) :
    [0xA5, 0xA5, 0xA5, 0xA5].foldl (Scan.next pattern) (.hunting 0) = .matching 0 := rfl

/-- The rest of the pattern, read where the scan expects it, completes the match. -/
theorem scan_pattern (rest : List Byte) : ∀ seen : List Byte, rest ≠ [] →
    rest.foldl (Scan.next (seen ++ rest)) (.matching seen.length) = .done := by
  induction rest with
  | nil => exact fun _ h => absurd rfl h
  | cons b rest ih =>
    intro seen _
    have hexpected : (seen ++ b :: rest)[seen.length]? = some b := by simp
    have hstep : Scan.next (seen ++ b :: rest) (.matching seen.length) b =
        if seen.length + 1 = (seen ++ b :: rest).length then .done else .matching (seen.length + 1) := if_pos hexpected
    rw [List.foldl_cons, hstep]
    cases rest with
    | nil => rw [if_pos (by simp), List.foldl_nil]
    | cons x xs =>
      rw [if_neg (by simp)]
      have hrest := ih (seen ++ [b]) (List.cons_ne_nil x xs)
      rwa [List.append_assoc, List.length_append] at hrest

theorem scan_done (pattern after : List Byte) : after.foldl (Scan.next pattern) .done = .done := by
  induction after with
  | nil => rfl
  | cons b rest ih => exact ih

/-- An area with the marker run and the serial three times matches, when no marker byte stands before the run. -/
theorem areaMatches_found (serial : BitVec 48) {before after : List Byte} (h : (0xA5 : Byte) ∉ before) :
    areaMatches serial (before ++ [0xA5, 0xA5, 0xA5, 0xA5] ++ serialBytes serial ++ serialBytes serial ++
      serialBytes serial ++ after) = true := by
  have hpattern := scan_pattern (serialBytes serial ++ serialBytes serial ++ serialBytes serial) []
    (by simp [serialBytes])
  have harea : before ++ [0xA5, 0xA5, 0xA5, 0xA5] ++ serialBytes serial ++ serialBytes serial ++ serialBytes serial ++
      after = before ++ ([0xA5, 0xA5, 0xA5, 0xA5] ++
        ((serialBytes serial ++ serialBytes serial ++ serialBytes serial) ++ after)) := by
    simp only [List.append_assoc]
  unfold areaMatches
  rw [decide_eq_true_iff, harea, List.foldl_append, scan_before h, List.foldl_append, scan_markers, List.foldl_append]
  exact (congrArg (after.foldl _) hpattern).trans (scan_done _ _)

/-! ### A match takes 22 bytes -/

/-- The bytes that a scan has at least looked at to stand where it does. -/
def Scan.depth (pattern : List Byte) : Scan → Nat
  | .hunting n => n
  | .matching k => 4 + k
  | .done => 4 + pattern.length

theorem hunt_depth (pattern : List Byte) (n : Nat) (b : Byte) : (Scan.hunt n b).depth pattern ≤ n + 1 := by
  unfold Scan.hunt
  split
  · split
    · next hn => exact (congrArg (· + 1) hn).ge
    · exact le_rfl
  · exact Nat.zero_le _

theorem next_depth (pattern : List Byte) (c : Scan) (b : Byte) : (c.next pattern b).depth pattern ≤ c.depth pattern + 1 := by
  cases c with
  | hunting n => exact hunt_depth pattern n b
  | done => exact Nat.le_succ _
  | matching k =>
    have hbreak := hunt_depth pattern 0 b
    unfold Scan.next
    dsimp only
    split
    · split
      · next hlast => exact (congrArg (4 + ·) hlast).ge
      · exact le_rfl
    · exact hbreak.trans (by simp only [Scan.depth]; omega)

theorem scan_depth (pattern area : List Byte) : ∀ c : Scan,
    (area.foldl (Scan.next pattern) c).depth pattern ≤ c.depth pattern + area.length := by
  induction area with
  | nil => exact fun _ => le_rfl
  | cons b rest ih =>
    intro c
    have hrest := ih (c.next pattern b)
    have hnext := next_depth pattern c b
    rw [List.foldl_cons, List.length_cons]
    omega

theorem areaMatches_short {serial : BitVec 48} {area : List Byte} (h : area.length < 22) :
    areaMatches serial area = false := by
  have hdepth := scan_depth (serialBytes serial ++ serialBytes serial ++ serialBytes serial) area (.hunting 0)
  refine decide_eq_false fun hdone => ?_
  rw [hdone] at hdepth
  simp only [Scan.depth, List.length_append, serialBytes, List.length_map, List.length_cons, List.length_nil] at hdepth
  omega

/-! ### What an Address Assign does (R191) -/

section Assign

variable {s : State} {x : Header} {a : Byte} {area : List Byte} (hp : x.payload = a :: area)
include hp

theorem assignAddress_match (hlen : area.length ≤ 80) (hmatch : areaMatches s.serial area = true) : s.assignAddress x =
    if 1 ≤ a.toNat ∧ a.toNat ≤ 120 then
      ({ s with feed := { s.feed with address := a.toNat } }, some (outcomeReply x.kind .done))
    else (s, some (outcomeReply x.kind .malformed)) := by
  unfold State.assignAddress
  rw [hp]
  exact if_pos ⟨hlen, hmatch⟩

theorem assignAddress_noMatch (h : ¬ (area.length ≤ 80 ∧ areaMatches s.serial area = true)) :
    s.assignAddress x = (s, none) := by
  unfold State.assignAddress
  rw [hp]
  exact if_neg h

end Assign

/-- Settles O52: an area that matches, by the address; and one that is too long or too short. -/
theorem addressAssignTakesAddress : Obligations.AddressAssignTakesAddress := by
  intro f s a area htakes hp
  refine ⟨fun before after harea hbefore hlen => ⟨fun hmin hmax => ?taken, fun hbad => ?refused⟩, fun hlen => ?unmatched⟩
  case taken =>
    have hmatch : areaMatches s.serial area = true := harea ▸ areaMatches_found s.serial hbefore
    have hmanage := assignAddress_match (s := s.arrived) (x := frameHeader Kind.addressAssign.code f) hp hlen hmatch
    rw [if_pos ⟨hmin, hmax⟩] at hmanage
    obtain ⟨_, _, _, _, _, _, hcounters⟩ := arrived_sameButPort s
    have hanswers := request_answersFrom (k := .addressAssign) (c := .addressAssign f) rfl rfl htakes hmanage
      (u := { s with feed := { s.feed with address := a.toNat } }) ⟨rfl, rfl, rfl, rfl, rfl, rfl, hcounters⟩ htakes.2.2
    have hbyte : b8 a.toNat = a := (BitVec.ofNat_toNat ..).trans (BitVec.setWidth_eq a)
    dsimp only [Option.map_some] at hanswers
    rwa [hbyte] at hanswers
  case refused =>
    have hmatch : areaMatches s.serial area = true := harea ▸ areaMatches_found s.serial hbefore
    have hmanage := assignAddress_match (s := s.arrived) (x := frameHeader Kind.addressAssign.code f) hp hlen hmatch
    rw [if_neg (by omega)] at hmanage
    exact request_answers (k := .addressAssign) rfl rfl htakes hmanage (arrived_sameButPort s) rfl
  case unmatched =>
    have hnone : ¬ (area.length ≤ 80 ∧ areaMatches s.arrived.serial area = true) := by
      rintro ⟨hshort, hmatch⟩
      have htiny : area.length < 22 := hlen.resolve_left (Nat.not_lt.2 hshort)
      rw [areaMatches_short htiny] at hmatch
      cases hmatch
    have hmanage := assignAddress_noMatch (x := frameHeader Kind.addressAssign.code f) hp hnone
    exact request_answers (k := .addressAssign) rfl rfl htakes hmanage (arrived_sameButPort s) rfl

end Sys2Proof.Machine
end

section
/-! PROOFS. Restart: when it is carried out, and what it leaves of every block (R192; R21, R47, R67, R81, R101, R117, R138, R164, R182;
logs 38, 42). -/

namespace Sys2Proof.Machine

/-! ### When a Restart is carried out (R192) -/

theorem restartRequest_formed {x : Header} (t : State) (hx : x.payload = []) : t.restartRequest x =
    if x.wantOutcome then ({ t with mgmt := { t.mgmt with restartWaiting := true } }, x.answer .done)
    else (t.restart, none) := if_neg (by rw [hx]; exact fun h => h rfl)

section Request

variable {f : FeedFrame} {s : State} (htakes : s.TakesRequest f) (hp : f.payload = [])
include htakes hp

/-- Without Want Outcome it is carried out at once: what the arrival counted is cleared with the rest. -/
theorem restart_now (hsilent : f.flags.getLsbD 0 = false) : Leaves (.restart f) s s.restart := by
  have hwant : (frameHeader Kind.restart.code f).wantOutcome = false := hsilent
  have hmanage := restartRequest_formed (x := frameHeader Kind.restart.code f) s.arrived hp
  rw [hwant, if_neg Bool.false_ne_true] at hmanage
  exact request_leaves (k := .restart) (c := .restart f) rfl rfl htakes hmanage

/-- With Want Outcome it waits for its reply. -/
theorem restart_waits (hwant : f.flags.getLsbD 0 = true) : Answers (.restart f) s
    { s with mgmt := { s.mgmt with restartWaiting := true } } (some (s.outcomeFor f .restart .done)) := by
  have hmanage := restartRequest_formed (x := frameHeader Kind.restart.code f) s.arrived hp
  rw [if_pos (show (frameHeader Kind.restart.code f).wantOutcome = true from hwant)] at hmanage
  have hanswers := BesidePort.answers (k := .restart) (c := .restart f)
    (op := fun t => { t with mgmt := { t.mgmt with restartWaiting := true } })
    (BesidePort.of_comm fun _ _ _ => rfl) rfl rfl htakes hmanage
  unfold State.outcomeIf at hanswers
  rwa [if_pos hwant] at hanswers

end Request

theorem replySent_restarts {s : State} {r : List Byte} (htx : s.feed.tx = .reply r) (hwaits : s.mgmt.restartWaiting = true) :
    s.replySent = { s.restart with feed := { s.restart.feed with tx := .gap } } := by
  unfold State.replySent
  rw [htx]
  exact if_pos hwaits

/-! ### What a Restart leaves -/

theorem restart_counter (s : State) (c : Ctr) : s.restart.counter c = 0 := by
  simp [State.counter, State.restart]

theorem restart_buffers (s : State) (i : HeadIx) :
    s.restart.buffers.get i = (s.buffers.get i).restarted (s.sendingTo i) := Bank8.get_mapIx _ _ i

theorem restart_head (s : State) (i : HeadIx) : s.restart.head i = none ∧ (s.restart.heads.get i).blank = false ∧
    (s.restart.heads.get i).overlayNumber = 0 := by
  have hentry : s.restart.heads.get i = .undefined := Bank8.get_fill _ i
  unfold State.head
  rw [hentry]
  exact ⟨rfl, rfl, rfl⟩

/-- Settles O53: the two moments of a Restart, and what it leaves block by block. -/
theorem restartEmptiesTheStores : Obligations.RestartEmptiesTheStores := by
  refine ⟨fun f s htakes hp => ⟨restart_now htakes hp, restart_waits htakes hp⟩,
    fun s r hrun htx hwaits => ⟨_, leaves_of_live _ rfl hrun (replySent_restarts htx hwaits), rfl⟩, ?_⟩
  rintro s _ rfl
  refine ⟨rfl, rfl, List.Perm.refl _, rfl, fun id => congrArg FontRecord.defined (fontsEmpty_get id), restart_counter s,
    fun i => ?heads, rfl, rfl, rfl, rfl, rfl, rfl, rfl, rfl, rfl, rfl, rfl, rfl, rfl, rfl, rfl, rfl, rfl, rfl, rfl, rfl, rfl,
    rfl, rfl, rfl, rfl⟩
  case heads =>
    obtain ⟨hhead, hblank, hnumber⟩ := restart_head s i
    have hbuffers := restart_buffers s i
    refine ⟨hhead, hblank, hnumber, Bank8.get_fill _ i, Bank8.get_fill _ i, Bank8.get_fill _ i, fun hidle => ?_,
      fun hsending => ?_⟩
    · rw [hbuffers, hidle]
      rfl
    · rw [hbuffers, hsending]
      rfl

end Sys2Proof.Machine
end

section
/-! PROOFS. Every command answers a next state and leaves the queue, the unit serial and the straps, but for the straps that the end of
a hard reset takes (R183, R184, R193). -/

namespace Sys2Proof.Machine

/-- What no command changes while the part runs: the commands waiting, the serial and the straps. -/
def State.identity (s : State) : List Instr × BitVec 48 × Straps := (s.pending, s.serial, s.straps)

/-! ### Operations known by what they change -/

theorem State.LinkOnly.identity {s t : State} (h : s.LinkOnly t) : t.identity = s.identity :=
  (congrArg State.identity h).trans rfl

theorem State.HeadsOnly.identity {s t : State} (h : s.HeadsOnly t) : t.identity = s.identity :=
  (congrArg State.identity h).trans rfl

theorem State.CountsOnly.identity {s t : State} (h : s.CountsOnly t) : t.identity = s.identity :=
  (congrArg State.identity h).trans rfl

theorem State.SameButPort.identity {t u : State} (h : t.SameButPort u) : t.identity = u.identity :=
  (congrArg State.identity h.1).trans rfl

theorem bumpAll_identity (l : List Ctr) (s : State) : (s.bumpAll l).identity = s.identity := by
  induction l generalizing s with
  | nil => rfl
  | cons c l ih => exact ih (s.bump c)

theorem raiseAll_identity (l : List Event) (s : State) : (s.raiseAll l).identity = s.identity := by
  induction l generalizing s with
  | nil => rfl
  | cons c l ih => exact ih (s.raise c)

theorem tally_identity (s : State) (l : List (Ctr × Nat)) : (s.tally l).identity = s.identity :=
  (congrArg State.identity (tally_frame l s)).trans rfl

theorem abandon_identity (s : State) (i : HeadIx) : (s.abandon i).identity = s.identity := (abandon_at s i).1.identity

theorem clearBuffers_identity (s : State) (i : HeadIx) : (s.clearBuffers i).identity = s.identity :=
  (clearBuffers_linkOnly s i).identity

theorem forward_identity (s : State) (body : List Byte) (x : Header) : (s.forward body x).identity = s.identity :=
  (forward_sameButPort s body x).identity

theorem offerReply_identity (s : State) (tag : Byte) (r : Reply) : (s.offerReply tag r).identity = s.identity :=
  (offerReply_sameButPort s tag r).identity

theorem frameEvent_identity (s : State) : s.frameEvent.identity = s.identity :=
  (congrArg State.identity (frameEvent_frame s)).trans rfl

theorem advanceClock_identity (s : State) : s.advanceClock.identity = s.identity :=
  (secondEvent_countsOnly (s.setClock s.clock.advance) _).identity

/-! ### Layout and Page Control (R119 to R133) -/

theorem defineHead_identity (s : State) (i : HeadIx) (d : HeadData) : (s.defineHead i d).identity = s.identity := by
  unfold State.defineHead
  split
  · rfl
  · split
    · rfl
    · exact (clearBuffers_identity _ _).trans (abandon_identity _ _)

theorem putHead_identity (s : State) (p : List Byte) : (s.putHead p).1.identity = s.identity := by
  unfold State.putHead
  split
  · rfl
  · exact defineHead_identity s _ _

theorem dropHead_identity (s : State) (p : List Byte) : (s.dropHead p).1.identity = s.identity := by
  unfold State.dropHead
  split
  · rfl
  · split
    · rfl
    · split
      · rfl
      · exact (clearBuffers_identity _ _).trans (abandon_identity _ _)

theorem putField_identity (s : State) (p : List Byte) : (s.putField p).1.identity = s.identity := by
  unfold State.putField
  split
  · rfl
  · split <;> rfl

theorem dropField_identity (s : State) (p : List Byte) : (s.dropField p).1.identity = s.identity := by
  unfold State.dropField
  split
  · rfl
  · split
    · rfl
    · split
      · rfl
      · split <;> rfl

theorem advancePages_identity (s : State) (mask : Byte) : (s.advancePages mask).1.identity = s.identity := by
  unfold State.advancePages
  split
  · refine forHeads_keeps (P := fun t => t.identity = s.identity) (fun i t h => ?_) rfl
    split
    · refine Eq.trans ?_ h
      unfold State.onHead
      split <;> rfl
    · exact h
  · rfl

theorem noticeFrame_identity (s : State) (p : List Byte) : (s.noticeFrame p).1.identity = s.identity := by
  unfold State.noticeFrame State.appendNotice State.putNotice
  split
  · split
    · rfl
    · split
      · rfl
      · split <;> rfl
  · split
    · rfl
    · exact (forHeads_notice _ _ _).1.identity

theorem clearNotice_identity (s : State) (p : List Byte) : (s.clearNotice p).1.identity = s.identity := by
  unfold State.clearNotice
  split
  · rfl
  · split
    · rfl
    · split
      · rfl
      · exact (emptyNotice_countsOnly s _).identity

theorem dwellSecond_identity (s : State) : s.dwellSecond.identity = s.identity := by
  refine (forHeads_countsOnly (fun i t => ?_) s).identity
  split
  · exact countDwellOf_countsOnly i t
  · rfl

theorem holdSecond_identity (s : State) : s.holdSecond.identity = s.identity :=
  (congrArg State.identity (holdSecond_frame s)).trans rfl

theorem noticeSecond_identity (s : State) : s.noticeSecond.identity = s.identity :=
  (forHeads_countsOnly countNotice_countsOnly s).identity

/-! ### The Composer (R141, R155, R171) -/

theorem paintField_identity (s : State) (i : HeadIx) (h : Head) (snap : Snapshot) (idx : Nat) (r : FieldRecord) :
    (s.paintField i h snap idx r).identity = s.identity := by
  unfold State.paintField
  dsimp only
  split
  · rfl
  · exact tally_identity _ _

theorem paintOverlay_identity (s : State) (i : HeadIx) (h : Head) (slot : HeadIx) (number : Nat) :
    (s.paintOverlay i h slot number).identity = s.identity := by
  obtain ⟨_, _, _, hframe, _⟩ := paintOverlay_spec s i h slot number
  exact (congrArg State.identity hframe).trans rfl

theorem completeComp_identity (s : State) (i : HeadIx) : (s.completeComp i).identity = s.identity :=
  (congrArg State.identity (completeComp_spec s i)).trans rfl

theorem completeIfLast_identity (s : State) (i : HeadIx) (painted : Nat) :
    (s.completeIfLast i painted).identity = s.identity := by
  unfold State.completeIfLast
  split
  · split
    · exact completeComp_identity s i
    · rfl
  · rfl

theorem paintNext_identity (s : State) (i : HeadIx) : (s.paintNext i).identity = s.identity := by
  unfold State.paintNext
  split
  · split
    · exact (completeComp_identity _ i).trans (paintOverlay_identity s i _ _ _)
    · split
      · exact (completeIfLast_identity _ i _).trans (paintField_identity s i _ _ _ _)
      · exact completeComp_identity s i
  · rfl

theorem frameTimer_identity (s : State) : s.frameTimer.identity = s.identity := by
  unfold State.frameTimer
  split
  · exact frameEvent_identity s
  · rfl

theorem fsyncEdge_identity (s : State) : s.fsyncEdge.identity = s.identity := by
  unfold State.fsyncEdge
  split
  · rfl
  all_goals exact frameEvent_identity (s.setTimeBase .synced)

theorem fsyncWatch_identity (s : State) : s.fsyncWatch.identity = s.identity := by
  unfold State.fsyncWatch
  split
  case h_4 => exact frameEvent_identity (s.setTimeBase .lost)
  all_goals rfl

/-! ### The Station Clock (R69 to R73) -/

theorem internalTick_identity (s : State) : s.internalTick.identity = s.identity := by
  unfold State.internalTick
  split
  · exact advanceClock_identity s
  · rfl

theorem secpEdge_identity (s : State) (micros : Nat) : (s.secpEdge micros).identity = s.identity := by
  unfold State.secpEdge
  split
  · rfl
  · dsimp only
    split
    · exact advanceClock_identity (s.setClock _)
    · rfl

theorem watchExpires_identity (s : State) : s.watchExpires.identity = s.identity := by
  unfold State.watchExpires
  split
  · exact (advanceClock_identity _).trans (advanceClock_identity (s.setClock _))
  · rfl

theorem scheduledTick_identity (s : State) : s.scheduledTick.identity = s.identity := by
  unfold State.scheduledTick
  split
  · exact advanceClock_identity (s.setClock _)
  · rfl

theorem timeFrame_identity (s : State) (p : List Byte) : (s.timeFrame p).1.identity = s.identity := by
  unfold State.timeFrame
  split
  · rfl
  · dsimp only
    split <;> rfl

/-! ### The owners and Management (R10, R183) -/

theorem own_identity (s : State) (p : List Byte) (k : Kind) : (s.own p k).1.identity = s.identity := by
  cases k
  case departurePut | departureAmend | departureRemove | stops | stopAmend =>
    exact (raiseAll_identity _ _).trans (bumpAll_identity _ _)
  case namePut | nameDrop | namesClear => exact bumpAll_identity _ _
  case noticePut => exact noticeFrame_identity s p
  case noticeClear => exact clearNotice_identity s p
  case timeSet => exact timeFrame_identity s p
  case headDefine => exact putHead_identity s p
  case headDrop => exact dropHead_identity s p
  case fieldPut => exact putField_identity s p
  case fieldDrop => exact dropField_identity s p
  case brightnessTablePut => exact (putBrightness_linkOnly s p).identity
  all_goals rfl

theorem applySetting_identity (s : State) (n v : Nat) : (s.applySetting n v).1.identity = s.identity := by
  unfold State.applySetting
  split
  case h_3 =>
    unfold State.setOwnPlatform
    split <;> rfl
  case h_4 =>
    unfold State.setDayStart
    split <;> rfl
  case h_15 =>
    unfold State.setSyncSource
    dsimp only
    generalize (if v = 0 then SyncSource.internal else .fsync) = source
    split <;> rfl
  all_goals rfl

theorem configure_identity (s : State) (p : List Byte) : (s.configure p).1.identity = s.identity := by
  unfold State.configure
  split
  · rfl
  · next l _ =>
    exact List.foldlRecOn l _ (motive := fun r : State × Bool => r.1.identity = s.identity) rfl
      fun r h x _ => (applySetting_identity r.1 x.1 x.2).trans h

theorem fill_identity (l : List (Option Byte)) (s : State) : (s.fill l).2.identity = s.identity :=
  (congrArg State.identity (fill_frame l s)).trans rfl

theorem request_identity (s : State) (x : Header) (n : Nat) {act : State → State × OutcomeCode}
    (hact : (act s).1.identity = s.identity) : (s.request x n act).1.identity = s.identity :=
  request_keeps (P := fun t => t.identity = s.identity) rfl x n hact

theorem counterRead_identity (s : State) (x : Header) : (s.counterRead x).1.identity = s.identity := by
  unfold State.counterRead
  split
  · dsimp only
    split <;> rfl
  · rfl

theorem unfreeze_identity (s : State) : s.unfreeze.1.identity = s.identity := by
  unfold State.unfreeze
  split <;> rfl

theorem assignAddress_identity (s : State) (x : Header) : (s.assignAddress x).1.identity = s.identity := by
  unfold State.assignAddress
  split
  · rfl
  · split
    · split <;> rfl
    · rfl

theorem restartRequest_identity (s : State) (x : Header) : (s.restartRequest x).1.identity = s.identity := by
  unfold State.restartRequest
  split
  · rfl
  · split <;> rfl

theorem manage_identity (s : State) (x : Header) (k : Kind) : (s.manage x k).1.identity = s.identity := by
  cases k
  case statusQuery => exact fill_identity _ s
  case counterRead => exact counterRead_identity s x
  case eventClear | eventEnable => exact request_identity s x 1 rfl
  case configure => exact configure_identity s _
  case freeze => exact request_identity s x 0 rfl
  case unfreeze => exact request_identity s x 0 (unfreeze_identity s)
  case advance => exact request_identity s x 1 (advancePages_identity s _)
  case blank | unblank => exact request_identity s x 1 rfl
  case takeLink => exact request_identity s x 0 (takeLinkRequest_linkOnly s).identity
  case giveLink => exact request_identity s x 0 (giveLinkRequest_linkOnly s).identity
  case readBack | readNext => exact fill_identity _ _
  case addressAssign => exact assignAddress_identity s x
  case restart => exact restartRequest_identity s x
  all_goals rfl

theorem freezeSecond_identity (s : State) : s.freezeSecond.identity = s.identity := (freezeSecond_countsOnly s).identity

/-! ### The feed port (R2 to R17) -/

theorem offerOpt_identity (s : State) (tag : Byte) (r : Option Reply) : (s.offerOpt tag r).identity = s.identity := by
  cases r with
  | none => rfl
  | some r => exact offerReply_identity s tag r

theorem unknownKind_identity (s : State) (body : List Byte) (x : Header) : (s.unknownKind body x).identity = s.identity := by
  have hsent := forward_identity (s.bump .unknownKind) body x
  unfold State.unknownKind
  dsimp only
  split
  · exact (offerReply_identity _ _ _).trans hsent
  · exact hsent

theorem handData_identity (s : State) (k : Kind) (x : Header) (reply : Bool) :
    (s.handData k x reply).identity = s.identity := by
  have howned := own_identity (s.bump .framesActedOn) x.payload k
  unfold State.handData
  dsimp only
  split
  · exact (offerReply_identity _ _ _).trans howned
  · exact howned

theorem handManagement_identity (s : State) (k : Kind) (x : Header) : (s.handManagement k x).identity = s.identity := by
  unfold State.handManagement
  split
  · rfl
  · exact (offerOpt_identity _ _ _).trans (manage_identity (s.bump .framesActedOn) x k)

theorem disposeData_identity (s : State) (k : Kind) (body : List Byte) (x : Header) :
    (s.disposeData k body x).identity = s.identity := by
  unfold State.disposeData
  split
  · exact handData_identity s _ _ _
  · split
    · exact (forward_identity _ _ _).trans (handData_identity s _ _ _)
    · exact forward_identity s _ _

theorem disposeManagement_identity (s : State) (k : Kind) (body : List Byte) (x : Header) :
    (s.disposeManagement k body x).identity = s.identity := by
  unfold State.disposeManagement
  split
  · exact handManagement_identity s _ _
  · split
    · split
      · exact (forward_identity _ _ _).trans (handManagement_identity s _ _)
      · exact forward_identity s _ _
    · split
      · exact forward_identity (s.bump .unknownKind) _ _
      · exact forward_identity s _ _

theorem dispose_identity (s : State) (body : List Byte) (x : Header) : (s.dispose body x).identity = s.identity := by
  unfold State.dispose
  split
  · exact forward_identity s _ _
  · split
    · exact unknownKind_identity s _ _
    · split
      · exact disposeData_identity s _ _ _
      · exact disposeManagement_identity s _ _ _

theorem arrive_identity (s : State) (body : List Byte) : (s.arrive body).identity = s.identity := by
  unfold State.arrive
  split
  · rfl
  · split
    · rfl
    · split
      · rfl
      · split
        · exact dispose_identity (s.bump .framesAccepted) _ _
        · rfl

theorem rxIdle_identity (s : State) : s.rxIdle.identity = s.identity := by
  unfold State.rxIdle
  split <;> rfl

theorem rxSync_identity (s : State) : s.rxSync.identity = s.identity := by
  unfold State.rxSync
  split <;> rfl

theorem rxData_identity (s : State) (b : Byte) : (s.rxData b).identity = s.identity := by
  unfold State.rxData
  split
  · rfl
  · rfl
  · split <;> rfl

theorem rxInvalid_identity (s : State) : s.rxInvalid.identity = s.identity := by
  unfold State.rxInvalid
  split <;> rfl

theorem rxEnd_identity (s : State) : s.rxEnd.identity = s.identity := by
  unfold State.rxEnd
  split
  · rfl
  · rfl
  · exact arrive_identity (s.setRx .wait []) _

theorem receive_identity (s : State) (body : List Byte) : (s.receive body).identity = s.identity :=
  (rxEnd_identity _).trans (List.foldlRecOn body State.rxData (motive := fun t => t.identity = s.identity)
    (rxSync_identity s) fun t h b _ => (rxData_identity t b).trans h)

theorem forwardSent_identity (s : State) : s.forwardSent.identity = s.identity := by
  unfold State.forwardSent
  split <;> rfl

theorem gapEnd_identity (s : State) : s.gapEnd.identity = s.identity := by
  unfold State.gapEnd
  split <;> rfl

theorem replySent_identity (s : State) : s.replySent.identity = s.identity := by
  unfold State.replySent
  split
  · dsimp only
    split <;> rfl
  all_goals rfl

/-! ### Every command -/

/-- A command taken by the running part answers a next state that keeps the identity when its effect does. -/
theorem live_completes {s : State} {effect : State → State} (h : (effect s).identity = s.identity) :
    ∃ t, live s effect = .next t ∧ t.identity = s.identity := by
  cases hrun : s.inReset with
  | true => exact ⟨s, live_held effect hrun, rfl⟩
  | false => exact ⟨_, live_running effect hrun, h⟩

/-- The same of what is paused while the part is frozen (R134). -/
theorem unlessFrozen_completes {s : State} {f : State → State} (h : (f s).identity = s.identity) :
    ∃ t, live s (fun s => if s.mgmt.frozen then s else f s) = .next t ∧ t.identity = s.identity := by
  refine live_completes ?_
  split
  · rfl
  · exact h

theorem exec_completes {c : Instr} (s : State) (hc : ∀ x, c ≠ .hardResetEnd x) :
    ∃ t, exec c s = .next t ∧ t.identity = s.identity := by
  cases hframe : c.frame with
  | some kf =>
    rw [exec_frame hframe]
    exact live_completes (receive_identity s _)
  | none =>
    cases c
    case hardReset => exact ⟨_, rfl, rfl⟩
    case hardResetEnd x => exact absurd rfl (hc x)
    case idleMarker => exact live_completes (rxIdle_identity s)
    case syncMarker => exact live_completes (rxSync_identity s)
    case dataByte b => exact live_completes (effect := fun s => s.rxData b) (rxData_identity s b)
    case invalidCharacter => exact live_completes (rxInvalid_identity s)
    case frameArrival => exact live_completes (rxEnd_identity s)
    case idleGapEnd => exact live_completes (gapEnd_identity s)
    case forwardedFrameSent => exact live_completes (forwardSent_identity s)
    case replySent => exact live_completes (replySent_identity s)
    case internalTick => exact live_completes (internalTick_identity s)
    case secpRisingEdge micros => exact live_completes (effect := fun s => s.secpEdge micros) (secpEdge_identity s micros)
    case clockWatchExpiry => exact live_completes (watchExpires_identity s)
    case scheduledInstantTick => exact live_completes (scheduledTick_identity s)
    case lingerExpiry | buildTimeout => exact live_completes rfl
    case dwellExpiry => exact unlessFrozen_completes (dwellSecond_identity s)
    case holdTimeout => exact unlessFrozen_completes (holdSecond_identity s)
    case noticeExpiry => exact unlessFrozen_completes (noticeSecond_identity s)
    case freezeTimeout => exact live_completes (freezeSecond_identity s)
    case frameTimerExpiry => exact live_completes (frameTimer_identity s)
    case fsyncRisingEdge => exact live_completes (fsyncEdge_identity s)
    case fsyncWatchExpiry => exact live_completes (fsyncWatch_identity s)
    case fieldPaint i => exact live_completes (effect := fun s => s.paintNext i) (paintNext_identity s i)
    case rowSent holdn => exact live_completes (effect := fun s => s.rowDone holdn) (rowDone_linkOnly s holdn).identity
    case holdnRelease => exact live_completes (holdReleased_linkOnly s).identity
    case holdLimitExpiry => exact live_completes (holdExpires_linkOnly s).identity
    case ackReceived head ambient =>
      exact live_completes (effect := fun s => s.seeActivity.takeAck head ambient)
        ((seeActivity_linkOnly s).trans (takeAck_linkOnly _ head ambient)).identity
    case nakReceived head code =>
      exact live_completes (effect := fun s => s.seeActivity.takeNak head code)
        ((seeActivity_linkOnly s).trans (takeNak_linkOnly _ head code)).identity
    case ackTimeout => exact live_completes (ackTimesOut_linkOnly s).identity
    case answerNotWellFormed groups => exact live_completes (effect := fun s => s.takeGroups groups) (takeGroups_linkOnly s groups).identity
    case lreqAsserted => exact live_completes (s := s.setLreq true) (lreqSeen_linkOnly _).identity
    case lreqReleased => exact live_completes (s := s.setLreq false) (lreqGone_linkOnly _).identity
    case lgntAsserted => exact live_completes (lgntSeen_linkOnly s).identity
    case activity => exact live_completes (seeActivity_linkOnly s).identity
    case grantWaitExpiry => exact live_completes (windowExpires_linkOnly s).identity
    case headerSent holdn => exact live_completes (effect := fun s => s.headerDone holdn) (headerDone_linkOnly s holdn).identity
    all_goals cases hframe

/-- The end of a hard reset keeps the queue and the serial (R193). -/
theorem hardResetEnd_completes (x : Straps) (s : State) :
    ∃ t, exec (.hardResetEnd x) s = .next t ∧ t.pending = s.pending ∧ t.serial = s.serial := by
  refine ⟨_, rfl, ?_⟩
  split
  · exact ⟨rfl, rfl⟩
  · exact ⟨rfl, rfl⟩

/-- Settles O2: the end of a hard reset, and every other command by what it keeps. -/
theorem everyCommandCompletes : Obligations.EveryCommandCompletes := by
  intro c s
  by_cases hend : ∃ x, c = .hardResetEnd x
  · obtain ⟨x, rfl⟩ := hend
    obtain ⟨t, hexec, hpending, hserial⟩ := hardResetEnd_completes x s
    exact ⟨t, hexec, hpending, hserial, fun hne => absurd rfl (hne x)⟩
  · obtain ⟨t, hexec, hkept⟩ := exec_completes s (not_exists.1 hend)
    exact ⟨t, hexec, congrArg Prod.fst hkept, congrArg (fun p => p.2.1) hkept, fun _ => congrArg (fun p => p.2.2) hkept⟩

end Sys2Proof.Machine
end

section
/-! PROOFS. The payloads of Departure Put, Departure Amend and Stops are read back value by value (R28, R32, R51, R198). -/

namespace Sys2Proof.Machine

/-! ### Numbers, codes and flags read back (R194, R197) -/

theorem status_ofCode_code (x : Status) : Status.ofCode x.code = some x := by
  cases x <;> rfl

theorem status_code_le (x : Status) : x.code ≤ 4 := by
  cases x <;> decide

theorem suffix_ofCode_code (x : Suffix) : Suffix.ofCode x.code = some x := by
  cases x <;> rfl

theorem suffix_code_le (x : Suffix) : x.code ≤ 4 := by
  cases x <;> decide

/-- A platform is read back from its number and its suffix code (R194). -/
theorem platformOf_codes {x : Platform} (hlo : 1 ≤ x.number) (hhi : x.number ≤ 99) :
    platformOf x.number x.suffix.code = some x := by
  unfold platformOf
  rw [if_neg (by omega), suffix_ofCode_code]

/-- A byte written after some bytes is read back there. -/
theorem u8_append (l r : List Byte) {n : Nat} (h : n ≤ 255) : u8 (l ++ ([b8 n] ++ r)) l.length = n := by
  simp [u8, b8, List.getD_eq_getElem?_getD]
  omega

theorem u8_append_pair (l r : List Byte) {m n : Nat} (hm : m ≤ 255) (hn : n ≤ 255) :
    u8 (l ++ ([b8 m, b8 n] ++ r)) l.length = m ∧ u8 (l ++ ([b8 m, b8 n] ++ r)) (l.length + 1) = n := by
  refine ⟨u8_append l (b8 n :: r) hm, ?_⟩
  have hsecond := u8_append (l ++ [b8 m]) r hn
  rwa [List.append_assoc, List.length_append] at hsecond

/-- An optional value is written as one word (R194). -/
theorem optBytes_eq_b16 (time : Option Nat) : optBytes time = b16 (time.getD 0xFFFF) := by
  cases time <;> rfl

theorem optBytes_length (time : Option Nat) : (optBytes time).length = 2 := by
  rw [optBytes_eq_b16]
  rfl

theorem optWord_le {time : Option Nat} (h : ∀ m ∈ time, m ≤ 1439) : time.getD 0xFFFF ≤ 65535 := by
  cases time with
  | none => exact Nat.le_refl _
  | some m => exact (h m rfl).trans (by decide)

theorem u16_optBytes (l r : List Byte) {time : Option Nat} (h : ∀ m ∈ time, m ≤ 1439) :
    u16 (l ++ (optBytes time ++ r)) l.length = time.getD 0xFFFF := by
  rw [optBytes_eq_b16]
  exact u16_append l r (optWord_le h)

/-- The word of an optional minute of day is in range and means that minute (R194). -/
theorem optWord_readsBack {time : Option Nat} (h : ∀ m ∈ time, m ≤ 1439) :
    optMinuteOk (time.getD 0xFFFF) = true ∧ optOf (time.getD 0xFFFF) = time := by
  have hword := u16_optBytes [] [] h
  rw [List.append_nil] at hword
  exact hword ▸ optBytes_readsBack [] h

/-- Only no time at all is written as the word for none. -/
theorem optWord_none_iff {time : Option Nat} (h : ∀ m ∈ time, m ≤ 1439) :
    time.getD 0xFFFF = 0xFFFF ↔ time = none := by
  cases time with
  | none => exact iff_of_true rfl rfl
  | some m =>
    have hm := h m rfl
    exact iff_of_false (show m ≠ 0xFFFF by omega) nofun

theorem flagByte_getLsbD (bs : List Bool) : ∀ {i : Nat}, i < 8 → (flagByte bs).getLsbD i = bs.getD i false := by
  induction bs with
  | nil => exact fun _ => BitVec.getLsbD_zero
  | cons b bs ih =>
    intro i hi
    cases i with
    | zero => cases b <;> simp [flagByte]
    | succ i =>
      have hlt : i < 8 := Nat.lt_of_succ_lt hi
      have hshifted := ih hlt
      rw [BitVec.getLsbD_eq_getElem hlt] at hshifted
      cases b <;> simpa [flagByte, hi] using hshifted

/-- Each bit of a flag byte is read back (R194). -/
theorem flagBit_flagByte (bs : List Bool) {i : Nat} (hi : i < 8) : flagBit (flagByte bs).toNat i = bs.getD i false :=
  flagByte_getLsbD bs hi

/-! ### Departure Put (R28) -/

/-- The values of a Departure Put are read back, Expected left out of a SCHEDULED one and the cars limited to 24. -/
theorem putData_ofPayload {id rev sched : Nat} {expected : Option Nat} {status : Status} {platform : Platform}
    {dest via cars : Nat} (hid : 1 ≤ id) (hid' : id ≤ 65535) (hrev : rev ≤ 255) (hsched : sched ≤ 1439)
    (hexpected : ∀ x ∈ expected, x ≤ 1439) (hstatus : status = .expected → expected ≠ none)
    (hplatform : 1 ≤ platform.number) (hplatform' : platform.number ≤ 99) (hdest : 1 ≤ dest) (hdest' : dest ≤ 4079)
    (hvia : via ≤ 4079) (hcars : cars ≤ 255) :
    PutData.ofPayload (b16 id ++ [b8 rev] ++ b16 sched ++ optBytes expected ++
        [b8 status.code, b8 platform.number, b8 platform.suffix.code] ++ b16 dest ++ b16 via ++ [b8 cars]) =
      some ⟨id, rev, sched, if status = .scheduled then none else expected, status, platform, dest, via, min cars 24,
        decide (24 < cars)⟩ := by
  obtain ⟨hok, hopt⟩ := optWord_readsBack hexpected
  have hnone := optWord_none_iff hexpected
  rw [optBytes_eq_b16]
  have hword := optWord_le hexpected
  generalize expected.getD 0xFFFF = e at hok hopt hnone hword
  generalize hp : b16 id ++ [b8 rev] ++ b16 sched ++ b16 e ++ [b8 status.code, b8 platform.number,
    b8 platform.suffix.code] ++ b16 dest ++ b16 via ++ [b8 cars] = p
  have h0 : u16 p 0 = id := hp ▸ u16_append [] _ hid'
  have h2 : u8 p 2 = rev := hp ▸ b8_toNat hrev
  have h3 : u16 p 3 = sched := hp ▸ u16_append (b16 id ++ [b8 rev]) _ (by omega)
  have h5 : u16 p 5 = e := hp ▸ u16_append (b16 id ++ [b8 rev] ++ b16 sched) _ hword
  have h7 : u8 p 7 = status.code := hp ▸ b8_toNat ((status_code_le status).trans (by decide))
  have h8 : u8 p 8 = platform.number := hp ▸ b8_toNat (by omega)
  have h9 : u8 p 9 = platform.suffix.code := hp ▸ b8_toNat ((suffix_code_le platform.suffix).trans (by decide))
  have h10 : u16 p 10 = dest :=
    hp ▸ u16_append (b16 id ++ [b8 rev] ++ b16 sched ++ b16 e ++
      [b8 status.code, b8 platform.number, b8 platform.suffix.code]) _ (by omega)
  have h12 : u16 p 12 = via :=
    hp ▸ u16_append (b16 id ++ [b8 rev] ++ b16 sched ++ b16 e ++
      [b8 status.code, b8 platform.number, b8 platform.suffix.code] ++ b16 dest) _ (by omega)
  have h14 : u8 p 14 = cars := hp ▸ b8_toNat hcars
  have hlen : p.length = 15 := hp ▸ rfl
  unfold PutData.ofPayload
  simp only [h0, h2, h3, h5, h7, h8, h9, h10, h12, h14, hlen, hok, hopt, hnone, status_ofCode_code,
    platformOf_codes hplatform hplatform']
  have hform : ¬ (15 ≠ 15 ∨ id = 0 ∨ 1439 < sched ∨ true = false ∨ dest = 0 ∨ 4079 < dest ∨ 4079 < via) := by
    simp only [Bool.true_eq_false, false_or]
    omega
  exact (if_neg hform).trans (if_neg fun h => hstatus h.1 h.2)

/-! ### The items of a Departure Amend (R32) -/

section Item

variable {α : Type} {mask bit size : Nat} {item : Option α}

/-- An item takes the place that the mask gives it. -/
theorem item_length {bytes : α → List Byte} (hbit : flagBit mask bit = item.isSome)
    (hsize : ∀ x, (bytes x).length = size) : ((item.map bytes).getD []).length = itemSize mask bit size := by
  unfold itemSize
  rw [hbit]
  cases item with
  | none => rfl
  | some x => exact hsize x

theorem item_bytes {bytes : α → List Byte} {written : List Byte} (h : (item.map bytes).getD [] = written) {x : α}
    (hx : x ∈ item) : written = bytes x := by
  cases hx
  exact h.symm

/-- An item that the mask names is what is read in its place. -/
theorem item_readsBack {β : Type} {read : Option β} {f : α → β} (hbit : flagBit mask bit = item.isSome)
    (h : ∀ x ∈ item, read = some (f x)) : (if flagBit mask bit = true then read else none) = item.map f := by
  rw [hbit]
  cases item with
  | none => rfl
  | some x => exact h x rfl

/-- A test of R32 on an item that every value of it passes. -/
theorem item_passes {bad : Prop} (hbit : flagBit mask bit = item.isSome) (h : ∀ x ∈ item, ¬ bad) :
    ¬ (flagBit mask bit = true ∧ bad) := by
  rw [hbit]
  rintro ⟨hsome, hbad⟩
  obtain ⟨x, hx⟩ := Option.isSome_iff_exists.1 hsome
  exact h x hx hbad

end Item

/-- A payload of an Amend holds these items, each in the place that the mask gives it (R198). -/
structure AmendHolds (p : List Byte) (mask : Nat) (expected : Option (Option Nat)) (status : Option Status)
    (platform : Option Platform) (via cars : Option Nat) : Prop where
  mask_eq : u8 p 3 = mask
  length_eq : p.length = 4 + itemSize mask 0 2 + itemSize mask 1 1 + itemSize mask 2 2 + itemSize mask 3 2 +
    itemSize mask 4 1
  bit_expected : flagBit mask 0 = expected.isSome
  bit_status : flagBit mask 1 = status.isSome
  bit_platform : flagBit mask 2 = platform.isSome
  bit_via : flagBit mask 3 = via.isSome
  bit_cars : flagBit mask 4 = cars.isSome
  expected_at : ∀ e ∈ expected, u16 p 4 = e.getD 0xFFFF
  status_at : ∀ x ∈ status, u8 p (4 + itemSize mask 0 2) = x.code
  platform_at : ∀ x ∈ platform, u8 p (4 + itemSize mask 0 2 + itemSize mask 1 1) = x.number ∧
    u8 p (4 + itemSize mask 0 2 + itemSize mask 1 1 + 1) = x.suffix.code
  via_at : ∀ v ∈ via, u16 p (4 + itemSize mask 0 2 + itemSize mask 1 1 + itemSize mask 2 2) = v
  cars_at : ∀ n ∈ cars, u8 p (4 + itemSize mask 0 2 + itemSize mask 1 1 + itemSize mask 2 2 + itemSize mask 3 2) = n

section Amend

variable {expected : Option (Option Nat)} {status : Option Status} {platform : Option Platform} {via cars : Option Nat}
  (hexpected : ∀ e ∈ expected, ∀ x ∈ e, x ≤ 1439) (hplatform : ∀ p ∈ platform, 1 ≤ p.number ∧ p.number ≤ 99)
  (hvia : ∀ v ∈ via, v ≤ 4079)
include hexpected hplatform hvia

/-- The mask and the items as a sender writes them after the service id and the revision stand in their places. -/
theorem amendHolds_written (hcars : ∀ n ∈ cars, n ≤ 255) {front E S P V C : List Byte} {mask : Byte}
    (hmask : mask = flagByte [expected.isSome, status.isSome, platform.isSome, via.isSome, cars.isSome])
    (hfront : front.length = 3) (hE : (expected.map optBytes).getD [] = E)
    (hS : (status.map (fun x => [b8 x.code])).getD [] = S)
    (hP : (platform.map (fun p => [b8 p.number, b8 p.suffix.code])).getD [] = P) (hV : (via.map b16).getD [] = V)
    (hC : (cars.map (fun n => [b8 n])).getD [] = C) :
    AmendHolds (front ++ [mask] ++ E ++ S ++ P ++ V ++ C) mask.toNat expected status platform via cars := by
  have hbits (i : Nat) (hi : i < 8) : flagBit mask.toNat i =
      [expected.isSome, status.isSome, platform.isSome, via.isSome, cars.isSome].getD i false :=
    hmask ▸ flagBit_flagByte _ hi
  have hsizeE : E.length = itemSize mask.toNat 0 2 := hE ▸ item_length (hbits 0 (by decide)) optBytes_length
  have hsizeS : S.length = itemSize mask.toNat 1 1 := hS ▸ item_length (hbits 1 (by decide)) fun _ => rfl
  have hsizeP : P.length = itemSize mask.toNat 2 2 := hP ▸ item_length (hbits 2 (by decide)) fun _ => rfl
  have hsizeV : V.length = itemSize mask.toNat 3 2 := hV ▸ item_length (hbits 3 (by decide)) fun _ => rfl
  have hsizeC : C.length = itemSize mask.toNat 4 1 := hC ▸ item_length (hbits 4 (by decide)) fun _ => rfl
  have hmaskAt : u8 (front ++ [mask] ++ E ++ S ++ P ++ V ++ C) 3 = mask.toNat := by
    simp [u8, List.getD_eq_getElem?_getD, hfront]
  have hfour : (front ++ [mask]).length = 4 := by
    rw [List.length_append, hfront]
    rfl
  generalize front ++ [mask] = front at *
  generalize hp : front ++ E ++ S ++ P ++ V ++ C = p at hmaskAt ⊢
  refine ⟨hmaskAt, ?length, hbits 0 (by decide), hbits 1 (by decide), hbits 2 (by decide), hbits 3 (by decide),
    hbits 4 (by decide), fun e he => ?expected, fun x hx => ?status, fun x hx => ?platform, fun v hv => ?via,
    fun n hn => ?cars⟩
  case length => simp only [← hp, List.length_append, hfour, hsizeE, hsizeS, hsizeP, hsizeV, hsizeC]
  case expected =>
    have hbytes : E = optBytes e := item_bytes hE he
    have hread := u16_optBytes front (S ++ P ++ V ++ C) (hexpected e he)
    simpa only [← hbytes, ← List.append_assoc, hp, hfour] using hread
  case status =>
    have hbytes : S = [b8 x.code] := item_bytes hS hx
    have hread := u8_append (front ++ E) (P ++ V ++ C) ((status_code_le x).trans (by decide))
    simpa only [← hbytes, ← List.append_assoc, hp, List.length_append, hfour, hsizeE] using hread
  case platform =>
    have hbytes : P = [b8 x.number, b8 x.suffix.code] := item_bytes hP hx
    have hread := u8_append_pair (front ++ E ++ S) (V ++ C) ((hplatform x hx).2.trans (by decide))
      ((suffix_code_le x.suffix).trans (by decide))
    simpa only [← hbytes, ← List.append_assoc, hp, List.length_append, hfour, hsizeE, hsizeS] using hread
  case via =>
    have hbytes : V = b16 v := item_bytes hV hv
    have hread := u16_append (front ++ E ++ S ++ P) C ((hvia v hv).trans (by decide))
    simpa only [← hbytes, ← List.append_assoc, hp, List.length_append, hfour, hsizeE, hsizeS, hsizeP] using hread
  case cars =>
    have hbytes : C = [b8 n] := item_bytes hC hn
    have hread := u8_append (front ++ E ++ S ++ P ++ V) [] (hcars n hn)
    simpa only [← hbytes, ← List.append_assoc, List.append_nil, hp, List.length_append, hfour, hsizeE, hsizeS, hsizeP,
      hsizeV] using hread

/-- A payload that holds items in range is read as those items, the cars limited to 24 (R32). -/
theorem amendData_of_holds {p : List Byte} {mask : Nat} (h : AmendHolds p mask expected status platform via cars)
    (hid : u16 p 0 ≠ 0) :
    AmendData.ofPayload p = some ⟨u16 p 0, u8 p 2, expected, status, platform, via, cars.map (fun n => min n 24),
      (cars.map (fun n => decide (24 < n))).getD false⟩ := by
  have hreadE : ∀ e ∈ expected, optMinuteOk (u16 p 4) = true ∧ optOf (u16 p 4) = e := by
    intro e he
    rw [h.expected_at e he]
    exact optWord_readsBack (hexpected e he)
  have hreadS : ∀ x ∈ status, Status.ofCode (u8 p (4 + itemSize mask 0 2)) = some x := by
    intro x hx
    rw [h.status_at x hx]
    exact status_ofCode_code x
  have hreadP : ∀ x ∈ platform, platformOf (u8 p (4 + itemSize mask 0 2 + itemSize mask 1 1))
      (u8 p (4 + itemSize mask 0 2 + itemSize mask 1 1 + 1)) = some x := by
    intro x hx
    obtain ⟨hnumber, hsuffix⟩ := h.platform_at x hx
    rw [hnumber, hsuffix]
    exact platformOf_codes (hplatform x hx).1 (hplatform x hx).2
  have hcut : (flagBit mask 4 && decide (24 <
      u8 p (4 + itemSize mask 0 2 + itemSize mask 1 1 + itemSize mask 2 2 + itemSize mask 3 2))) =
      (cars.map (fun n => decide (24 < n))).getD false := by
    rw [h.bit_cars]
    cases hcars : cars with
    | none => rfl
    | some n => exact congrArg (fun k => decide (24 < k)) (h.cars_at n hcars)
  unfold AmendData.ofPayload
  dsimp only
  rw [h.mask_eq, h.length_eq, if_neg (by omega),
    if_neg (item_passes h.bit_expected fun e he => by rw [(hreadE e he).1]; decide),
    if_neg (item_passes h.bit_status fun x hx => by rw [hreadS x hx]; exact Bool.false_ne_true),
    if_neg (item_passes h.bit_platform fun x hx => by rw [hreadP x hx]; exact Bool.false_ne_true),
    if_neg (item_passes h.bit_via fun v hv => by rw [h.via_at v hv]; exact Nat.not_lt.2 (hvia v hv)),
    item_readsBack h.bit_expected (f := id) fun e he => congrArg some (hreadE e he).2,
    item_readsBack h.bit_status (f := id) hreadS, item_readsBack h.bit_platform (f := id) hreadP,
    item_readsBack h.bit_via (f := id) fun v hv => congrArg some (h.via_at v hv),
    item_readsBack h.bit_cars (f := fun n => min n 24) fun n hn => congrArg (fun k => some (min k 24)) (h.cars_at n hn),
    hcut]
  simp only [Option.map_id, id]

end Amend

/-- The values of a Departure Amend are read back, whichever items its mask names. -/
theorem amendData_ofPayload {id rev : Nat} {expected : Option (Option Nat)} {status : Option Status}
    {platform : Option Platform} {via cars : Option Nat} (hid : 1 ≤ id) (hid' : id ≤ 65535) (hrev : rev ≤ 255)
    (hexpected : ∀ e ∈ expected, ∀ x ∈ e, x ≤ 1439) (hplatform : ∀ p ∈ platform, 1 ≤ p.number ∧ p.number ≤ 99)
    (hvia : ∀ v ∈ via, v ≤ 4079) (hcars : ∀ n ∈ cars, n ≤ 255) :
    AmendData.ofPayload (b16 id ++ [b8 rev,
          flagByte [expected.isSome, status.isSome, platform.isSome, via.isSome, cars.isSome]] ++
        (expected.map optBytes).getD [] ++ (status.map (fun x => [b8 x.code])).getD [] ++
        (platform.map (fun p => [b8 p.number, b8 p.suffix.code])).getD [] ++ (via.map b16).getD [] ++
        (cars.map (fun n => [b8 n])).getD []) =
      some ⟨id, rev, expected, status, platform, via, cars.map (fun n => min n 24),
        (cars.map (fun n => decide (24 < n))).getD false⟩ := by
  generalize hmask : flagByte [expected.isSome, status.isSome, platform.isSome, via.isSome, cars.isSome] = mask
  have hholds := amendHolds_written hexpected hplatform hvia hcars hmask.symm (front := b16 id ++ [b8 rev]) rfl rfl rfl
    rfl rfl rfl
  generalize hp : b16 id ++ [b8 rev] ++ [mask] ++ (expected.map optBytes).getD [] ++
    (status.map (fun x => [b8 x.code])).getD [] ++ (platform.map (fun p => [b8 p.number, b8 p.suffix.code])).getD [] ++
    (via.map b16).getD [] ++ (cars.map (fun n => [b8 n])).getD [] = p at hholds
  have h0 : u16 p 0 = id := hp ▸ u16_append [] _ hid'
  have h2 : u8 p 2 = rev := hp ▸ b8_toNat hrev
  have hdata := amendData_of_holds hexpected hplatform hvia hholds (by omega)
  rw [h0, h2, ← hp] at hdata
  exact hdata

/-! ### Stops (R51) -/

/-- A stop is read back from its two words: kind and station, and time (R198). -/
theorem stop_ofWords {x : Stop} (hlo : 1 ≤ x.station) (hhi : x.station ≤ 4079) (htime : ∀ m ∈ x.time, m ≤ 1439) :
    Stop.ofWords (x.kind.code * 16384 + x.station) (x.time.getD 0xFFFF) = some x := by
  obtain ⟨hkind, _⟩ := stopKind_ofCode_code x.kind
  obtain ⟨hok, hopt⟩ := optWord_readsBack htime
  have hbits : (x.kind.code * 16384 + x.station) / 4096 % 4 = 0 := by omega
  have hstation : (x.kind.code * 16384 + x.station) % 4096 = x.station := by omega
  have hcode : (x.kind.code * 16384 + x.station) / 16384 = x.kind.code := by omega
  unfold Stop.ofWords
  simp only [optMinuteOk, Bool.or_eq_true, decide_eq_true_eq] at hok
  rw [hbits, hstation, hcode, hkind, hopt, if_neg (by omega), if_neg (by omega), if_neg (by omega)]

theorem stop_word_le {x : Stop} (hhi : x.station ≤ 4079) : x.kind.code * 16384 + x.station ≤ 65535 := by
  obtain ⟨_, hle⟩ := stopKind_ofCode_code x.kind
  omega

theorem stop_bytes_length (x : Stop) : x.bytes.length = 4 := by
  unfold Stop.bytes
  rw [optBytes_eq_b16]
  rfl

/-- Stop records are read back from their bytes, wherever they stand (R198). -/
theorem stopsAt_bytes (stops : List Stop) : ∀ l : List Byte,
    (∀ x ∈ stops, 1 ≤ x.station ∧ x.station ≤ 4079 ∧ ∀ m ∈ x.time, m ≤ 1439) →
    stopsAt (l ++ stops.flatMap Stop.bytes) l.length stops.length = some stops := by
  induction stops with
  | nil => exact fun _ _ => rfl
  | cons x xs ih =>
    intro l h
    obtain ⟨⟨hlo, hhi, htime⟩, hrest⟩ := List.forall_mem_cons.1 h
    have hbytes : l ++ (x :: xs).flatMap Stop.bytes =
        l ++ (b16 (x.kind.code * 16384 + x.station) ++ (optBytes x.time ++ xs.flatMap Stop.bytes)) := by
      simp [Stop.bytes]
    have hword := u16_append l (optBytes x.time ++ xs.flatMap Stop.bytes) (stop_word_le hhi)
    have hminute := u16_optBytes (l ++ b16 (x.kind.code * 16384 + x.station)) (xs.flatMap Stop.bytes) htime
    have htwo : (b16 (x.kind.code * 16384 + x.station)).length = 2 := rfl
    have hxs := ih (l ++ x.bytes) hrest
    rw [List.length_append, stop_bytes_length, List.append_assoc, ← List.flatMap_cons, hbytes] at hxs
    rw [List.length_append, htwo, List.append_assoc] at hminute
    rw [hbytes, List.length_cons, stopsAt, hword, hminute, hxs, stop_ofWords hlo hhi htime]

/-- The values of a part are read back. -/
theorem stopsData_ofPayload {id rev part : Nat} {final : Bool} {stops : List Stop} (hid : 1 ≤ id) (hid' : id ≤ 65535)
    (hrev : rev ≤ 255) (hpart : part ≤ 7) (hcount : stops.length ≤ 12)
    (hstops : ∀ x ∈ stops, 1 ≤ x.station ∧ x.station ≤ 4079 ∧ ∀ m ∈ x.time, m ≤ 1439) :
    StopsData.ofPayload (b16 id ++ [b8 rev, b8 part, flagByte [final], b8 stops.length] ++ stops.flatMap Stop.bytes) =
      some ⟨id, rev, part, final, stops⟩ := by
  have hread := stopsAt_bytes stops (b16 id ++ [b8 rev, b8 part, flagByte [final], b8 stops.length]) hstops
  generalize hp : b16 id ++ [b8 rev, b8 part, flagByte [final], b8 stops.length] ++ stops.flatMap Stop.bytes = p at hread
  have h0 : u16 p 0 = id := hp ▸ u16_append [] _ hid'
  have h2 : u8 p 2 = rev := hp ▸ b8_toNat hrev
  have h3 : u8 p 3 = part := hp ▸ b8_toNat (by omega)
  have h4 : flagBit (u8 p 4) 0 = final := hp ▸ flagBit_flagByte [final] (by decide)
  have h5 : u8 p 5 = stops.length := hp ▸ b8_toNat (by omega)
  have hitems : stopsAt p 6 stops.length = some stops := hread
  have hlen : p.length = 6 + 4 * stops.length := by
    rw [← hp, List.length_append, List.length_flatMap]
    simp [stop_bytes_length, b16, Nat.mul_comm]
  unfold StopsData.ofPayload
  simp only [h0, h2, h3, h4, h5, hlen, hitems]
  exact if_neg (by omega)

/-! ### The statement -/

/-- Settles O16: the three payloads, each read back by its form test. -/
theorem departurePayloadsReadBack : Obligations.DeparturePayloadsReadBack :=
  ⟨fun _ _ _ _ _ _ _ _ _ => putData_ofPayload, fun _ _ _ _ _ _ _ => amendData_ofPayload,
    fun _ _ _ _ _ => stopsData_ofPayload⟩

end Sys2Proof.Machine
end

section
/-! PROOFS. What a step does, by what stands at the front of the queue. -/

namespace Sys2Proof.Machine

theorem step_of_pending_cons {s : State} {c : Instr} {rest : List Instr} (hfront : s.pending = c :: rest) :
    step s = exec c { s with pending := rest } := by
  rw [step, hfront]

/-- Nothing happens by itself on an empty queue (log 2). -/
theorem step_of_pending_nil {s : State} (hempty : s.pending = []) : step s = .next s := by
  rw [step, hempty]

/-- Settles O1: a command at the front of the queue, and an empty queue. -/
theorem stepRunsFrontCommand : Obligations.StepRunsFrontCommand :=
  ⟨fun _ _ _ => step_of_pending_cons, fun _ => step_of_pending_nil⟩

end Sys2Proof.Machine
end
